-- ==== Sys2Proof/Word.lean ====
section
/-!
DEFINITION. The plain words of the Lasjor 624: bytes, names and the index types of its tables.
The sizes are those of Table 0.1 (spec/00_scope.md) and R1, R4, R23, R72, R98.
-/

namespace Sys2Proof

/-- One byte of a frame or of the register window (0.6). -/
abbrev Byte := BitVec 8

/-- The 32-bit name of a lock (0.6, Keys). -/
abbrev LockName := BitVec 32

/-- Index of a lock entry, 0 to 2047 (R1). -/
abbrev EntryIx := Fin 2048

/-- Index of a claim record, 0 to 4095 (R23). -/
abbrev ClaimIx := Fin 4096

/-- Session slot, 0 to 95 (R72). -/
abbrev SlotIx := Fin 96

/-- Namespace number, 0 to 15 (R98). -/
abbrev NsIx := Fin 16

/-- Line number, 0 to 5 (Table 0.1). -/
abbrev LineIx := Fin 6

/-- Station address on its line, 0 to 15 (R72). -/
abbrev StationIx := Fin 16

/-- Bucket number, 0 to 511 (R4). -/
abbrev BucketIx := Fin 512

/-- A place of the table arbiter's rotation: 0 to 5 lines L0 to L5, 6 the management port,
7 the Deadline Unit, 8 the sweep source (R18; the spec counts the same places from 1). -/
abbrev SourceIx := Fin 9

/-- A place of the sweep source's own rotation: 0 to 95 the ending sweeps of the session slots,
96 to 111 the revoke sweeps of the namespaces, 112 the clear sweep (R21). -/
abbrev SweepIx := Fin 113

end Sys2Proof
end

