-- ==== Sys2Proof/Config.lean ====
section
/-!
DEFINITION. The fixed numbers of the part, each with its rule, and the one free value: what MISO carries
during the data bytes of a WRITE transaction, which the spec does not state.
-/

namespace Sys2Proof

/-- Largest value of the 40-bit time counter, at which it stays (R114). -/
abbrev Config.maxTime : Nat := 1099511627775

/-- Reference clocks in one millisecond count (R114). -/
abbrev Config.clocksPerMs : Nat := 24000

/-- The exhausted value of the token counter, 2^48 - 1 (R54). -/
abbrev Config.tokenExhausted : Nat := 281474976710655

/-- The TOKENS_LOW threshold, 2^48 - 2^20 (R58). -/
abbrev Config.tokensLowMark : Nat := 281474975662080

/-- Longest bucket chain (R5, R7). -/
abbrev Config.chainLimit : Nat := 8

/-- Frames a line's request queue holds (R150). -/
abbrev Config.requestDepth : Nat := 4

/-- Slots of a line's reply queue (R151). -/
abbrev Config.replySlots : Nat := 4

/-- Expiries the expiry queue holds (R121). -/
abbrev Config.expiryDepth : Nat := 8

/-- The wait value that waits without bound (section 2.5). -/
abbrev Config.waitForever : Nat := 65535

/-- Value at which a 16-bit line or device counter stays (R159, R183). -/
abbrev Config.counterMax : Nat := 65535

/-- The request sync byte (R128). -/
abbrev Config.requestSync : Byte := 0xA5#8

/-- The sync byte of replies and notices (R130). -/
abbrev Config.replySync : Byte := 0x5A#8

/-- The identification byte: part code 7, revision 1 (R188). -/
abbrev Config.identification : Byte := 0x71#8

/-- The mailbox acknowledge code (R164). -/
abbrev Config.ackCode : Byte := 0xFF#8

/-- Free value: the byte MISO shifts out during data byte `k` of a WRITE transaction with these data
bytes. R161 states MISO for READ, for unknown instructions and for the first two bytes only
(notes/assumptions/7.md). -/
opaque Config.misoDuringWrite (data : List Byte) (k : Nat) : Byte

end Sys2Proof
end

