-- ==== Sys2Proof/Syntax.lean ====
section
/-!
DEFINITION. The commands of the block: one constructor for every row of spec/opcode_table.json.

Operands. A station request is named by its line: its fields are those of the frame at the head of
that line's request queue (R18, R19, R150). A management command has no operand: its code and its
parameters stand in the mailbox (R165, R189). A host write is one data byte of a WRITE transaction, with
its place in it (R161). A received character is given by its sampled bits
(R145). A measured interval is given in periods of REFCLK. See notes/assumptions/4.md, 6.md, 7.md, 8.md.
-/

namespace Sys2Proof

/-- A character as the receiver samples it: data bits, parity bit (looked at only when the line's
parity is EVEN or ODD) and stop bit (R145). -/
structure RxChar where
  data : Byte
  parityBit : Bool
  stopBit : Bool
  deriving DecidableEq, Repr

/-- Which cause byte, or mask byte, of the window a host write addresses: the device's, or the one
byte of a line that holds both (R181, R188). -/
inductive CauseByte where
  | device
  | line (l : LineIx)
  deriving DecidableEq, Repr

/-- Where a data byte stands in its WRITE transaction: whether it is the first, with CS_N asserted and the
instruction and address bytes sent just before it, and whether it is the last, with CS_N negated after it
(R161; notes/assumptions/7.md). -/
structure SpiPlace where
  first : Bool
  last : Bool
  deriving DecidableEq, Repr

/-- The data byte is the only one of its transaction; the place of a host write that names no other. -/
def SpiPlace.whole : SpiPlace := ⟨true, true⟩

/-- The commands. -/
inductive Instr where
  /-- OPEN (R81): the request at the head of the line's queue is taken. -/
  | reqOpen (l : LineIx)
  /-- CLOSE (R87). -/
  | reqClose (l : LineIx)
  /-- RENEW (R83). -/
  | reqRenew (l : LineIx)
  /-- ACQUIRE (R32). -/
  | reqAcquire (l : LineIx)
  /-- RELEASE (R41). -/
  | reqRelease (l : LineIx)
  /-- CONVERT (R59). -/
  | reqConvert (l : LineIx)
  /-- CANCEL (R42). -/
  | reqCancel (l : LineIx)
  /-- QUERY (R139). -/
  | reqQuery (l : LineIx)
  /-- GROUP (R70). -/
  | reqGroup (l : LineIx)
  /-- A request whose kind byte is not 0x01 to 0x09 (R133). -/
  | reqUnknownKind (l : LineIx)
  /-- SET TOKEN BASE (R55): the command in the mailbox is taken. -/
  | setTokenBase
  /-- START SERVICE (R167). -/
  | startService
  /-- SUSPEND SERVICE (R167). -/
  | suspendService
  /-- CLEAR SERVICE (R168). -/
  | clearService
  /-- DEFINE NAMESPACE (R104). -/
  | defineNamespace
  /-- CHANGE NAMESPACE (R105). -/
  | changeNamespace
  /-- DISABLE NAMESPACE, DRAIN form (R107). -/
  | disableNamespaceDrain
  /-- DISABLE NAMESPACE, REVOKE form (R107). -/
  | disableNamespaceRevoke
  /-- EVICT SESSION (R171). -/
  | evictSession
  /-- INSPECT SESSION (R174). -/
  | inspectSession
  /-- REVOKE LOCK, scope HOLDERS (R172). -/
  | revokeLockHolders
  /-- REVOKE LOCK, scope ALL (R172). -/
  | revokeLockAll
  /-- INSPECT LOCK (R173). -/
  | inspectLock
  /-- LINE CONFIG (R158). -/
  | lineConfig
  /-- LINE ENABLE (R158). -/
  | lineEnable
  /-- LINE DISABLE (R155). -/
  | lineDisable
  /-- LINE RESTART (R155). -/
  | lineRestart
  /-- SET LEASE BOUNDS (R175). -/
  | setLeaseBounds
  /-- SET POOL THRESHOLD (R176). -/
  | setPoolThreshold
  /-- READ COUNTERS (R177). -/
  | readCounters
  /-- A mailbox command whose code is not in Table 9.2 (R165). -/
  | unknownCommand
  /-- The host writes 0xFF to the command code byte (R164). -/
  | mailboxAck (p : SpiPlace := .whole)
  /-- The host writes a window byte that has no row of its own (R162). -/
  | registerWrite (addr data : Byte) (p : SpiPlace := .whole)
  /-- The host writes a cause byte (R181). -/
  | causeClear (target : CauseByte) (data : Byte) (p : SpiPlace := .whole)
  /-- The host writes a mask byte (R182). -/
  | maskWrite (target : CauseByte) (data : Byte) (p : SpiPlace := .whole)
  /-- The last CRC byte of a request frame is collected (R149). -/
  | frameReceived (l : LineIx) (ch : RxChar)
  /-- The character after a sync byte is received (R147). -/
  | lengthByte (l : LineIx) (ch : RxChar)
  /-- An idle interval inside a frame has lasted `idle` clocks (R148). -/
  | gapLimitExpiry (l : LineIx) (idle : Nat)
  /-- BREAK: RXD has been low for `low` clocks (R154). -/
  | breakDetected (l : LineIx) (low : Nat)
  /-- The restart step of a break-begun restart (R156). -/
  | restartStep (l : LineIx)
  /-- The transmitter starts a reply frame; the receiver has been idle for `idle` clocks (R152). -/
  | replyFrameStart (l : LineIx) (idle : Nat)
  /-- The transmitter starts the notice frame of a claim (R51). -/
  | noticeFrameStart (l : LineIx) (idle : Nat)
  /-- The transmitter starts a SESSION_ENDED frame (R94). -/
  | sessionEndedFrameStart (l : LineIx) (idle : Nat)
  /-- The millisecond divider completes a count (R114). -/
  | timeCounterAdvance
  /-- The Deadline Unit posts the head of the deadline list (R120). -/
  | posting
  /-- A LEASE expiry is taken (R123). -/
  | leaseExpiry
  /-- A WAIT expiry is taken (R124). -/
  | waitExpiry
  /-- A claim step of a session's ending sweep (R89). -/
  | endingSweepStep (slot : SlotIx)
  /-- The final step of a session's ending sweep (R91). -/
  | endingSweepFinalStep (slot : SlotIx)
  /-- An entry step of a namespace's revoke sweep (R110). -/
  | revokeSweepStep (n : NsIx)
  /-- The final step of a namespace's revoke sweep (R111). -/
  | revokeSweepFinalStep (n : NsIx)
  /-- A session step of the clear sweep (R169). -/
  | clearStep
  /-- The final step of the clear sweep (R170). -/
  | clearSweepFinalStep
  /-- Device reset (R16). -/
  | deviceReset
  /-- A character is received in HUNT (R147). -/
  | requestSyncByte (l : LineIx) (ch : RxChar)
  /-- A character other than the last CRC byte is received in BODY (R148). -/
  | bodyCharacter (l : LineIx) (ch : RxChar)
  /-- The stop bit of a frame's last character has been sent (R153). -/
  | frameTransmissionEnd (l : LineIx)
  /-- RXD has been high for `high` clocks after a break: 0 at the rise itself (R154). -/
  | breakEnd (l : LineIx) (high : Nat := 0)
  deriving DecidableEq, Repr

end Sys2Proof
end

