-- ==== Sys2Proof/WellFormed.lean ====
section
/-!
DEFINITION. Well-formedness of a command as syntax. Line, slot and namespace operands are in range by
their types. The one check left: REGISTER_WRITE is a write "without a row of its own", so it is not a
write that the table lists as MAILBOX_ACK, CAUSE_CLEAR or MASK_WRITE.
-/

namespace Sys2Proof

/-- The window address a SPI address byte selects: its six least significant bits (R161). -/
def windowAddress (addr : Byte) : Nat := addr.toNat % 64

/-- The host writes that have a row of their own: the acknowledge, and the cause and mask bytes at
0x02 to 0x09 (R164, R188). -/
def hasOwnRow (addr data : Byte) : Bool :=
  let a := windowAddress addr
  (a == 0 && data == Config.ackCode) || (2 ≤ a && a ≤ 9)

/-- A command is well formed. -/
def Instr.wellFormed : Instr → Bool
  | .registerWrite addr data _ => !hasOwnRow addr data
  | _ => true

end Sys2Proof
end

