-- ==== Sys2Proof/Machine/State.lean ====
section
/-!
DEFINITION. The whole state of the Lasjor 624, as plain data, and its value after device reset. Grouped by
the block that holds it (Table 0.1). Reset values: R16, R52, R97, R113, R126, R160, R178, R185.
-/

namespace Sys2Proof.Machine

/-! ### Locks and claims -/

/-- SHARED or EXCLUSIVE (R1, R23). -/
inductive Mode where
  | shared
  | exclusive
  deriving DecidableEq, Repr

/-- A lock's key: namespace number and 32-bit name (0.6). -/
structure Key where
  ns : NsIx
  name : LockName
  deriving DecidableEq, Repr

/-- A lock entry (Table 1.3). The chain link is the entry's successor on its bucket's list
(`State.chainLink`; notes/assumptions/14.md). -/
structure Entry where
  occupied : Bool
  key : Key
  mode : Mode
  /-- HELD claims in grant order (R28). -/
  holders : List ClaimIx
  /-- WAITING claims in arrival order (R29). -/
  waiters : List ClaimIx
  /-- The pending upgrade (R63). -/
  upgrade : Option ClaimIx
  latestToken : Nat
  deriving DecidableEq, Repr

/-- A free entry (R16). -/
def Entry.reset : Entry :=
  { occupied := false, key := ⟨0, 0⟩, mode := .shared, holders := [], waiters := [],
    upgrade := none, latestToken := 0 }

/-- State of a claim record (R27). -/
inductive ClaimState where
  | free
  | held
  | waiting
  | detached
  deriving DecidableEq, Repr

/-- Kind of a claim's pending notice (Table 2.1). -/
inductive NoticeKind where
  | granted
  | waitExpired
  | revoked
  deriving DecidableEq, Repr

/-- A claim record (Table 2.1). -/
structure Claim where
  state : ClaimState
  mode : Mode
  entry : EntryIx
  key : Key
  session : SlotIx
  token : Nat
  waitDeadline : Option Nat
  upgrade : Bool
  notice : Option NoticeKind
  useCount : BitVec 16
  deriving DecidableEq, Repr

/-- A claim record at device reset (R52). -/
def Claim.reset : Claim :=
  { state := .free, mode := .shared, entry := 0, key := ⟨0, 0⟩, session := 0, token := 0,
    waitDeadline := none, upgrade := false, notice := none, useCount := 0 }

/-! ### Sessions -/

/-- State of a session (R73). -/
inductive SessionState where
  | idle
  | opened
  | ending
  | ended
  deriving DecidableEq, Repr

/-- End cause of a session (Table 4.1, R141). -/
inductive EndCause where
  | none
  | closed
  | leaseExpired
  | evicted
  | lineRestart
  | lineBreak
  | serviceClear
  deriving DecidableEq, Repr

/-- Reply statuses (Table 7.4). -/
inductive Status where
  | ok
  | queued
  | notAvailable
  | notInService
  | suspended
  | noSession
  | staleIncarnation
  | sessionEnding
  | sessionExists
  | badRing
  | badRequest
  | nsDisabled
  | accessDenied
  | quotaFull
  | tableFull
  | poolEmpty
  | queueFull
  | alreadyClaimed
  | notHeld
  | notWaiting
  | upgradeConflict
  | tokensExhausted
  deriving DecidableEq, Repr

/-- A reply as the table makes it: status and payload (R76). -/
structure Reply where
  status : Status
  payload : List Byte
  deriving DecidableEq, Repr

/-- A session's reply cache (R76). -/
structure ReplyCache where
  tag : Byte
  kind : Byte
  reply : Reply
  valid : Bool
  deriving DecidableEq, Repr

/-- Where a session's ending sweep stands: not active, active with its first step still to come, or
active past its first step (R86, R89). -/
inductive EndingSweep where
  | inactive
  | starting
  | running
  deriving DecidableEq, Repr

/-- A session record (Table 4.1), with the activity of its ending sweep (R21). -/
structure Session where
  state : SessionState
  incarnation : Byte
  ring : Nat
  lease : Nat
  leaseDeadline : Option Nat
  heldCount : Nat
  waitingCount : Nat
  /-- The session's claims in creation order (R30). -/
  claimList : List ClaimIx
  cache : ReplyCache
  noticeCounter : Byte
  endCause : EndCause
  noticeSuppressed : Bool
  /-- Close reply pending (Table 4.1). -/
  closeReply : Bool
  endingSweep : EndingSweep
  deriving DecidableEq, Repr

/-- A session record at device reset (R97). -/
def Session.reset : Session :=
  { state := .idle, incarnation := 0, ring := 7, lease := 0, leaseDeadline := none, heldCount := 0,
    waitingCount := 0, claimList := [], cache := ⟨0, 0, ⟨.ok, []⟩, false⟩, noticeCounter := 0,
    endCause := .none, noticeSuppressed := false, closeReply := false, endingSweep := .inactive }

/-! ### Namespaces -/

/-- State of a namespace (R99). -/
inductive NsState where
  | disabled
  | enabled
  | draining
  deriving DecidableEq, Repr

/-- The six values the host gives a namespace (R104): the ring limits, the per-lock limits and the
quota. -/
structure NsRules where
  exclusiveLimit : Nat
  sharedLimit : Nat
  queryLimit : Nat
  sharerLimit : Nat
  queueLimit : Nat
  quota : Nat
  deriving DecidableEq, Repr

/-- A namespace descriptor (Table 5.1), with the two counts its revoke sweep reports (R111). -/
structure Namespace where
  state : NsState
  rules : NsRules
  occupied : Nat
  revokeSweep : Bool
  scanIndex : Nat
  sweepEntries : Nat
  sweepClaims : Nat
  deriving DecidableEq, Repr

/-- A namespace descriptor at device reset (R113). -/
def Namespace.reset : Namespace :=
  { state := .disabled, rules := ⟨1, 1, 1, 8, 8, 2048⟩, occupied := 0, revokeSweep := false,
    scanIndex := 0, sweepEntries := 0, sweepClaims := 0 }

/-! ### Deadlines -/

/-- What a deadline refers to: a session's lease, or a claim's wait with the record's use count
(R117). -/
inductive DeadlineRef where
  | lease (slot : SlotIx)
  | wait (c : ClaimIx) (useCount : BitVec 16)
  deriving DecidableEq, Repr

/-- An entry of the deadline list, and the expiry posted from it (R117, R120). -/
structure Deadline where
  ref : DeadlineRef
  time : Nat
  deriving DecidableEq, Repr

/-! ### Lines -/

/-- Parity of a line's characters (R144). -/
inductive Parity where
  | none
  | even
  | odd
  deriving DecidableEq, Repr

/-- Duplex of a line (R144). -/
inductive Duplex where
  | full
  | half
  deriving DecidableEq, Repr

/-- Break action of a line (R144). -/
inductive BreakAction where
  | ignore
  | restart
  deriving DecidableEq, Repr

/-- A line's configuration (Table 8.1). The two gaps are in character times. -/
structure LineConfig where
  divisor : Nat
  parity : Parity
  duplex : Duplex
  turnaround : Nat
  gapLimit : Nat
  ringFloor : Nat
  breakAction : BreakAction
  deriving DecidableEq, Repr

/-- Line configuration at device reset (Table 8.1). -/
def LineConfig.reset : LineConfig :=
  { divisor := 13, parity := .none, duplex := .full, turnaround := 2, gapLimit := 8,
    ringFloor := 7, breakAction := .ignore }

/-- State of a line (R146). -/
inductive LineState where
  | disabled
  | active
  | restarting
  deriving DecidableEq, Repr

/-- The state a line takes when a command-begun restart completes (R146). -/
inductive RestartEnd where
  | active
  | disabled
  deriving DecidableEq, Repr

/-- The frame assembler (8.3): hunting, waiting for the length byte, or collecting `length + 2`
bytes with the bad mark. -/
inductive Assembler where
  | hunt
  | length
  | body (length : Nat) (bytes : List Byte) (bad : Bool)
  deriving DecidableEq, Repr

/-- What the receiver and the break detector of a line wait for after a break (R154): nothing; RXD to go
high, since it has been low from the break on; or, with RXD gone high and the detector armed again, RXD to
have been high for one character time before a start bit is recognised. -/
inductive BreakHold where
  | clear
  | low
  | settling
  deriving DecidableEq, Repr

/-- A frame in a request queue, from its station byte to its last payload byte (R128, R150). -/
structure Request where
  station : StationIx
  incarnation : Byte
  tag : Byte
  kind : Byte
  payload : List Byte
  deriving DecidableEq, Repr

/-- What filling a reply slot puts into it (R151). -/
structure ReplyContent where
  incarnation : Byte
  status : Status
  noticeCounter : Byte
  payload : List Byte
  deriving DecidableEq, Repr

/-- An occupied reply slot: reserved while `content` is absent, filled when it is present (R151).
The free slots of the four are those not on the line's list (notes/assumptions/15.md). -/
structure ReplySlot where
  station : StationIx
  tag : Byte
  /-- The reply kind byte (R130). -/
  kind : Byte
  content : Option ReplyContent
  deriving DecidableEq, Repr

/-- An item of a line's notice list: a claim's notice, or a SESSION_ENDED (2.10). -/
inductive NoticeItem where
  | claim (c : ClaimIx)
  | sessionEnded (slot : SlotIx)
  deriving DecidableEq, Repr

/-- The eight counters of a line (R159). -/
structure LineCounters where
  good : Nat
  crc : Nat
  truncated : Nat
  badLength : Nat
  badVersion : Nat
  charError : Nat
  queueDrop : Nat
  brk : Nat
  deriving DecidableEq, Repr

/-- All eight counters 0 (R160). -/
def LineCounters.reset : LineCounters := ⟨0, 0, 0, 0, 0, 0, 0, 0⟩

/-- A Line Unit, with the line's causes and masks of the Attention Unit (R146 to R160, R180). -/
structure Line where
  config : LineConfig
  state : LineState
  restartEnd : RestartEnd
  restartStepPending : Bool
  assembler : Assembler
  /-- The request queue, oldest first (R150). -/
  requests : List Request
  /-- The reserved and filled reply slots, in the order they were reserved (R151). -/
  replies : List ReplySlot
  /-- The notice list, head first (R152). -/
  notices : List NoticeItem
  /-- The bytes of the frame the transmitter is sending, absent while it is free (R152). -/
  transmitting : Option (List Byte)
  /-- What is waited for after a break (R154; notes/assumptions/9.md). -/
  breakHold : BreakHold
  counters : LineCounters
  /-- Bit 0 LINE_ERROR, 1 FRAME_DROP, 2 BREAK (R188). -/
  causes : BitVec 3
  masks : BitVec 3
  deriving DecidableEq, Repr

/-- A Line Unit at device reset (R160, R185). -/
def Line.reset : Line :=
  { config := LineConfig.reset, state := .disabled, restartEnd := .active,
    restartStepPending := false, assembler := .hunt, requests := [], replies := [], notices := [],
    transmitting := none, breakHold := .clear, counters := LineCounters.reset, causes := 0#3,
    masks := 7#3 }

/-! ### Management Port and Attention Unit -/

/-- Service state (R166). -/
inductive ServiceState where
  | halted
  | running
  | suspended
  | clearing
  deriving DecidableEq, Repr

/-- Mailbox state; a BUSY mailbox holds the taken mark (R164). -/
inductive Mailbox where
  | idle
  | busy (taken : Bool)
  | done
  deriving DecidableEq, Repr

/-- Result codes (Table 9.3). -/
inductive ResultCode where
  | ok
  | badState
  | badValue
  | noTokenBase
  | inUse
  | notFound
  | noSession
  | alreadyEnding
  | unknownCommand
  deriving DecidableEq, Repr

/-- The long command that holds the mailbox BUSY after it was taken, with the parameter its
completion needs (R165). -/
inductive LongCommand where
  | clearService
  | revokeNamespace (n : NsIx)
  | evict (slot : SlotIx)
  | restartLine (l : LineIx)
  deriving DecidableEq, Repr

/-- The five device counters (R183). -/
structure DeviceCounters where
  grants : Nat
  refusals : Nat
  leaseExpiries : Nat
  waitExpiries : Nat
  revokes : Nat
  deriving DecidableEq, Repr

/-- All five counters 0 (R185). -/
def DeviceCounters.reset : DeviceCounters := ⟨0, 0, 0, 0, 0⟩

/-- The state of the part. -/
structure State where
  /-- The commands that are waiting, first in first out (notes/assumptions/1.md). -/
  pending : List Instr
  /-- Lock Table: the lock entries (R1). -/
  entries : Vector Entry 2048
  /-- Lock Table: the bucket chains, each from its first entry (R5). -/
  chains : Vector (List EntryIx) 512
  /-- Lock Table: the token counter's value (R54). -/
  tokenCounter : Nat
  /-- Lock Table: the token counter's loaded mark (R54). -/
  tokenLoaded : Bool
  /-- Window: the free entry count (R14). -/
  freeEntryCount : Nat
  /-- Table arbiter: the source last served (R19). -/
  arbiterLast : SourceIx
  /-- Sweep source: the sweep last served (R21). -/
  sweepLast : SweepIx
  /-- Claim Pool: the claim records (R23). -/
  claims : Vector Claim 4096
  /-- Claim Pool: the free list, head first (R24). -/
  freeList : List ClaimIx
  /-- Window: the free claim count (R26). -/
  freeClaimCount : Nat
  /-- Session Table (R72). -/
  sessions : Vector Session 96
  /-- Namespace Table (R98). -/
  namespaces : Vector Namespace 16
  /-- Deadline Unit: the divider's count of reference clocks (R114). -/
  divider : Nat
  /-- Deadline Unit: the time counter (R114). -/
  time : Nat
  /-- Deadline Unit: the deadline list, earliest first (R117). -/
  deadlines : List Deadline
  /-- Deadline Unit: the expiry queue, oldest first (R121). -/
  expiries : List Deadline
  /-- The six Line Units (chapter 8). -/
  lines : Vector Line 6
  /-- Management Port: the service state (R166). -/
  service : ServiceState
  /-- Management Port: the mailbox (R164). -/
  mailbox : Mailbox
  /-- Management Port: the command code latch (R164). -/
  commandCode : Byte
  /-- Management Port: the long command in progress (R165). -/
  longCommand : Option LongCommand
  /-- Management Port: the result code (R165). -/
  resultCode : ResultCode
  /-- Window: the 20 parameter bytes (R162). -/
  params : Vector Byte 20
  /-- Window: the 24 result bytes (R162). -/
  result : Vector Byte 24
  /-- Management Port: the SPI WRITE transaction in progress, as the window address its next data byte goes
  to; absent while none is in progress (R161, R178). -/
  spiWrite : Option Nat
  /-- Management Port: the lease minimum (R175). -/
  leaseMin : Nat
  /-- Management Port: the lease maximum (R175). -/
  leaseMax : Nat
  /-- Management Port: the pool threshold (R176). -/
  poolThreshold : Nat
  /-- Whether the clear sweep is active (R168, R170). -/
  clearSweep : Bool
  /-- Sessions ended by the running clear's steps (R169). -/
  clearSessions : Nat
  /-- Claims freed by the running clear's steps (R169). -/
  clearClaims : Nat
  /-- Entries retired by the running clear's steps (R169). -/
  clearEntries : Nat
  /-- Attention Unit: the device causes, bit 0 COMMAND_DONE to bit 6 TOKENS_LOW (R179, R188). -/
  deviceCauses : BitVec 7
  /-- Attention Unit: the device mask (R182). -/
  deviceMask : BitVec 7
  /-- Attention Unit: the device counters (R183). -/
  counters : DeviceCounters
  deriving DecidableEq, Repr

/-- The indices `i`, `i + 1`, … below `n`, at most `fuel` of them. -/
def indicesFrom (n : Nat) : (fuel : Nat) → (i : Nat) → List (Fin n)
  | 0, _ => []
  | fuel + 1, i => if h : i < n then ⟨i, h⟩ :: indicesFrom n fuel (i + 1) else []

/-- The part right after device reset: R16, R52, R97, R113, R126, R160, R178, R185. -/
def State.reset : State :=
  { pending := []
    entries := Vector.replicate 2048 Entry.reset
    chains := Vector.replicate 512 []
    tokenCounter := 0
    tokenLoaded := false
    freeEntryCount := 2048
    arbiterLast := 8
    sweepLast := 112
    claims := Vector.replicate 4096 Claim.reset
    freeList := indicesFrom 4096 4096 0
    freeClaimCount := 4096
    sessions := Vector.replicate 96 Session.reset
    namespaces := Vector.replicate 16 Namespace.reset
    divider := 0
    time := 0
    deadlines := []
    expiries := []
    lines := Vector.replicate 6 Line.reset
    service := .halted
    mailbox := .idle
    commandCode := 0
    longCommand := none
    resultCode := .ok
    params := Vector.replicate 20 0
    result := Vector.replicate 24 0
    spiWrite := none
    leaseMin := 200
    leaseMax := 30000
    poolThreshold := 256
    clearSweep := false
    clearSessions := 0
    clearClaims := 0
    clearEntries := 0
    deviceCauses := 0#7
    deviceMask := 0x7F#7
    counters := DeviceCounters.reset }

/-! ### Reasons to stop -/

/-- Faults. The spec gives every command of the table an effect or a named reply in every state, so no
meaning of this model stops: the type has no constructor. -/
inductive Fault where
  deriving DecidableEq, Repr

/-- Refusals. -/
inductive Refusal where
  /-- A command that has no meaning yet, by its mnemonic. Raised only by an arm of `exec`; no arm
  raises it now. Safe: the model stops where the part goes on. -/
  | notModelled (mnemonic : String)
  deriving DecidableEq, Repr

end Sys2Proof.Machine
end

