-- ==== Sys2Proof/Machine/Access.lean ====
section
/-!
DEFINITION. Reading and changing one record of the state's tables, the searches over indices, and the
places of the two rotations. Every later operation reaches the tables through these.
-/

namespace Sys2Proof.Machine

/-! ### Records of the tables -/

/-- The lock entry at an index. -/
def State.entry (s : State) (e : EntryIx) : Entry := s.entries[e]

/-- The claim record at an index. -/
def State.claim (s : State) (c : ClaimIx) : Claim := s.claims[c]

/-- The session record of a slot. -/
def State.session (s : State) (i : SlotIx) : Session := s.sessions[i]

/-- The descriptor of a namespace. -/
def State.ns (s : State) (n : NsIx) : Namespace := s.namespaces[n]

/-- The Line Unit of a line. -/
def State.line (s : State) (l : LineIx) : Line := s.lines[l]

/-- The chain of a bucket, first entry first (R5). -/
def State.chain (s : State) (b : BucketIx) : List EntryIx := s.chains[b]

/-- Change one lock entry. -/
def State.updEntry (s : State) (e : EntryIx) (f : Entry → Entry) : State :=
  { s with entries := s.entries.set e (f (s.entry e)) }

/-- Change one claim record. -/
def State.updClaim (s : State) (c : ClaimIx) (f : Claim → Claim) : State :=
  { s with claims := s.claims.set c (f (s.claim c)) }

/-- Change one session record. -/
def State.updSession (s : State) (i : SlotIx) (f : Session → Session) : State :=
  { s with sessions := s.sessions.set i (f (s.session i)) }

/-- Change one namespace descriptor. -/
def State.updNs (s : State) (n : NsIx) (f : Namespace → Namespace) : State :=
  { s with namespaces := s.namespaces.set n (f (s.ns n)) }

/-- Change one Line Unit. -/
def State.updLine (s : State) (l : LineIx) (f : Line → Line) : State :=
  { s with lines := s.lines.set l (f (s.line l)) }

/-- Change one bucket chain. -/
def State.updChain (s : State) (b : BucketIx) (f : List EntryIx → List EntryIx) : State :=
  { s with chains := s.chains.set b (f (s.chain b)) }

/-! ### Searches over indices -/

/-- The first index at or after `i` that satisfies `p`, among at most `fuel` indices. -/
def firstFrom {n : Nat} (p : Fin n → Bool) : (fuel : Nat) → (i : Nat) → Option (Fin n)
  | 0, _ => none
  | fuel + 1, i =>
    if h : i < n then (if p ⟨i, h⟩ then some ⟨i, h⟩ else firstFrom p fuel (i + 1)) else none

/-- The lowest index that satisfies `p`. -/
def lowest {n : Nat} (p : Fin n → Bool) : Option (Fin n) := firstFrom p n 0

/-- The first index after `last` that satisfies `p` in cyclic order; `last` itself comes last
(R19, R21). -/
def firstAfter {n : Nat} (p : Fin n → Bool) (last : Fin n) : Option (Fin n) :=
  match firstFrom p n (last.val + 1) with
  | some i => some i
  | none => lowest p

/-! ### Slots, lines and the places of the rotations -/

/-- The session slot of a station on a line: line × 16 + station (R72). -/
def slotOf (l : LineIx) (st : StationIx) : SlotIx := ⟨l.val * 16 + st.val, by omega⟩

/-- The line of a session slot: the slot divided by 16 (2.10). -/
def lineOf (i : SlotIx) : LineIx := ⟨i.val / 16, by omega⟩

/-- The station address of a session slot (R72). -/
def stationOf (i : SlotIx) : StationIx := ⟨i.val % 16, by omega⟩

/-- The slots of a line in ascending order (R72). -/
def slotsOf (l : LineIx) : List SlotIx := (indicesFrom 16 16 0).map (slotOf l)

/-- A line's place in the arbiter's rotation (Table 1.4, places 1 to 6). -/
def srcLine (l : LineIx) : SourceIx := ⟨l.val, by omega⟩

/-- The management port's place (Table 1.4, place 7). -/
def srcManagement : SourceIx := 6

/-- The Deadline Unit's place (Table 1.4, place 8). -/
def srcDeadline : SourceIx := 7

/-- The sweep source's place (Table 1.4, place 9). -/
def srcSweep : SourceIx := 8

/-- The place of a session's ending sweep in the sweep source's rotation (R21). -/
def sweepEnding (i : SlotIx) : SweepIx := ⟨i.val, by omega⟩

/-- The place of a namespace's revoke sweep (R21). -/
def sweepRevoke (n : NsIx) : SweepIx := ⟨96 + n.val, by omega⟩

/-- The place of the clear sweep (R21). -/
def sweepClear : SweepIx := 112

end Sys2Proof.Machine
end

