-- ==== Sys2Proof/Machine/Operands.lean ====
section
/-!
DEFINITION. Bytes and fields: byte order, the CRC, characters and character times, the request frame
and its payloads, reply and notice frames, the codes of chapters 7, 9 and 11, mailbox parameters.
-/

namespace Sys2Proof.Machine

/-! ### Byte order (0.6, R186) -/

/-- The number held by a list of bytes, most significant byte first. -/
def beNat (bs : List Byte) : Nat := bs.foldl (fun acc b => acc * 256 + b.toNat) 0

/-- The low `len` bytes of a number, most significant byte first. -/
def beBytes : (len : Nat) → (v : Nat) → List Byte
  | 0, _ => []
  | len + 1, v => BitVec.ofNat 8 (v / 256 ^ len) :: beBytes len v

/-- One byte holding a number. -/
def byteOf (v : Nat) : Byte := BitVec.ofNat 8 v

/-- A flag as a result byte: yes is 1, no is 0 (R189). -/
def flagByte (b : Bool) : Byte := if b then 1#8 else 0#8

/-! ### CRC (R187) -/

/-- One bit of the CRC computation. -/
def crcBit (crc : BitVec 16) (bit : Bool) : BitVec 16 :=
  let shifted := crc <<< 1
  if bit == crc.msb then shifted else shifted ^^^ 0x1021#16

/-- One byte of the CRC computation, most significant bit first. -/
def crcByte (crc : BitVec 16) (b : Byte) : BitVec 16 :=
  [7, 6, 5, 4, 3, 2, 1, 0].foldl (fun acc i => crcBit acc (b.getLsbD i)) crc

/-- The CRC of a list of bytes. -/
def crcOf (bs : List Byte) : BitVec 16 := bs.foldl crcByte 0xFFFF#16

/-- The two CRC bytes, high byte first. -/
def crcBytes (bs : List Byte) : List Byte := beBytes 2 (crcOf bs).toNat

/-! ### Characters and character times (R145) -/

/-- Whether a byte has an odd number of 1 bits. -/
def oddBits (b : Byte) : Bool :=
  [0, 1, 2, 3, 4, 5, 6, 7].foldl (fun acc i => xor acc (b.getLsbD i)) false

/-- The parity bit a byte is sent with, absent with parity NONE. -/
def parityBit (p : Parity) (b : Byte) : Option Bool :=
  match p with
  | .none => none
  | .even => some (oddBits b)
  | .odd => some (!oddBits b)

/-- The bits of a character as the transmitter sends them: start bit, 8 data bits least significant
first, the parity bit if any, one stop bit. -/
def characterBits (p : Parity) (b : Byte) : List Bool :=
  [false] ++ [0, 1, 2, 3, 4, 5, 6, 7].map (fun i => b.getLsbD i) ++ (parityBit p b).toList ++ [true]

/-- The error mark of a received character: a parity error or a framing error. -/
def errorMark (p : Parity) (ch : RxChar) : Bool :=
  !ch.stopBit ||
    match parityBit p ch.data with
    | none => false
    | some bit => ch.parityBit != bit

/-- Bits in a character time. -/
def characterBitCount (p : Parity) : Nat :=
  match p with
  | .none => 10
  | .even => 11
  | .odd => 11

/-- A character time in periods of REFCLK: the bit rate is 24 MHz over 16 times the divisor. -/
def characterTime (cfg : LineConfig) : Nat := characterBitCount cfg.parity * (16 * cfg.divisor)

/-! ### Codes -/

/-- Code of a mode (R132, R189). -/
def modeCode (m : Mode) : Byte :=
  match m with
  | .shared => 1#8
  | .exclusive => 2#8

/-- The mode a mode byte names, if any (R132). -/
def modeOfByte (b : Byte) : Option Mode :=
  if b = 1#8 then some .shared else if b = 2#8 then some .exclusive else none

/-- Code of a status (Table 7.4). -/
def statusCode (st : Status) : Byte :=
  match st with
  | .ok => 0x00#8
  | .queued => 0x01#8
  | .notAvailable => 0x02#8
  | .notInService => 0x10#8
  | .suspended => 0x11#8
  | .noSession => 0x12#8
  | .staleIncarnation => 0x13#8
  | .sessionEnding => 0x14#8
  | .sessionExists => 0x15#8
  | .badRing => 0x16#8
  | .badRequest => 0x17#8
  | .nsDisabled => 0x20#8
  | .accessDenied => 0x21#8
  | .quotaFull => 0x22#8
  | .tableFull => 0x23#8
  | .poolEmpty => 0x24#8
  | .queueFull => 0x25#8
  | .alreadyClaimed => 0x26#8
  | .notHeld => 0x27#8
  | .notWaiting => 0x28#8
  | .upgradeConflict => 0x29#8
  | .tokensExhausted => 0x2A#8

/-- A refusal is any status other than OK and QUEUED (R135). -/
def isRefusal (st : Status) : Bool :=
  match st with
  | .ok => false
  | .queued => false
  | _ => true

/-- Code of an end cause (R141). -/
def endCauseCode (c : EndCause) : Byte :=
  match c with
  | .none => 0#8
  | .closed => 1#8
  | .leaseExpired => 2#8
  | .evicted => 3#8
  | .lineRestart => 4#8
  | .lineBreak => 5#8
  | .serviceClear => 6#8

/-- Code of a result (Table 9.3), in the low four bits of the status byte. -/
def resultNumber (r : ResultCode) : Nat :=
  match r with
  | .ok => 0
  | .badState => 1
  | .badValue => 2
  | .noTokenBase => 3
  | .inUse => 4
  | .notFound => 5
  | .noSession => 6
  | .alreadyEnding => 7
  | .unknownCommand => 8

/-- Code of the service state (R188). -/
def serviceNumber (v : ServiceState) : Nat :=
  match v with
  | .halted => 0
  | .running => 1
  | .suspended => 2
  | .clearing => 3

/-- Code of the mailbox state (R188). -/
def mailboxNumber (m : Mailbox) : Nat :=
  match m with
  | .idle => 0
  | .busy _ => 1
  | .done => 2

/-- Code of a namespace state (R189). -/
def nsStateCode (v : NsState) : Byte :=
  match v with
  | .disabled => 0#8
  | .enabled => 1#8
  | .draining => 2#8

/-- Code of a session state (R189). -/
def sessionStateCode (v : SessionState) : Byte :=
  match v with
  | .idle => 0#8
  | .opened => 1#8
  | .ending => 2#8
  | .ended => 3#8

/-- Code of a line state (R189). -/
def lineStateCode (v : LineState) : Byte :=
  match v with
  | .disabled => 0#8
  | .active => 1#8
  | .restarting => 2#8

/-! ### Request frames and payloads (R128, R132, R186) -/

/-- The request held by the bytes from the station byte to the last payload byte. -/
def requestOfBytes (bs : List Byte) : Request :=
  { station := ⟨(bs.getD 0 0).toNat % 16, by omega⟩
    incarnation := bs.getD 1 0
    tag := bs.getD 2 0
    kind := bs.getD 3 0
    payload := bs.drop 4 }

/-- The version nibble of the station byte (R129). -/
def versionOf (bs : List Byte) : Nat := (bs.getD 0 0).toNat / 16

/-- The known kinds are 0x01 to 0x09 (R133, test 1). -/
def isKnownKind (kind : Byte) : Bool := 1 ≤ kind.toNat && kind.toNat ≤ 9

/-- The kind byte of the reply to a request (R130). -/
def replyKind (kind : Byte) : Byte := if isKnownKind kind then kind + 0x80#8 else 0x80#8

/-- The key held by a namespace byte and four name bytes, if the namespace is 0 to 15 (R132). -/
def keyOfBytes (bs : List Byte) : Option Key :=
  let n := (bs.getD 0 0).toNat
  if h : n < 16 then some ⟨⟨n, h⟩, BitVec.ofNat 32 (beNat ((bs.drop 1).take 4))⟩ else none

/-- The payload of RELEASE, CANCEL and QUERY, if it is well formed (R132, R133). -/
def keyPayload (p : List Byte) : Option Key := if p.length = 5 then keyOfBytes p else none

/-- The fields of an ACQUIRE or a CONVERT. -/
structure AcquireFields where
  key : Key
  mode : Mode
  wait : Nat
  deriving DecidableEq, Repr

/-- The payload of ACQUIRE and CONVERT, if it is well formed (R132, R133). -/
def acquirePayload (p : List Byte) : Option AcquireFields :=
  if p.length = 8 then
    match keyOfBytes p, modeOfByte (p.getD 5 0) with
    | some k, some m => some ⟨k, m, beNat ((p.drop 6).take 2)⟩
    | _, _ => none
  else none

/-- One element of a GROUP. -/
structure GroupElement where
  key : Key
  mode : Mode
  deriving DecidableEq, Repr

/-- `n` six-byte pieces of a GROUP payload, after the count byte. -/
def groupPieces : (n : Nat) → List Byte → List (List Byte)
  | 0, _ => []
  | n + 1, bs => bs.take 6 :: groupPieces n (bs.drop 6)

/-- The element held by six bytes, if its namespace and mode are in range (R67, check 2). -/
def groupElement (bs : List Byte) : Option GroupElement :=
  match keyOfBytes bs, modeOfByte (bs.getD 5 0) with
  | some k, some m => some ⟨k, m⟩
  | _, _ => none

/-- R67 check 2 in list order from position `i`: the elements, or the position of the first that is
out of range. -/
def groupElements : (i : Nat) → List (List Byte) → Except Nat (List GroupElement)
  | _, [] => .ok []
  | i, bs :: rest =>
    match groupElement bs with
    | none => .error i
    | some el =>
      match groupElements (i + 1) rest with
      | .error j => .error j
      | .ok els => .ok (el :: els)

/-- R67 check 3 in list order from position `i`: the position of the first element whose key equals
that of an earlier one. -/
def groupRepeat : (i : Nat) → (earlier : List Key) → List GroupElement → Option Nat
  | _, _, [] => none
  | i, earlier, el :: rest =>
    if earlier.contains el.key then some i else groupRepeat (i + 1) (el.key :: earlier) rest

/-- The payload of a GROUP: its elements, or the failing index of R67. -/
def groupPayload (p : List Byte) : Except Nat (List GroupElement) :=
  let n := (p.getD 0 0).toNat
  if p.length = 1 + 6 * n ∧ 2 ≤ n ∧ n ≤ 4 then
    match groupElements 1 (groupPieces n (p.drop 1)) with
    | .error i => .error i
    | .ok els =>
      match groupRepeat 1 [] els with
      | some i => .error i
      | none => .ok els
  else .error 0

/-! ### Frames the part sends (R186, R187) -/

/-- The station byte of a frame of version 1. -/
def stationByte (st : StationIx) : Byte := byteOf (16 + st.val)

/-- A whole frame: sync byte, length byte, the bytes given, and the CRC over length and bytes. -/
def sealFrame (sync : Byte) (bytes : List Byte) : List Byte :=
  let covered := byteOf bytes.length :: bytes
  sync :: covered ++ crcBytes covered

/-- The reply frame of a filled slot (Table 11.2, R130). -/
def replyFrame (slot : ReplySlot) (c : ReplyContent) : List Byte :=
  sealFrame Config.replySync
    ([stationByte slot.station, c.incarnation, slot.tag, slot.kind, statusCode c.status,
      c.noticeCounter] ++ c.payload)

/-- A notice frame (Table 11.2, R131): tag 0, status 0. -/
def noticeFrame (st : StationIx) (incarnation code counter : Byte) (payload : List Byte) :
    List Byte :=
  sealFrame Config.replySync ([stationByte st, incarnation, 0#8, code, 0#8, counter] ++ payload)

/-- The five bytes of a key. -/
def keyBytes (k : Key) : List Byte := byteOf k.ns.val :: beBytes 4 k.name.toNat

/-- Code of a claim's notice (Table 7.6). -/
def noticeCode (k : NoticeKind) : Byte :=
  match k with
  | .granted => 0xC1#8
  | .waitExpired => 0xC2#8
  | .revoked => 0xC3#8

/-- Payload of a claim's notice, taken from the claim (R48, R141). -/
def noticePayload (k : NoticeKind) (c : Claim) : List Byte :=
  match k with
  | .granted => keyBytes c.key ++ [modeCode c.mode] ++ beBytes 6 c.token
  | .waitExpired => keyBytes c.key
  | .revoked => keyBytes c.key ++ beBytes 6 c.token

/-! ### Mailbox parameters and results (R165, R189) -/

/-- The number in `len` parameter bytes from byte `off` on. -/
def State.param (s : State) (off len : Nat) : Nat := beNat ((s.params.toList.drop off).take len)

/-- The namespace named by parameter byte 0, if it is 0 to 15. -/
def State.paramNs (s : State) : Option NsIx :=
  if h : s.param 0 1 < 16 then some ⟨s.param 0 1, h⟩ else none

/-- The line named by parameter byte 0, if it is 0 to 5. -/
def State.paramLine (s : State) : Option LineIx :=
  if h : s.param 0 1 < 6 then some ⟨s.param 0 1, h⟩ else none

/-- The session slot named by the line and station of parameter bytes 0 and 1, if both are in
range. -/
def State.paramSlot (s : State) : Option SlotIx :=
  if h : s.param 0 1 < 6 ∧ s.param 1 1 < 16 then
    some ⟨s.param 0 1 * 16 + s.param 1 1, by omega⟩
  else none

/-- The key of parameter bytes 0 to 4, if the namespace is 0 to 15. -/
def State.paramKey (s : State) : Option Key :=
  match s.paramNs with
  | some n => some ⟨n, BitVec.ofNat 32 (s.param 1 4)⟩
  | none => none

/-- The rules of a namespace command, parameter bytes 1 to 7. -/
def State.paramRules (s : State) : NsRules :=
  { exclusiveLimit := s.param 1 1, sharedLimit := s.param 2 1, queryLimit := s.param 3 1,
    sharerLimit := s.param 4 1, queueLimit := s.param 5 1, quota := s.param 6 2 }

/-- The ranges of Table 5.1, with the nesting of the ring limits (R98, R103). -/
def NsRules.inRange (r : NsRules) : Bool :=
  1 ≤ r.exclusiveLimit && r.exclusiveLimit ≤ r.sharedLimit && r.sharedLimit ≤ r.queryLimit &&
    r.queryLimit ≤ 7 && 1 ≤ r.sharerLimit && r.sharerLimit ≤ 16 && r.queueLimit ≤ 32 &&
    1 ≤ r.quota && r.quota ≤ 2048

/-- The parity a parameter byte names. -/
def parityOfNumber (v : Nat) : Option Parity :=
  match v with
  | 0 => some .none
  | 1 => some .even
  | 2 => some .odd
  | _ => none

/-- The duplex a parameter byte names. -/
def duplexOfNumber (v : Nat) : Option Duplex :=
  match v with
  | 0 => some .full
  | 1 => some .half
  | _ => none

/-- The break action a parameter byte names. -/
def breakActionOfNumber (v : Nat) : Option BreakAction :=
  match v with
  | 0 => some .ignore
  | 1 => some .restart
  | _ => none

/-- The numeric items of a line configuration lie in the ranges of Table 8.1. -/
def LineConfig.inRange (c : LineConfig) : Bool :=
  1 ≤ c.divisor && c.divisor ≤ 65535 && 1 ≤ c.turnaround && c.turnaround ≤ 16 &&
    2 ≤ c.gapLimit && c.gapLimit ≤ 32 && 1 ≤ c.ringFloor && c.ringFloor ≤ 7

/-- The configuration of LINE CONFIG, parameter bytes 1 to 8, if every item is in range
(Table 8.1, Table 9.2). -/
def State.paramLineConfig (s : State) : Option LineConfig :=
  match parityOfNumber (s.param 3 1), duplexOfNumber (s.param 4 1),
      breakActionOfNumber (s.param 8 1) with
  | some p, some d, some b =>
    let c : LineConfig :=
      { divisor := s.param 1 2, parity := p, duplex := d, turnaround := s.param 5 1,
        gapLimit := s.param 6 1, ringFloor := s.param 7 1, breakAction := b }
    if c.inRange then some c else none
  | _, _, _ => none

/-- 24 result bytes that begin with those given and go on with zeros (R165). -/
def resultBytes (bs : List Byte) : Vector Byte 24 :=
  ⟨((bs ++ List.replicate 24 0#8).take 24).toArray, by simp⟩

end Sys2Proof.Machine
end

