-- ==== Sys2Proof/Machine/Flags.lean ====
section
/-!
DEFINITION. The Attention Unit and the counters: raising, clearing and masking causes, the summary bits
and ATTN_N, the device counters and the line counters (chapter 10, R159).
-/

namespace Sys2Proof.Machine

/-! ### Device causes (R179) -/

/-- The seven device causes, by their bit (R188). -/
inductive DeviceCause where
  | commandDone
  | mailboxCollision
  | sessionExpired
  | poolLow
  | tablePressure
  | nsDrained
  | tokensLow
  deriving DecidableEq, Repr

/-- The bit of a device cause. -/
def deviceCauseBit (c : DeviceCause) : BitVec 7 :=
  match c with
  | .commandDone => 0x01#7
  | .mailboxCollision => 0x02#7
  | .sessionExpired => 0x04#7
  | .poolLow => 0x08#7
  | .tablePressure => 0x10#7
  | .nsDrained => 0x20#7
  | .tokensLow => 0x40#7

/-- Raise a device cause; one already set stays set. -/
def State.raise (s : State) (c : DeviceCause) : State :=
  { s with deviceCauses := s.deviceCauses ||| deviceCauseBit c }

/-- Whether a device cause is set. -/
def State.causeSet (s : State) (c : DeviceCause) : Bool :=
  s.deviceCauses &&& deviceCauseBit c != 0#7

/-! ### Line causes and counters (R159, R180) -/

/-- The events that advance a line counter. -/
inductive LineEvent where
  | good
  | crc
  | truncated
  | badLength
  | badVersion
  | charError
  | queueDrop
  | brk
  deriving DecidableEq, Repr

/-- One more event on a 16-bit counter, which stays at 65,535 (R159, R183). -/
def countUp (n : Nat) : Nat := if n < Config.counterMax then n + 1 else n

/-- The counter of an event advances (R159). -/
def LineCounters.advance (k : LineCounters) (ev : LineEvent) : LineCounters :=
  match ev with
  | .good => { k with good := countUp k.good }
  | .crc => { k with crc := countUp k.crc }
  | .truncated => { k with truncated := countUp k.truncated }
  | .badLength => { k with badLength := countUp k.badLength }
  | .badVersion => { k with badVersion := countUp k.badVersion }
  | .charError => { k with charError := countUp k.charError }
  | .queueDrop => { k with queueDrop := countUp k.queueDrop }
  | .brk => { k with brk := countUp k.brk }

/-- The line cause an event raises: LINE_ERROR, FRAME_DROP or BREAK; GOOD raises none (R180). -/
def lineCauseBit (ev : LineEvent) : BitVec 3 :=
  match ev with
  | .good => 0#3
  | .charError => 1#3
  | .brk => 4#3
  | _ => 2#3

/-- An event advances its counter and raises its cause (R180). -/
def Line.record (ln : Line) (ev : LineEvent) : Line :=
  { ln with counters := ln.counters.advance ev, causes := ln.causes ||| lineCauseBit ev }

/-! ### Device counters (R183) -/

/-- GRANTS advances. -/
def State.countGrant (s : State) : State :=
  { s with counters := { s.counters with grants := countUp s.counters.grants } }

/-- REFUSALS advances. -/
def State.countRefusal (s : State) : State :=
  { s with counters := { s.counters with refusals := countUp s.counters.refusals } }

/-- LEASE_EXPIRIES advances. -/
def State.countLeaseExpiry (s : State) : State :=
  { s with counters := { s.counters with leaseExpiries := countUp s.counters.leaseExpiries } }

/-- WAIT_EXPIRIES advances. -/
def State.countWaitExpiry (s : State) : State :=
  { s with counters := { s.counters with waitExpiries := countUp s.counters.waitExpiries } }

/-- REVOKES advances. -/
def State.countRevoke (s : State) : State :=
  { s with counters := { s.counters with revokes := countUp s.counters.revokes } }

/-! ### Summary bits and ATTN_N (R182) -/

/-- The device summary bit: an unmasked device cause is set. -/
def State.deviceSummary (s : State) : Bool := s.deviceCauses &&& ~~~s.deviceMask != 0#7

/-- A line's summary bit: an unmasked cause of the line is set. -/
def Line.summary (ln : Line) : Bool := ln.causes &&& ~~~ln.masks != 0#3

/-- ATTN_N is asserted while at least one of the seven summary bits is set. -/
def State.attnAsserted (s : State) : Bool :=
  s.deviceSummary || s.lines.toList.any (fun ln => ln.summary)

/-! ### Host writes to causes and masks (R181, R182, R188) -/

/-- A write of the device cause byte: bits 0 to 6 written 1 clear their causes, bit 7 is ignored. -/
def State.writeDeviceCauses (s : State) (data : Byte) : State :=
  { s with deviceCauses := s.deviceCauses &&& ~~~(data.setWidth 7) }

/-- A write of the device mask byte: bits 0 to 6 as given, bit 7 is ignored. -/
def State.writeDeviceMask (s : State) (data : Byte) : State :=
  { s with deviceMask := data.setWidth 7 }

/-- A write of a line byte: bits 0 to 2 written 1 clear their causes, bits 4 to 6 are the masks as
given, bits 3 and 7 are ignored. -/
def State.writeLineByte (s : State) (l : LineIx) (data : Byte) : State :=
  s.updLine l (fun ln =>
    { ln with causes := ln.causes &&& ~~~(data.setWidth 3),
              masks := (data >>> 4).setWidth 3 })

end Sys2Proof.Machine
end

