-- ==== Sys2Proof/Machine/Ops.lean ====
section
/-!
DEFINITION. The shared operations of the table and its satellites: arbitration, lookup, deadlines,
claims and their notices, tokens, entries, the grant pass, detaching and revoking, entering ENDING,
replies, and the completion of management commands.
-/

namespace Sys2Proof.Machine

/-! ### The table arbiter (R18, R19, R21) -/

/-- Whether a line offers a request or its restart step (Table 1.4, places 1 to 6). -/
def Line.offers (ln : Line) : Bool :=
  (ln.state == .restarting && ln.restartStepPending) ||
    (ln.state == .active && !ln.requests.isEmpty && ln.replies.length < Config.replySlots)

/-- Whether the sweep at a place of the sweep source's rotation is active (R21). -/
def State.sweepActive (s : State) (p : SweepIx) : Bool :=
  if h : p.val < 96 then (s.session ⟨p.val, h⟩).endingSweep != .inactive
  else if h : p.val < 112 then (s.ns ⟨p.val - 96, by omega⟩).revokeSweep
  else s.clearSweep

/-- The sweep the sweep source serves next: the first active one after the one last served (R21). -/
def State.sweepChoice (s : State) : Option SweepIx := firstAfter s.sweepActive s.sweepLast

/-- Whether the source at a place of the rotation offers (Table 1.4). -/
def State.offers (s : State) (p : SourceIx) : Bool :=
  if h : p.val < 6 then (s.line ⟨p.val, h⟩).offers
  else if p.val = 6 then s.mailbox == .busy false
  else if p.val = 7 then !s.expiries.isEmpty
  else s.sweepChoice.isSome

/-- The source the arbiter takes next: the first that offers after the one last served (R19). -/
def State.arbiterChoice (s : State) : Option SourceIx := firstAfter s.offers s.arbiterLast

/-- The arbiter takes a source: its pointer moves there (R19). -/
def State.served (s : State) (p : SourceIx) : State := { s with arbiterLast := p }

/-- The sweep source is taken for one sweep: both pointers move (R19, R21). -/
def State.servedSweep (s : State) (p : SweepIx) : State :=
  { s with arbiterLast := srcSweep, sweepLast := p }

/-- The next table step is a step of this sweep (R19, R21). -/
def State.sweepTurn (s : State) (p : SweepIx) : Bool :=
  s.arbiterChoice == some srcSweep && s.sweepChoice == some p

/-! ### Buckets, chains and lookup (R4 to R6) -/

/-- The bucket of a key (R4). -/
def bucketOf (k : Key) : BucketIx :=
  ⟨((k.name ^^^ (k.name >>> 9) ^^^ (k.name >>> 18) ^^^ (k.name >>> 27)).toNat + 37 * k.ns.val) % 512,
    Nat.mod_lt _ (by decide)⟩

/-- The lookup of a key: the first entry of its bucket's chain whose key it is (R6). -/
def State.lookup (s : State) (k : Key) : Option EntryIx :=
  (s.chain (bucketOf k)).find? (fun e => (s.entry e).key == k)

/-- The element that follows another on a list. -/
def successorOn : List EntryIx → EntryIx → Option EntryIx
  | [], _ => none
  | x :: rest, e => if x = e then rest.head? else successorOn rest e

/-- The index a bucket holds: the first entry of its chain, or none (R5). -/
def State.bucketHead (s : State) (b : BucketIx) : Option EntryIx := (s.chain b).head?

/-- An entry's chain link: the next entry of its bucket's chain, or none; none in a free entry
(Table 1.3, R5, R16). -/
def State.chainLink (s : State) (e : EntryIx) : Option EntryIx :=
  if (s.entry e).occupied then successorOn (s.chain (bucketOf (s.entry e).key)) e else none

/-- The lowest-numbered free entry (R8). -/
def State.lowestFreeEntry (s : State) : Option EntryIx := lowest (fun e => !(s.entry e).occupied)

/-- The number of free entries (R9). -/
def State.freeEntries (s : State) : Nat := s.entries.toList.countP (fun x => !x.occupied)

/-! ### A session's own claim (R31) -/

/-- Outcome of the own-claim search. -/
inductive OwnClaim where
  | none
  | held (c : ClaimIx)
  | waiting (c : ClaimIx)
  | upgrading (c : ClaimIx)
  deriving DecidableEq, Repr

/-- The claim of a session among those of a list. -/
def State.claimOf (s : State) (cs : List ClaimIx) (slot : SlotIx) : Option ClaimIx :=
  cs.find? (fun c => (s.claim c).session == slot)

/-- The own-claim search on a present entry (R31). -/
def State.ownClaim (s : State) (e : EntryIx) (slot : SlotIx) : OwnClaim :=
  match s.claimOf (s.entry e).holders slot with
  | some c => if (s.entry e).upgrade = some c then .upgrading c else .held c
  | none =>
    match s.claimOf (s.entry e).waiters slot with
    | some c => .waiting c
    | none => .none

/-- The own-claim search for a key: none where the key is absent (R31). -/
def State.ownClaimOn (s : State) (k : Key) (slot : SlotIx) : OwnClaim :=
  match s.lookup k with
  | some e => s.ownClaim e slot
  | none => .none

/-- Code of the own-claim outcome in a QUERY reply (R31, R139). -/
def ownClaimCode (o : OwnClaim) : Byte :=
  match o with
  | .none => 0#8
  | .held _ => 1#8
  | .waiting _ => 2#8
  | .upgrading _ => 3#8

/-! ### The deadline list (R115 to R119) -/

/-- The deadline a step computes: now plus a period, at most the counter's largest value
(R114, R115). -/
def deadlineAfter (now period : Nat) : Nat := min (now + period) Config.maxTime

/-- Insertion after every entry whose deadline is earlier or equal (R118). -/
def insertDeadline (d : Deadline) : List Deadline → List Deadline
  | [] => [d]
  | x :: rest => if x.time ≤ d.time then x :: insertDeadline d rest else d :: x :: rest

/-- Whether a reference names a session's lease. -/
def refersToLease (i : SlotIx) (r : DeadlineRef) : Bool :=
  match r with
  | .lease j => j == i
  | .wait _ _ => false

/-- Whether a reference names a claim's wait. -/
def refersToWait (c : ClaimIx) (r : DeadlineRef) : Bool :=
  match r with
  | .lease _ => false
  | .wait d _ => d == c

/-- Insert a deadline (R118). -/
def State.insertDeadline (s : State) (d : Deadline) : State :=
  { s with deadlines := Sys2Proof.Machine.insertDeadline d s.deadlines }

/-- Remove a session's LEASE entry, if it is still in the list (R119). -/
def State.dropLease (s : State) (i : SlotIx) : State :=
  { s with deadlines := s.deadlines.filter (fun d => !refersToLease i d.ref) }

/-- Remove a claim's WAIT entry, if it is still in the list (R119). -/
def State.dropWait (s : State) (c : ClaimIx) : State :=
  { s with deadlines := s.deadlines.filter (fun d => !refersToWait c d.ref) }

/-- The lease of a session is set to run from now: the deadline is written and the LEASE entry
inserted afresh (R75, R81, R118). -/
def State.setLease (s : State) (i : SlotIx) : State :=
  let d := deadlineAfter s.time (s.session i).lease
  ((s.updSession i (fun x => { x with leaseDeadline := some d })).dropLease i).insertDeadline
    ⟨.lease i, d⟩

/-- A claim begins a wait of a given wait value: no deadline for 65,535, else the deadline is
written and a WAIT entry with the record's use count inserted (R36, R62). -/
def State.startWait (s : State) (c : ClaimIx) (wait : Nat) : State :=
  if wait = Config.waitForever then s
  else
    let d := deadlineAfter s.time wait
    (s.updClaim c (fun x => { x with waitDeadline := some d })).insertDeadline
      ⟨.wait c (s.claim c).useCount, d⟩

/-- A claim's wait is over: its WAIT entry is removed and its wait deadline cleared. -/
def State.endWait (s : State) (c : ClaimIx) : State :=
  (s.dropWait c).updClaim c (fun x => { x with waitDeadline := none })

/-! ### Notices (R48 to R50) -/

/-- The line on whose list a claim's notice stands (2.10). -/
def State.noticeLine (s : State) (c : ClaimIx) : LineIx := lineOf (s.claim c).session

/-- Table 2.3: the kind pending after `new` is raised for a claim with `pending`. -/
def mergedNotice (pending new : NoticeKind) : NoticeKind :=
  match pending with
  | .revoked => .revoked
  | .waitExpired => new
  | .granted => if new = .revoked then .revoked else .granted

/-- Raise a notice for a claim (R48, R49). -/
def State.raiseNotice (s : State) (c : ClaimIx) (k : NoticeKind) : State :=
  match (s.claim c).notice with
  | none =>
    (s.updClaim c (fun x => { x with notice := some k })).updLine (s.noticeLine c)
      (fun ln => { ln with notices := ln.notices ++ [.claim c] })
  | some pending => s.updClaim c (fun x => { x with notice := some (mergedNotice pending k) })

/-- Withdraw a claim's pending notice, if any (R50). -/
def State.withdrawNotice (s : State) (c : ClaimIx) : State :=
  match (s.claim c).notice with
  | none => s
  | some _ =>
    (s.updLine (s.noticeLine c)
      (fun ln => { ln with notices := ln.notices.filter (fun it => it != .claim c) })).updClaim c
      (fun x => { x with notice := none })

/-- Withdraw a session's SESSION_ENDED item (R82, R96). -/
def State.withdrawSessionEnded (s : State) (i : SlotIx) : State :=
  s.updLine (lineOf i)
    (fun ln => { ln with notices := ln.notices.filter (fun it => it != .sessionEnded i) })

/-! ### Claim records (R24, R25) -/

/-- A HELD or WAITING claim leaves its lock: the holder set or waiter queue, and the pending
upgrade if it was this claim; the session's count falls (R25 steps 1, 2 and 6). -/
def State.unlinkClaim (s : State) (c : ClaimIx) : State :=
  match (s.claim c).state with
  | .held =>
    (s.updEntry (s.claim c).entry (fun x =>
      { x with holders := x.holders.filter (fun d => d != c),
               upgrade := if x.upgrade = some c then none else x.upgrade })).updSession
      (s.claim c).session (fun x => { x with heldCount := x.heldCount - 1 })
  | .waiting =>
    (s.updEntry (s.claim c).entry (fun x =>
      { x with waiters := x.waiters.filter (fun d => d != c) })).updSession
      (s.claim c).session (fun x => { x with waitingCount := x.waitingCount - 1 })
  | .free => s
  | .detached => s

/-- Free a claim record (R25). -/
def State.freeClaim (s : State) (c : ClaimIx) : State :=
  let owner := (s.claim c).session
  let s := ((s.unlinkClaim c).endWait c).withdrawNotice c
  let s := s.updSession owner (fun x =>
    { x with claimList := x.claimList.filter (fun d => d != c) })
  let s := s.updClaim c (fun x => { Claim.reset with useCount := x.useCount })
  { s with freeList := s.freeList ++ [c], freeClaimCount := s.freeClaimCount + 1 }

/-- Take the record `c` at the head of the free list for a session's claim on an entry (R24, R26,
R30). The token and the wait deadline are written afterwards, where the claim has one. -/
def State.takeClaim (s : State) (c : ClaimIx) (waiting : Bool) (m : Mode) (e : EntryIx) (k : Key)
    (slot : SlotIx) : State :=
  let before := s.freeClaimCount
  let s := { s with freeList := s.freeList.tail, freeClaimCount := before - 1 }
  let s := s.updClaim c (fun x =>
    { state := if waiting then .waiting else .held, mode := m, entry := e, key := k,
      session := slot, token := 0, waitDeadline := none, upgrade := false, notice := none,
      useCount := x.useCount + 1 })
  let s := s.updSession slot (fun x =>
    { x with claimList := x.claimList ++ [c],
             heldCount := if waiting then x.heldCount else x.heldCount + 1,
             waitingCount := if waiting then x.waitingCount + 1 else x.waitingCount })
  if s.poolThreshold ≤ before ∧ before - 1 < s.poolThreshold then s.raise .poolLow else s

/-! ### Tokens (R54 to R58) -/

/-- The counter can issue a token (R54). -/
def State.canIssue (s : State) : Bool := s.tokenCounter + 1 ≤ Config.tokenExhausted

/-- Issue the next token to a claim and write it into the entry's latest token (R56); the crossing
of the threshold raises TOKENS_LOW (R58). -/
def State.issueToken (s : State) (c : ClaimIx) (e : EntryIx) : State :=
  let t := s.tokenCounter
  let s := (s.updClaim c (fun x => { x with token := t })).updEntry e
    (fun x => { x with latestToken := t })
  let s := { s with tokenCounter := t + 1 }
  if t < Config.tokensLowMark ∧ Config.tokensLowMark ≤ t + 1 then s.raise .tokensLow else s

/-! ### Lock entries (R7 to R11) -/

/-- A DRAINING namespace with no active revoke sweep and no occupied entry becomes DISABLED
(R108). -/
def State.completeDrain (s : State) (n : NsIx) : State :=
  if (s.ns n).state = .draining ∧ (s.ns n).revokeSweep = false ∧ (s.ns n).occupied = 0 then
    (s.updNs n (fun x => { x with state := .disabled })).raise .nsDrained
  else s

/-- Create an entry for an absent key with a claim as its sole holder (R8). The token is issued
afterwards. -/
def State.createEntry (s : State) (e : EntryIx) (k : Key) (m : Mode) (c : ClaimIx) : State :=
  let s := s.updEntry e (fun _ =>
    { occupied := true, key := k, mode := m, holders := [c], waiters := [], upgrade := none,
      latestToken := 0 })
  let s := s.updChain (bucketOf k) (fun es => es ++ [e])
  let s := s.updNs k.ns (fun x => { x with occupied := x.occupied + 1 })
  { s with freeEntryCount := s.freeEntryCount - 1 }

/-- Retire an entry (R10), with the drain completion it may cause (R108). -/
def State.retireEntry (s : State) (e : EntryIx) : State :=
  let k := (s.entry e).key
  let s := s.updChain (bucketOf k) (fun es => es.filter (fun d => d != e))
  let s := s.updEntry e (fun _ => Entry.reset)
  let s := s.updNs k.ns (fun x => { x with occupied := x.occupied - 1 })
  let s := { s with freeEntryCount := s.freeEntryCount + 1 }
  s.completeDrain k.ns

/-- The checks before an absent key is given an entry, in their order (R7). -/
def State.creationRefusal (s : State) (k : Key) : Option Status :=
  if (s.ns k.ns).rules.quota ≤ (s.ns k.ns).occupied then some .quotaFull
  else if Config.chainLimit ≤ (s.chain (bucketOf k)).length then some .tableFull
  else if s.lowestFreeEntry = none then some .tableFull
  else if s.freeList = [] then some .poolEmpty
  else none

/-- A SHARED request is grantable at once on a present entry; an EXCLUSIVE one never is (R32). -/
def State.grantableNow (s : State) (e : EntryIx) (m : Mode) : Bool :=
  m == .shared && (s.entry e).mode == .shared && (s.entry e).upgrade == none &&
    (s.entry e).waiters.isEmpty &&
    (s.entry e).holders.length < (s.ns (s.entry e).key.ns).rules.sharerLimit

/-- Grant an absent key: take a record, create the entry, issue the token, count the grant
(R33, R70). -/
def State.grantNew (s : State) (slot : SlotIx) (k : Key) (m : Mode) (e : EntryIx) (c : ClaimIx) :
    State :=
  (((s.takeClaim c false m e k slot).createEntry e k m c).issueToken c e).countGrant

/-- Grant a SHARED claim on a present entry: take a record, join the tail of the holder set, issue
the token, count the grant (R34, R70). -/
def State.grantJoin (s : State) (slot : SlotIx) (k : Key) (e : EntryIx) (c : ClaimIx) : State :=
  (((s.takeClaim c false .shared e k slot).updEntry e
    (fun x => { x with holders := x.holders ++ [c] })).issueToken c e).countGrant

/-- Queue a claim at the tail of the waiter queue (R36). -/
def State.queueClaim (s : State) (slot : SlotIx) (k : Key) (m : Mode) (wait : Nat) (e : EntryIx)
    (c : ClaimIx) : State :=
  ((s.takeClaim c true m e k slot).updEntry e
    (fun x => { x with waiters := x.waiters ++ [c] })).startWait c wait

/-! ### Upgrades (R43, R61 to R65) -/

/-- A pending upgrade ends without being granted, and the claim stays HELD and SHARED. -/
def State.clearUpgrade (s : State) (e : EntryIx) (c : ClaimIx) : State :=
  ((s.updClaim c (fun x => { x with upgrade := false })).endWait c).updEntry e
    (fun x => { x with upgrade := none })

/-- A claim and its entry become EXCLUSIVE with a new token, and a pending upgrade of the claim is
over (R61 steps 1 to 4, R64 steps 1 to 4 and 6). -/
def State.upgradeClaim (s : State) (e : EntryIx) (c : ClaimIx) : State :=
  let s := if (s.entry e).upgrade = some c then s.clearUpgrade e c else s
  let s := (s.updClaim c (fun x => { x with mode := .exclusive })).updEntry e
    (fun x => { x with mode := .exclusive })
  (s.issueToken c e).countGrant

/-- A SHARED holder becomes the entry's pending upgrade (R62). -/
def State.makePending (s : State) (e : EntryIx) (c : ClaimIx) (wait : Nat) : State :=
  ((s.updClaim c (fun x => { x with upgrade := true })).updEntry e
    (fun x => { x with upgrade := some c })).startWait c wait

/-! ### Detaching and revoking (R11, R44, R46) -/

/-- A HELD or WAITING claim becomes DETACHED with a notice. -/
def State.detachClaim (s : State) (c : ClaimIx) (k : NoticeKind) : State :=
  let s := (s.unlinkClaim c).endWait c
  (s.updClaim c (fun x => { x with state := .detached, upgrade := false })).raiseNotice c k

/-- A claim loses its lock: it is DETACHED with a notice if its session is OPEN, else freed without
one. -/
def State.dropClaim (s : State) (c : ClaimIx) (k : NoticeKind) : State :=
  if (s.session (s.claim c).session).state = .opened then s.detachClaim c k else s.freeClaim c

/-- Revoke one claim (R46). -/
def State.revokeClaim (s : State) (c : ClaimIx) : State := (s.countRevoke).dropClaim c .revoked

/-- Revoke a list of claims in its order. -/
def State.revokeClaims (s : State) (cs : List ClaimIx) : State :=
  cs.foldl (fun acc c => acc.revokeClaim c) s

/-- The waiters of an entry without holders leave in arrival order, and the entry is retired
(R11). -/
def State.detachWaiters (s : State) (e : EntryIx) : State :=
  ((s.entry e).waiters.foldl (fun acc c => acc.dropClaim c .waitExpired) s).retireEntry e

/-! ### The grant pass (R37 to R40) -/

/-- Grant the waiting claim at the head of an entry's queue (R37). -/
def State.grantWaiting (s : State) (e : EntryIx) (c : ClaimIx) : State :=
  let s := s.endWait c
  let m := (s.claim c).mode
  let s := s.updEntry e (fun x =>
    { x with waiters := x.waiters.tail, mode := if x.holders.isEmpty then m else x.mode,
             holders := x.holders ++ [c] })
  let s := s.updClaim c (fun x => { x with state := .held })
  let s := s.issueToken c e
  let s := s.updSession (s.claim c).session (fun x =>
    { x with waitingCount := x.waitingCount - 1, heldCount := x.heldCount + 1 })
  (s.raiseNotice c .granted).countGrant

/-- Whether a head of the queue that asks for a mode is grantable (R38 step 3). -/
def State.headGrantable (s : State) (e : EntryIx) (m : Mode) : Bool :=
  (s.entry e).holders.isEmpty ||
    (m == .shared && (s.entry e).mode == .shared &&
      (s.entry e).holders.length < (s.ns (s.entry e).key.ns).rules.sharerLimit)

/-- Step 3 of the grant pass, with R39 for heads of ENDING sessions. `fuel` bounds the heads looked
at; the length of the queue is enough. -/
def State.grantHeads : (fuel : Nat) → (s : State) → (e : EntryIx) → State
  | 0, s, _ => s
  | fuel + 1, s, e =>
    match (s.entry e).waiters with
    | [] => s
    | c :: _ =>
      if (s.session (s.claim c).session).state = .ending then
        State.grantHeads fuel (s.freeClaim c) e
      else if s.headGrantable e (s.claim c).mode then
        if s.canIssue then
          if (s.claim c).mode = .exclusive then s.grantWaiting e c
          else State.grantHeads fuel (s.grantWaiting e c) e
        else s.raise .tokensLow
      else s

/-- Step 4 of the grant pass: an entry left empty is retired, one left with waiters but no holders
loses them (R10, R11). -/
def State.settleEntry (s : State) (e : EntryIx) : State :=
  if (s.entry e).holders.isEmpty then
    if (s.entry e).waiters.isEmpty then s.retireEntry e else s.detachWaiters e
  else s

/-- R39: a pending upgrade whose session is ENDING is cleared when the pass begins. -/
def State.clearEndingUpgrade (s : State) (e : EntryIx) : State :=
  match (s.entry e).upgrade with
  | some c => if (s.session (s.claim c).session).state = .ending then s.clearUpgrade e c else s
  | none => s

/-- The grant pass on an occupied entry (R38, R39). -/
def State.grantPass (s : State) (e : EntryIx) : State :=
  let s := s.clearEndingUpgrade e
  match (s.entry e).upgrade with
  | some c =>
    if (s.entry e).holders = [c] then
      if s.canIssue then (s.upgradeClaim e c).raiseNotice c .granted else s.raise .tokensLow
    else s
  | none => (State.grantHeads (s.entry e).waiters.length s e).settleEntry e

/-! ### Sessions (R86, R93, R95) -/

/-- A session enters ENDING (R86). -/
def State.enterEnding (s : State) (i : SlotIx) (cause : EndCause) : State :=
  (s.dropLease i).updSession i (fun x =>
    { x with endCause := cause, leaseDeadline := none, cache := { x.cache with valid := false },
             state := .ending, endingSweep := .starting })

/-- Whether every session of a line is IDLE (R157). -/
def State.lineIdle (s : State) (l : LineIx) : Bool :=
  (slotsOf l).all (fun i => (s.session i).state == .idle)

/-- The change a line restart makes to one session (R93, R95): an OPEN one enters ENDING, one that is
ENDING already has its notice suppressed and its close reply discarded. -/
def State.restartSession (s : State) (cause : EndCause) (suppress : Bool) (i : SlotIx) : State :=
  match (s.session i).state with
  | .opened =>
    (s.enterEnding i cause).updSession i (fun x =>
      { x with noticeSuppressed := suppress || x.noticeSuppressed })
  | .ending =>
    s.updSession i (fun x => { x with noticeSuppressed := true, closeReply := false })
  | .idle => s
  | .ended => s

/-- The change a line restart makes to the sessions of its line. -/
def State.restartSessions (s : State) (l : LineIx) (cause : EndCause) (suppress : Bool) : State :=
  (slotsOf l).foldl (fun acc i => acc.restartSession cause suppress i) s

/-- What the emptying of a notice list does to the claim or session of one item (R155 step 4). -/
def State.discardItem (s : State) (it : NoticeItem) : State :=
  match it with
  | .claim c =>
    let s := s.updClaim c (fun x => { x with notice := none })
    if (s.claim c).state = .detached then s.freeClaim c else s
  | .sessionEnded i =>
    if (s.session i).state = .ended then s.updSession i (fun x => { x with state := .idle }) else s

/-- A line's notice list is emptied in list order (R155 step 4). -/
def State.emptyNotices (s : State) (l : LineIx) : State :=
  (s.line l).notices.foldl (fun acc it => acc.discardItem it)
    (s.updLine l (fun ln => { ln with notices := [] }))

/-! ### Replies (R130, R151) -/

/-- Fill the first reserved slot of a station on a list of slots. -/
def fillFirst (st : StationIx) (c : ReplyContent) : List ReplySlot → List ReplySlot
  | [] => []
  | x :: rest =>
    if x.station = st ∧ x.content = none then { x with content := some c } :: rest
    else x :: fillFirst st c rest

/-- Fill a station's reserved slot, the one reserved last if it has several; where it has none the
fill places nothing (R151). -/
def fillReserved (st : StationIx) (c : ReplyContent) (slots : List ReplySlot) : List ReplySlot :=
  (fillFirst st c slots.reverse).reverse

/-- The contents a reply to a session takes when its slot is filled (R74, R85, R130). -/
def State.replyContent (s : State) (i : SlotIx) (r : Reply) : ReplyContent :=
  { incarnation := (s.session i).incarnation, status := r.status,
    noticeCounter := (s.session i).noticeCounter, payload := r.payload }

/-- Place a reply to a session in its reserved slot. -/
def State.fillReply (s : State) (i : SlotIx) (r : Reply) : State :=
  s.updLine (lineOf i) (fun ln =>
    { ln with replies := fillReserved (stationOf i) (s.replyContent i r) ln.replies })

/-- Place a newly made reply; a refusal advances REFUSALS (R135). -/
def State.answer (s : State) (i : SlotIx) (r : Reply) : State :=
  let s := s.fillReply i r
  if isRefusal r.status then s.countRefusal else s

/-! ### Management commands (R165) -/

/-- A management command completes: result code and bytes are written, the mailbox becomes DONE and
COMMAND_DONE is raised. -/
def State.complete (s : State) (r : ResultCode) (bs : List Byte) : State :=
  { s with mailbox := .done, longCommand := none, resultCode := r,
           result := resultBytes bs }.raise .commandDone

/-- A command-begun restart completes if its line has no session other than IDLE (R157). -/
def State.completeRestart (s : State) (l : LineIx) : State :=
  if s.longCommand = some (.restartLine l) ∧ s.lineIdle l = true then
    let s := s.updLine l (fun ln =>
      { ln with state := match ln.restartEnd with
                         | .active => .active
                         | .disabled => .disabled })
    s.complete .ok [lineStateCode (s.line l).state]
  else s

end Sys2Proof.Machine
end

