-- ==== Sys2Proof/Machine/Requests.lean ====
section
/-!
DEFINITION. The request path shared by every station request: taking the frame (R18, R19), the
validation order up to the duplicate check (R74 to R78, R136, R137), the checks of namespace and
bracket (R100, R101), and the finishing of an answered request (R75, R76, R135).
-/

namespace Sys2Proof.Machine

/-- What a command answers when it changes nothing but what is given. -/
abbrev Result := Host.Outcome State Fault Refusal

/-! ### Taking a request (R18, R19, R150) -/

/-- The arbiter takes the frame `r` at the head of a line's queue: the frame leaves the queue, one
reply slot is reserved for it, and the pointer moves to the line. -/
def State.takeFrame (s : State) (l : LineIx) (r : Request) : State :=
  (s.updLine l (fun ln =>
    { ln with requests := ln.requests.tail,
              replies := ln.replies ++ [⟨r.station, r.tag, replyKind r.kind, none⟩] })).served
    (srcLine l)

/-- The frame a line's request step would take now: the line is ACTIVE, the arbiter's choice is the
line, and the head of its queue is given. -/
def State.offeredFrame (s : State) (l : LineIx) : Option Request :=
  if s.arbiterChoice = some (srcLine l) ∧ (s.line l).state = .active then
    (s.line l).requests.head?
  else none

/-- A request step of one row: where the frame offered is of the row's kind it is taken and served,
otherwise the row's event does not occur and nothing changes (notes/assumptions/2.md). -/
def State.requestStep (s : State) (l : LineIx) (isKind : Byte → Bool)
    (serve : State → SlotIx → Request → State) : State :=
  match s.offeredFrame l with
  | some r => if isKind r.kind then serve (s.takeFrame l r) (slotOf l r.station) r else s
  | none => s

/-! ### The first three checks (R136) -/

/-- Whether a frame is one that SUSPENDED service refuses: OPEN, ACQUIRE, GROUP, and a CONVERT whose
target mode stands in its payload and reads EXCLUSIVE (R137). -/
def refusedInSuspended (r : Request) : Bool :=
  r.kind == 0x01#8 || r.kind == 0x04#8 || r.kind == 0x09#8 ||
    (r.kind == 0x06#8 && 6 ≤ r.payload.length && r.payload.getD 5 0 == 2#8)

/-- The service-state check (R137). -/
def serviceRefusal (v : ServiceState) (r : Request) : Option Status :=
  match v with
  | .running => none
  | .suspended => if refusedInSuspended r then some .suspended else none
  | .halted => some .notInService
  | .clearing => some .notInService

/-- The session check of every kind other than OPEN (R74). -/
def sessionRefusal (x : Session) (r : Request) : Option Status :=
  if x.state = .idle then some .noSession
  else if r.incarnation ≠ x.incarnation then some .staleIncarnation
  else if x.state = .opened then none
  else some .sessionEnding

/-- The duplicate test (R77): same tag and kind byte as the valid cache. -/
def isDuplicate (x : Session) (r : Request) : Bool :=
  x.cache.valid && x.cache.tag == r.tag && x.cache.kind == r.kind

/-- A refusal with SUSPENDED restarts the lease of an OPEN session whose incarnation the frame
carries, unless the frame is an OPEN (R75, R137). -/
def State.suspendedLease (s : State) (i : SlotIx) (r : Request) : State :=
  if (s.session i).state = .opened ∧ r.kind ≠ 0x01#8 ∧ r.incarnation = (s.session i).incarnation
  then s.setLease i else s

/-- A duplicate: the lease restarts and the cached reply is placed; nothing else changes (R77). -/
def State.answerFromCache (s : State) (i : SlotIx) : State :=
  (s.setLease i).fillReply i (s.session i).cache.reply

/-- The service-state, session and duplicate checks of every kind other than OPEN. The state with
the answer placed, where one of them answers. -/
def State.commonChecks (s : State) (i : SlotIx) (r : Request) : Option State :=
  match serviceRefusal s.service r with
  | some .suspended => some ((s.suspendedLease i r).answer i ⟨.suspended, []⟩)
  | some st => some (s.answer i ⟨st, []⟩)
  | none =>
    match sessionRefusal (s.session i) r with
    | some st => some (s.answer i ⟨st, []⟩)
    | none => if isDuplicate (s.session i) r then some (s.answerFromCache i) else none

/-! ### Finishing a request (R75, R76, R135) -/

/-- Write the reply cache (R76). -/
def State.cacheReply (s : State) (i : SlotIx) (r : Request) (reply : Reply) : State :=
  s.updSession i (fun x => { x with cache := ⟨r.tag, r.kind, reply, true⟩ })

/-- The reply is placed and cached. -/
def State.finish (s : State) (i : SlotIx) (r : Request) (reply : Reply) : State :=
  (s.answer i reply).cacheReply i r reply

/-- A request of any kind but OPEN and CLOSE: the common checks; then the lease restarts (R75), the
kind's own work is done, and the reply is placed and cached. The lease restart comes before the
kind's own work (notes/assumptions/10.md). -/
def State.serveRequest (act : State → SlotIx → Request → State × Reply) (s : State) (i : SlotIx)
    (r : Request) : State :=
  match s.commonChecks i r with
  | some answered => answered
  | none =>
    let done := act (s.setLease i) i r
    done.1.finish i r done.2

/-- A refused request: nothing changes but lease, cache and reply. -/
def State.refuse (s : State) (st : Status) : State × Reply := (s, ⟨st, []⟩)

/-- A refusal with QUOTA_FULL, TABLE_FULL or POOL_EMPTY raises TABLE_PRESSURE (R7). -/
def State.refusePressed (s : State) (st : Status) : State × Reply :=
  (s.raise .tablePressure, ⟨st, []⟩)

/-- A refusal with TOKENS_EXHAUSTED raises TOKENS_LOW (R57, R58). -/
def State.refuseExhausted (s : State) : State × Reply := (s.raise .tokensLow, ⟨.tokensExhausted, []⟩)

/-! ### Namespace state and bracket (R100, R101) -/

/-- The namespace state and bracket checks of a request that would take a lock in a mode, or
strengthen a hold to it: ENABLED is required, and the ring within the mode's limit. -/
def State.takingRefusal (s : State) (i : SlotIx) (k : Key) (m : Mode) : Option Status :=
  if (s.ns k.ns).state ≠ .enabled then some .nsDisabled
  else
    let limit := match m with
      | .shared => (s.ns k.ns).rules.sharedLimit
      | .exclusive => (s.ns k.ns).rules.exclusiveLimit
    if limit < (s.session i).ring then some .accessDenied else none

end Sys2Proof.Machine
end

