-- ==== Sys2Proof/Machine/Deadlines.lean ====
section
/-!
DEFINITION. The Deadline Unit's actions and the judging of expiries: the time counter, posting, LEASE and
WAIT expiries (chapter 6).
-/

namespace Sys2Proof.Machine

/-- TIME_COUNTER_ADVANCE: the divider has completed its count of 24,000 and starts again at 0; the
time counter advances by one and stays at its largest value (R114). -/
def execTimeCounterAdvance (s : State) : Result :=
  .next { s with divider := 0, time := if s.time < Config.maxTime then s.time + 1 else s.time }

/-- POSTING: a due head of the deadline list moves to the tail of the expiry queue while the queue has
room (R120). -/
def execPosting (s : State) : Result :=
  match s.deadlines with
  | d :: rest =>
    .next (if d.time ≤ s.time ∧ s.expiries.length < Config.expiryDepth then
      { s with deadlines := rest, expiries := s.expiries ++ [d] } else s)
  | [] => .next s

/-- The expiry the arbiter would take now, if the Deadline Unit is its choice (R121). -/
def State.offeredExpiry (s : State) : Option Deadline :=
  if s.arbiterChoice = some srcDeadline then s.expiries.head? else none

/-- The arbiter takes the oldest expiry. -/
def State.takeExpiry (s : State) : State :=
  { s with expiries := s.expiries.tail }.served srcDeadline

/-- The service states in which an expiry is judged (R123 to R125). In CLEARING it is discarded;
HALTED, where no expiry can stand, is treated alike (notes/assumptions/13.md). -/
def State.judgesExpiries (s : State) : Bool := s.service == .running || s.service == .suspended

/-- A LEASE expiry acts: the session is OPEN and its deadline is still the one carried (R123). -/
def State.leaseActs (s : State) (i : SlotIx) (t : Nat) : Bool :=
  s.judgesExpiries && (s.session i).state == .opened && (s.session i).leaseDeadline == some t

/-- The work of a LEASE expiry (R84, R123). -/
def State.expireLease (s : State) (i : SlotIx) (t : Nat) : State :=
  if s.leaseActs i t then ((s.enterEnding i .leaseExpired).raise .sessionExpired).countLeaseExpiry
  else s

/-- LEASE_EXPIRY. -/
def execLeaseExpiry (s : State) : Result :=
  match s.offeredExpiry with
  | some ⟨.lease i, t⟩ => .next (s.takeExpiry.expireLease i t)
  | some ⟨.wait _ _, _⟩ => .next s
  | none => .next s

/-- A WAIT expiry acts: use count and deadline match, and the claim is WAITING or the pending upgrade
(R124). -/
def State.waitActs (s : State) (c : ClaimIx) (u : BitVec 16) (t : Nat) : Bool :=
  s.judgesExpiries && (s.claim c).useCount == u &&
    ((s.claim c).state == .waiting || ((s.claim c).state == .held && (s.claim c).upgrade)) &&
    (s.claim c).waitDeadline == some t

/-- The acting expiry of a WAITING claim (R44). -/
def State.expireWaiting (s : State) (c : ClaimIx) : State :=
  ((s.countWaitExpiry).dropClaim c .waitExpired).grantPass (s.claim c).entry

/-- The acting expiry of a pending upgrade (R65). -/
def State.expireUpgrade (s : State) (c : ClaimIx) : State :=
  let e := (s.claim c).entry
  let s := (s.countWaitExpiry).clearUpgrade e c
  let s := if (s.session (s.claim c).session).state = .opened then s.raiseNotice c .waitExpired
    else s
  s.grantPass e

/-- The work of a WAIT expiry (R124). -/
def State.expireWait (s : State) (c : ClaimIx) (u : BitVec 16) (t : Nat) : State :=
  if s.waitActs c u t then
    if (s.claim c).state = .waiting then s.expireWaiting c else s.expireUpgrade c
  else s

/-- WAIT_EXPIRY. -/
def execWaitExpiry (s : State) : Result :=
  match s.offeredExpiry with
  | some ⟨.wait c u, t⟩ => .next (s.takeExpiry.expireWait c u t)
  | some ⟨.lease _, _⟩ => .next s
  | none => .next s

end Sys2Proof.Machine
end

