-- ==== Sys2Proof/Machine/Management.lean ====
section
/-!
DEFINITION. The management commands of Table 9.2, taken from the mailbox by the arbiter.
-/

namespace Sys2Proof.Machine

/-! ### Taking a command (R18, R165) -/

/-- The arbiter takes the command in the mailbox: it is marked taken and the pointer moves. -/
def State.takeCommand (s : State) : State :=
  ({ s with mailbox := .busy true }).served srcManagement

/-- The code of the command the arbiter would take now, if the management port is its choice. -/
def State.offeredCode (s : State) : Option Nat :=
  if s.arbiterChoice = some srcManagement then some s.commandCode.toNat else none

/-- A command step of one row: where the command offered is the row's (`mine` of its code) it is
taken and run on the parameters as they stand; otherwise the row's event does not occur and nothing
changes (notes/assumptions/2.md). -/
def State.commandStep (s : State) (mine : Nat → Bool) (run : State → State) : State :=
  match s.offeredCode with
  | some code => if mine code then run s.takeCommand else s
  | none => s

/-! ### SET TOKEN BASE (R55) -/

/-- The result bytes of SET TOKEN BASE: counter and loaded mark after the step. -/
def State.tokenResult (s : State) : List Byte := beBytes 6 s.tokenCounter ++ [flagByte s.tokenLoaded]

/-- An accepted base is loaded; one of 2^48 - 2^20 or more raises TOKENS_LOW (R55, R58). -/
def State.loadTokenBase (s : State) (v : Nat) : State :=
  let s := { s with tokenCounter := v, tokenLoaded := true }
  if Config.tokensLowMark ≤ v then s.raise .tokensLow else s

/-- Whether a base is accepted: non-zero in HALTED, above the counter elsewhere. -/
def State.acceptsBase (s : State) (v : Nat) : Bool :=
  match s.service with
  | .halted => v != 0
  | .running => s.tokenCounter < v
  | .suspended => s.tokenCounter < v
  | .clearing => s.tokenCounter < v

/-- The work of SET TOKEN BASE. -/
def State.setTokenBase (s : State) : State :=
  let v := s.param 0 6
  if s.acceptsBase v then
    let s := s.loadTokenBase v
    s.complete .ok s.tokenResult
  else s.complete .badValue s.tokenResult

/-- SET TOKEN BASE. -/
def execSetTokenBase (s : State) : Result :=
  .next (s.commandStep (fun k => k == 0x01) State.setTokenBase)

/-! ### START and SUSPEND SERVICE (R167) -/

/-- Completion with the service state as the result byte. -/
def State.completeService (s : State) (r : ResultCode) : State :=
  s.complete r [byteOf (serviceNumber s.service)]

/-- The work of START SERVICE. In CLEARING it cannot be taken; the model answers BAD_STATE there
(notes/assumptions/12.md). -/
def State.startService (s : State) : State :=
  match s.service with
  | .halted =>
    if s.tokenLoaded then { s with service := .running }.completeService .ok
    else s.completeService .noTokenBase
  | .running => s.completeService .ok
  | .suspended => { s with service := .running }.completeService .ok
  | .clearing => s.completeService .badState

/-- START SERVICE. -/
def execStartService (s : State) : Result :=
  .next (s.commandStep (fun k => k == 0x02) State.startService)

/-- The work of SUSPEND SERVICE. In CLEARING it cannot be taken; the model answers BAD_STATE there
(notes/assumptions/12.md). -/
def State.suspendService (s : State) : State :=
  match s.service with
  | .halted => s.completeService .badState
  | .running => { s with service := .suspended }.completeService .ok
  | .suspended => s.completeService .ok
  | .clearing => s.completeService .badState

/-- SUSPEND SERVICE. -/
def execSuspendService (s : State) : Result :=
  .next (s.commandStep (fun k => k == 0x03) State.suspendService)

/-! ### CLEAR SERVICE (R168) -/

/-- The work of CLEAR SERVICE: from SUSPENDED the clear begins and the mailbox stays BUSY. R168 gives no
outcome in CLEARING, where it cannot be taken; the model's choice there is BAD_STATE
(notes/assumptions/12.md). -/
def State.clearService (s : State) : State :=
  match s.service with
  | .suspended =>
    { s with service := .clearing, clearSweep := true, clearSessions := 0, clearClaims := 0,
             clearEntries := 0, longCommand := some .clearService }
  | .halted => s.complete .badState []
  | .running => s.complete .badState []
  | .clearing => s.complete .badState []

/-- CLEAR SERVICE. -/
def execClearService (s : State) : Result :=
  .next (s.commandStep (fun k => k == 0x04) State.clearService)

/-! ### Namespace commands (R103 to R107) -/

/-- The descriptor as result bytes 0 to 9 (Table 11.5). -/
def State.nsResult (s : State) (n : NsIx) : List Byte :=
  let x := s.ns n
  [nsStateCode x.state, byteOf x.rules.exclusiveLimit, byteOf x.rules.sharedLimit,
    byteOf x.rules.queryLimit, byteOf x.rules.sharerLimit, byteOf x.rules.queueLimit] ++
    beBytes 2 x.rules.quota ++ beBytes 2 x.occupied

/-- Completion of a namespace command, with the descriptor after the step. -/
def State.completeNs (s : State) (n : NsIx) (r : ResultCode) : State := s.complete r (s.nsResult n)

/-- A namespace command: a number out of range completes with BAD_VALUE and no result bytes (R103
check 1). -/
def State.nsCommand (s : State) (run : State → NsIx → State) : State :=
  match s.paramNs with
  | none => s.complete .badValue []
  | some n => run s n

/-- DEFINE NAMESPACE on a namespace (R103, R104). -/
def State.defineNs (s : State) (n : NsIx) : State :=
  if (s.ns n).state ≠ .disabled then s.completeNs n .badState
  else if s.paramRules.inRange then
    (s.updNs n (fun x => { x with rules := s.paramRules, state := .enabled })).completeNs n .ok
  else s.completeNs n .badValue

/-- DEFINE NAMESPACE. -/
def execDefineNamespace (s : State) : Result :=
  .next (s.commandStep (fun k => k == 0x10) (fun t => t.nsCommand State.defineNs))

/-- Whether every field's change is allowed at an occupied count (Table 5.5). -/
def changeAllowed (old new : NsRules) (occupied : Nat) : Bool :=
  occupied == 0 ||
    (old.sharerLimit ≤ new.sharerLimit && old.queueLimit ≤ new.queueLimit &&
      new.exclusiveLimit == old.exclusiveLimit && new.sharedLimit == old.sharedLimit &&
      new.queryLimit == old.queryLimit && (old.quota ≤ new.quota || occupied ≤ new.quota))

/-- CHANGE NAMESPACE on a namespace (R103, R105). -/
def State.changeNs (s : State) (n : NsIx) : State :=
  if (s.ns n).state = .disabled then s.completeNs n .badState
  else if s.paramRules.inRange then
    if changeAllowed (s.ns n).rules s.paramRules (s.ns n).occupied then
      (s.updNs n (fun x => { x with rules := s.paramRules })).completeNs n .ok
    else s.completeNs n .inUse
  else s.completeNs n .badValue

/-- CHANGE NAMESPACE. -/
def execChangeNamespace (s : State) : Result :=
  .next (s.commandStep (fun k => k == 0x11) (fun t => t.nsCommand State.changeNs))

/-- The drain of an ENABLED namespace begins, or completes at once when it is empty (R107, R108). -/
def State.drainNs (s : State) (n : NsIx) : State :=
  ((s.updNs n (fun x => { x with state := .draining })).completeDrain n).completeNs n .ok

/-- The revoke sweep of an ENABLED namespace begins; the mailbox stays BUSY (R107). -/
def State.revokeNs (s : State) (n : NsIx) : State :=
  { s.updNs n (fun x => { x with state := .draining, revokeSweep := true, scanIndex := 0,
                                 sweepEntries := 0, sweepClaims := 0 }) with
    longCommand := some (.revokeNamespace n) }

/-- DISABLE NAMESPACE on a namespace: the state is looked at before the form (R103, R107). The form
is in parameter byte 1, 1 for DRAIN and 2 for REVOKE. -/
def State.disableNs (s : State) (n : NsIx) : State :=
  match (s.ns n).state with
  | .draining => s.completeNs n .inUse
  | .disabled =>
    if s.param 1 1 = 1 ∨ s.param 1 1 = 2 then s.completeNs n .ok else s.completeNs n .badValue
  | .enabled =>
    if s.param 1 1 = 1 then s.drainNs n
    else if s.param 1 1 = 2 then s.revokeNs n
    else s.completeNs n .badValue

/-- DISABLE NAMESPACE, a form byte other than REVOKE (notes/assumptions/5.md). -/
def execDisableNamespaceDrain (s : State) : Result :=
  .next (s.commandStep (fun k => k == 0x12 && s.param 1 1 != 2) (fun t => t.nsCommand State.disableNs))

/-- DISABLE NAMESPACE, a form byte other than DRAIN (notes/assumptions/5.md). -/
def execDisableNamespaceRevoke (s : State) : Result :=
  .next (s.commandStep (fun k => k == 0x12 && s.param 1 1 != 1) (fun t => t.nsCommand State.disableNs))

/-! ### Session commands (R171, R174) -/

/-- A session command: a line or station out of range completes with BAD_VALUE. -/
def State.slotCommand (s : State) (run : State → SlotIx → State) : State :=
  match s.paramSlot with
  | none => s.complete .badValue []
  | some i => run s i

/-- The result bytes of EVICT SESSION (R171). -/
def State.evictResult (s : State) (i : SlotIx) : List Byte :=
  [byteOf i.val, (s.session i).incarnation, endCauseCode (s.session i).endCause]

/-- EVICT SESSION on a slot (R88, R171). -/
def State.evict (s : State) (i : SlotIx) : State :=
  match (s.session i).state with
  | .idle => s.complete .noSession (s.evictResult i)
  | .ending => s.complete .alreadyEnding (s.evictResult i)
  | .ended => s.complete .alreadyEnding (s.evictResult i)
  | .opened => { s.enterEnding i .evicted with longCommand := some (.evict i) }

/-- EVICT SESSION. -/
def execEvictSession (s : State) : Result :=
  .next (s.commandStep (fun k => k == 0x20) (fun t => t.slotCommand State.evict))

/-- The result bytes of INSPECT SESSION (R174, Table 11.5). -/
def State.sessionResult (s : State) (i : SlotIx) : List Byte :=
  let x := s.session i
  [sessionStateCode x.state, x.incarnation, byteOf x.ring] ++ beBytes 2 x.lease ++
    beBytes 5 (x.leaseDeadline.getD 0) ++ beBytes 2 x.heldCount ++ beBytes 2 x.waitingCount ++
    [x.noticeCounter, endCauseCode x.endCause, flagByte x.noticeSuppressed, flagByte x.closeReply]
    ++ beBytes 5 s.time

/-- INSPECT SESSION on a slot. -/
def State.inspectSession (s : State) (i : SlotIx) : State := s.complete .ok (s.sessionResult i)

/-- INSPECT SESSION. -/
def execInspectSession (s : State) : Result :=
  .next (s.commandStep (fun k => k == 0x21) (fun t => t.slotCommand State.inspectSession))

/-! ### Lock commands (R172, R173) -/

/-- REVOKE LOCK with scope HOLDERS on a present entry. The waiters the pass granted are the entry's
holders after it, since every holder before it was revoked. -/
def State.revokeHolders (s : State) (e : EntryIx) : State :=
  let n := (s.entry e).holders.length
  let s := (s.revokeClaims (s.entry e).holders).grantPass e
  s.complete .ok [byteOf n, 0#8, byteOf (s.entry e).holders.length, flagByte !(s.entry e).occupied]

/-- REVOKE LOCK with scope ALL on a present entry. -/
def State.revokeAll (s : State) (e : EntryIx) : State :=
  let h := (s.entry e).holders
  let w := (s.entry e).waiters
  let s := ((s.revokeClaims h).revokeClaims w).retireEntry e
  s.complete .ok [byteOf h.length, byteOf w.length, 0#8, flagByte !(s.entry e).occupied]

/-- REVOKE LOCK: ranges, then lookup, then the scope in parameter byte 5 (R172). -/
def State.revokeLock (s : State) : State :=
  match s.paramKey with
  | none => s.complete .badValue []
  | some k =>
    if s.param 5 1 = 1 then
      match s.lookup k with
      | none => s.complete .notFound []
      | some e => s.revokeHolders e
    else if s.param 5 1 = 2 then
      match s.lookup k with
      | none => s.complete .notFound []
      | some e => s.revokeAll e
    else s.complete .badValue []

/-- REVOKE LOCK, a scope byte other than ALL (notes/assumptions/5.md). -/
def execRevokeLockHolders (s : State) : Result :=
  .next (s.commandStep (fun k => k == 0x30 && s.param 5 1 != 2) State.revokeLock)

/-- REVOKE LOCK, a scope byte other than HOLDERS (notes/assumptions/5.md). -/
def execRevokeLockAll (s : State) : Result :=
  .next (s.commandStep (fun k => k == 0x30 && s.param 5 1 != 1) State.revokeLock)

/-- One holder as its session slot and its token (R173). -/
def State.holderResult (s : State) (c : ClaimIx) : List Byte :=
  byteOf (s.claim c).session.val :: beBytes 6 (s.claim c).token

/-- The result bytes of INSPECT LOCK from a first holder position on (R173, Table 11.5). -/
def State.lockResult (s : State) (e : EntryIx) (first : Nat) : List Byte :=
  let x := s.entry e
  let shown := (x.holders.drop first).take 2
  beBytes 2 e.val ++ [modeCode x.mode, byteOf x.holders.length, byteOf x.waiters.length,
    match x.upgrade with
    | some c => byteOf (s.claim c).session.val
    | none => 0xFF#8,
    byteOf shown.length] ++ shown.flatMap s.holderResult

/-- The work of INSPECT LOCK. -/
def State.inspectLock (s : State) : State :=
  match s.paramKey with
  | none => s.complete .badValue []
  | some k =>
    if s.param 5 1 ≤ 15 then
      match s.lookup k with
      | none => s.complete .notFound []
      | some e => s.complete .ok (s.lockResult e (s.param 5 1))
    else s.complete .badValue []

/-- INSPECT LOCK. -/
def execInspectLock (s : State) : Result :=
  .next (s.commandStep (fun k => k == 0x31) State.inspectLock)

/-! ### Line commands (R155, R157, R158) -/

/-- Completion of a line command, with the line's state after the step. -/
def State.completeLine (s : State) (l : LineIx) (r : ResultCode) : State :=
  s.complete r [lineStateCode (s.line l).state]

/-- A line command: a line number out of range completes with BAD_VALUE. -/
def State.lineCommand (s : State) (run : State → LineIx → State) : State :=
  match s.paramLine with
  | none => s.complete .badValue []
  | some l => run s l

/-- LINE CONFIG on a line: the state check before the range check (R158). -/
def State.configureLine (s : State) (l : LineIx) : State :=
  if (s.line l).state ≠ .disabled then s.completeLine l .badState
  else
    match s.paramLineConfig with
    | some c => (s.updLine l (fun ln => { ln with config := c })).completeLine l .ok
    | none => s.completeLine l .badValue

/-- LINE CONFIG. -/
def execLineConfig (s : State) : Result :=
  .next (s.commandStep (fun k => k == 0x40) (fun t => t.lineCommand State.configureLine))

/-- LINE ENABLE on a line (R158). -/
def State.enableLine (s : State) (l : LineIx) : State :=
  match (s.line l).state with
  | .disabled =>
    (s.updLine l (fun ln => { ln with state := .active, assembler := .hunt })).completeLine l .ok
  | .active => s.completeLine l .ok
  | .restarting => s.completeLine l .badState

/-- LINE ENABLE. -/
def execLineEnable (s : State) : Result :=
  .next (s.commandStep (fun k => k == 0x41) (fun t => t.lineCommand State.enableLine))

/-- A Line Unit with its transmitter stopped, its request queue emptied, its partial frame and its
reply slots discarded (R155 steps 1 to 3). -/
def Line.stopped (ln : Line) : Line :=
  { ln with transmitting := none, requests := [], assembler := .hunt, replies := [] }

/-- A command-begun restart of an ACTIVE line (R155), completed in the step if no session of the
line is other than IDLE (R157). -/
def State.beginRestart (s : State) (l : LineIx) (fin : RestartEnd) : State :=
  let s := ((s.updLine l Line.stopped).emptyNotices l).restartSessions l .lineRestart true
  let s := s.updLine l (fun ln => { ln with state := .restarting, restartEnd := fin })
  { s with longCommand := some (.restartLine l) }.completeRestart l

/-- LINE RESTART on a line (R158). -/
def State.restartLine (s : State) (l : LineIx) : State :=
  match (s.line l).state with
  | .active => s.beginRestart l .active
  | .disabled => s.completeLine l .badState
  | .restarting => s.completeLine l .badState

/-- LINE RESTART. -/
def execLineRestart (s : State) : Result :=
  .next (s.commandStep (fun k => k == 0x43) (fun t => t.lineCommand State.restartLine))

/-- LINE DISABLE on a line (R158). -/
def State.disableLine (s : State) (l : LineIx) : State :=
  match (s.line l).state with
  | .active => s.beginRestart l .disabled
  | .disabled => s.completeLine l .ok
  | .restarting => s.completeLine l .badState

/-- LINE DISABLE. -/
def execLineDisable (s : State) : Result :=
  .next (s.commandStep (fun k => k == 0x42) (fun t => t.lineCommand State.disableLine))

/-! ### Parameters of the part and counters (R175 to R177) -/

/-- The work of SET LEASE BOUNDS. -/
def State.setLeaseBounds (s : State) : State :=
  let lo := s.param 0 2
  let hi := s.param 2 2
  if 50 ≤ lo ∧ lo ≤ hi then
    { s with leaseMin := lo, leaseMax := hi }.complete .ok (beBytes 2 lo ++ beBytes 2 hi)
  else s.complete .badValue (beBytes 2 s.leaseMin ++ beBytes 2 s.leaseMax)

/-- SET LEASE BOUNDS. -/
def execSetLeaseBounds (s : State) : Result :=
  .next (s.commandStep (fun k => k == 0x50) State.setLeaseBounds)

/-- The work of SET POOL THRESHOLD. -/
def State.setPoolThreshold (s : State) : State :=
  let v := s.param 0 2
  if v ≤ 4096 then
    let s := { s with poolThreshold := v }
    let s := if s.freeClaimCount < v then s.raise .poolLow else s
    s.complete .ok (beBytes 2 v ++ beBytes 2 s.freeClaimCount)
  else s.complete .badValue (beBytes 2 s.poolThreshold ++ beBytes 2 s.freeClaimCount)

/-- SET POOL THRESHOLD. -/
def execSetPoolThreshold (s : State) : Result :=
  .next (s.commandStep (fun k => k == 0x51) State.setPoolThreshold)

/-- A line's eight counters in the order of R159, two bytes each. -/
def LineCounters.toBytes (k : LineCounters) : List Byte :=
  [k.good, k.crc, k.truncated, k.badLength, k.badVersion, k.charError, k.queueDrop,
    k.brk].flatMap (beBytes 2)

/-- The five device counters in the order of R177, two bytes each. -/
def DeviceCounters.toBytes (k : DeviceCounters) : List Byte :=
  [k.grants, k.refusals, k.leaseExpiries, k.waitExpiries, k.revokes].flatMap (beBytes 2)

/-- The work of READ COUNTERS: one group is copied and set to 0 (R177). -/
def State.readCounters (s : State) : State :=
  match s.paramLine with
  | some l =>
    (s.updLine l (fun ln => { ln with counters := LineCounters.reset })).complete .ok
      (s.line l).counters.toBytes
  | none =>
    if s.param 0 1 = 6 then
      { s with counters := DeviceCounters.reset }.complete .ok s.counters.toBytes
    else s.complete .badValue []

/-- READ COUNTERS. -/
def execReadCounters (s : State) : Result :=
  .next (s.commandStep (fun k => k == 0x60) State.readCounters)

/-! ### Unknown commands (R165) -/

/-- The command codes of Table 9.2. -/
def isKnownCommand (code : Nat) : Bool :=
  [0x01, 0x02, 0x03, 0x04, 0x10, 0x11, 0x12, 0x20, 0x21, 0x30, 0x31, 0x40, 0x41, 0x42, 0x43, 0x50,
    0x51, 0x60].contains code

/-- The work of a command whose code is not in the table. -/
def State.rejectCommand (s : State) : State := s.complete .unknownCommand []

/-- UNKNOWN_COMMAND. -/
def execUnknownCommand (s : State) : Result :=
  .next (s.commandStep (fun k => !isKnownCommand k) State.rejectCommand)

end Sys2Proof.Machine
end

