-- ==== Sys2Proof/Machine/HostPort.lean ====
section
/-!
DEFINITION. The register window and its SPI port: what a read of each byte gives, what a write of each
byte does, SPI transactions as runs of byte reads and byte writes, and the four rows of host writes
(R161 to R164, R181, R182, R188).
-/

namespace Sys2Proof.Machine

/-! ### Reading the window (R162, R188) -/

/-- The status byte: service state, mailbox state, result code. -/
def State.statusByte (s : State) : Byte :=
  byteOf (serviceNumber s.service * 64 + mailboxNumber s.mailbox * 16 + resultNumber s.resultCode)

/-- The device cause byte with the device summary in bit 7. -/
def State.deviceCauseByte (s : State) : Byte :=
  s.deviceCauses.setWidth 8 ||| (if s.deviceSummary then 0x80#8 else 0#8)

/-- A line byte: causes, masks from bit 4 on, the line's summary in bit 7. -/
def Line.windowByte (ln : Line) : Byte :=
  ln.causes.setWidth 8 ||| (ln.masks.setWidth 8 <<< 4) |||
    (if ln.summary then 0x80#8 else 0#8)

/-- The 64 bytes of the window, as a READ's snapshot takes them (R163, Table 11.4). -/
def State.window (s : State) : List Byte :=
  [Config.identification, s.statusByte, s.deviceCauseByte, s.deviceMask.setWidth 8] ++
    s.lines.toList.map Line.windowByte ++ beBytes 2 s.leaseMin ++ beBytes 2 s.leaseMax ++
    beBytes 2 s.poolThreshold ++ beBytes 2 s.freeClaimCount ++ beBytes 2 s.freeEntryCount ++
    s.params.toList ++ s.result.toList

/-! ### Writing the window (R162, R164) -/

/-- A write of the command code byte (R164). -/
def State.writeCommandCode (s : State) (data : Byte) : State :=
  match s.mailbox with
  | .idle =>
    if data = Config.ackCode then s.raise .mailboxCollision
    else { s with commandCode := data, mailbox := .busy false }
  | .busy _ => s.raise .mailboxCollision
  | .done =>
    if data = Config.ackCode then { s with mailbox := .idle } else s.raise .mailboxCollision

/-- A write of one window byte, at an address below 64 (Table 11.4). Addresses whose bytes ignore
writes change nothing. -/
def State.writeWindow (s : State) (a : Nat) (data : Byte) : State :=
  if a = 0 then s.writeCommandCode data
  else if a = 2 then s.writeDeviceCauses data
  else if a = 3 then s.writeDeviceMask data
  else if h : 4 ≤ a ∧ a ≤ 9 then s.writeLineByte ⟨a - 4, by omega⟩ data
  else if h : 0x14 ≤ a ∧ a ≤ 0x27 then { s with params := s.params.set (a - 0x14) data }
  else s

/-- The window address that an address byte selects (R161). -/
def selectedAddress (addr : Byte) : Nat := addr.toNat % 64

/-! ### SPI transactions (R161, R163) -/

/-- The byte writes that a transaction's data bytes make from an address on; the address rises by
one and wraps from 63 to 0. -/
def writesFrom : (a : Nat) → List Byte → List (Nat × Byte)
  | _, [] => []
  | a, b :: rest => (a, b) :: writesFrom ((a + 1) % 64) rest

/-- The byte writes of a whole transaction, given its complete bytes: only instruction 0x02 writes,
and a transaction of fewer than two bytes has no effect. -/
def spiWrites (bytes : List Byte) : List (Nat × Byte) :=
  match bytes with
  | instruction :: addr :: data =>
    if instruction = 0x02#8 then writesFrom (selectedAddress addr) data else []
  | _ => []

/-- The command that one byte write is: the acknowledge and the cause and mask bytes have rows of
their own. A line byte is both a cause byte and a mask byte; it is listed as CAUSE_CLEAR, which has
the whole effect of the write. -/
def writeCommand (p : SpiPlace) (w : Nat × Byte) : Instr :=
  if w.1 = 0 ∧ w.2 = Config.ackCode then .mailboxAck p
  else if w.1 = 2 then .causeClear .device w.2 p
  else if w.1 = 3 then .maskWrite .device w.2 p
  else if h : 4 ≤ w.1 ∧ w.1 ≤ 9 then .causeClear (.line ⟨w.1 - 4, by omega⟩) w.2 p
  else .registerWrite (byteOf w.1) w.2 p

/-- The commands of byte writes that end their transaction, the first of them standing as given. -/
def placedCommands : (first : Bool) → List (Nat × Byte) → List Instr
  | _, [] => []
  | first, [w] => [writeCommand ⟨first, true⟩ w]
  | first, w :: rest => writeCommand ⟨first, false⟩ w :: placedCommands false rest

/-- The commands of a SPI transaction, in order (R161: each byte takes effect by itself, in order). -/
def spiCommands (bytes : List Byte) : List Instr := placedCommands true (spiWrites bytes)

/-- What MISO shifts out during a transaction of `bytes.length` bytes whose address byte was
received in state `s`: 0 during instruction and address, then, for a READ, the snapshot from the
address on, wrapping. The spec states no MISO value for the data bytes of a WRITE: a free value
(notes/assumptions/7.md). Every other instruction reads 0 throughout. -/
def State.spiRead (s : State) (bytes : List Byte) : List Byte :=
  match bytes with
  | instruction :: addr :: data =>
    if instruction = 0x0B#8 then
      0#8 :: 0#8 :: (List.range data.length).map
        (fun k => s.window.getD ((selectedAddress addr + k) % 64) 0#8)
    else if instruction = 0x02#8 then
      0#8 :: 0#8 :: (List.range data.length).map (Config.misoDuringWrite data)
    else 0#8 :: 0#8 :: data.map (fun _ => 0#8)
  | _ => bytes.map (fun _ => 0#8)

/-- MISO during byte `k` of a transaction of these bytes, whose address byte was received in state `s`.
While CS_N is negated there is no transaction and MISO is high impedance: no level (R161). -/
def State.miso (s : State) (transaction : Option (List Byte)) (k : Nat) : Option Byte :=
  transaction.map (fun bytes => (s.spiRead bytes).getD k 0#8)

/-- A data byte of a WRITE transaction is written at an address. The first opens its transaction; a later
one belongs to the transaction in progress, whose next address it goes to. Where none is in progress, as
after a device reset (R178), the byte is ignored (R161). -/
def State.spiByte (s : State) (p : SpiPlace) (a : Nat) (write : State → State) : State :=
  if p.first = true ∨ s.spiWrite = some a then
    { write s with spiWrite := if p.last then none else some ((a + 1) % 64) }
  else s

/-! ### The rows of host writes -/

/-- The window address of a cause byte (R188). -/
def causeAddress (target : CauseByte) : Nat :=
  match target with
  | .device => 0x02
  | .line l => 0x04 + l.val

/-- The window address of a mask byte (R188). -/
def maskAddress (target : CauseByte) : Nat :=
  match target with
  | .device => 0x03
  | .line l => 0x04 + l.val

/-- MAILBOX_ACK: 0xFF is written to the command code byte (R164). -/
def execMailboxAck (s : State) (p : SpiPlace := .whole) : Result :=
  .next (s.spiByte p 0 (fun t => t.writeCommandCode Config.ackCode))

/-- REGISTER_WRITE: a window byte is written (R162). -/
def execRegisterWrite (addr data : Byte) (s : State) (p : SpiPlace := .whole) : Result :=
  .next (s.spiByte p (selectedAddress addr) (fun t => t.writeWindow (selectedAddress addr) data))

/-- CAUSE_CLEAR: a cause byte is written; a line byte's masks are written with it (R181;
notes/assumptions/18.md). -/
def execCauseClear (target : CauseByte) (data : Byte) (s : State)
    (p : SpiPlace := .whole) : Result :=
  .next (s.spiByte p (causeAddress target) (fun t =>
    match target with
    | .device => t.writeDeviceCauses data
    | .line l => t.writeLineByte l data))

/-- MASK_WRITE: a mask byte is written; a line byte's causes written 1 are cleared with it
(R181, R182; notes/assumptions/18.md). -/
def execMaskWrite (target : CauseByte) (data : Byte) (s : State)
    (p : SpiPlace := .whole) : Result :=
  .next (s.spiByte p (maskAddress target) (fun t =>
    match target with
    | .device => t.writeDeviceMask data
    | .line l => t.writeLineByte l data))

end Sys2Proof.Machine
end

