-- ==== Sys2Proof/Machine/SerialLines.lean ====
section
/-!
DEFINITION. The Line Units' own actions: frame assembly (R147 to R149), break (R154, R156), frame starts
and ends (R51, R94, R152, R153), and the restart step of a break-begun restart (R156).
-/

namespace Sys2Proof.Machine

/-! ### The receiver (R146 to R149, R153) -/

/-- DEn_N is asserted: in FULL duplex while the line is ACTIVE or RESTARTING, in HALF while a frame is
being sent (R153). -/
def Line.driverEnabled (ln : Line) : Bool :=
  match ln.config.duplex with
  | .full => ln.state != .disabled
  | .half => ln.transmitting.isSome

/-- TXD is held high: no frame is being sent (R145, R146). -/
def Line.txdHigh (ln : Line) : Bool := ln.transmitting.isNone

/-- A character reaches the frame assembler: the line is ACTIVE, no break is being waited out, and in
HALF duplex DEn_N is negated (R146, R153, R154). -/
def Line.hears (ln : Line) : Bool :=
  ln.state == .active && ln.breakHold == .clear && (ln.config.duplex == .full || !ln.driverEnabled)

/-- The frame is dropped: it is counted with its cause, and the assembler returns to HUNT. -/
def Line.drop (ln : Line) (ev : LineEvent) : Line := { ln.record ev with assembler := .hunt }

/-- A character in HUNT: 0xA5 without an error mark starts a frame, any other is discarded (R147). -/
def Line.huntCharacter (ln : Line) (ch : RxChar) : Line :=
  if ch.data = Config.requestSync ∧ errorMark ln.config.parity ch = false then
    { ln with assembler := .length }
  else ln

/-- The length byte (R147). -/
def Line.lengthCharacter (ln : Line) (ch : RxChar) : Line :=
  if errorMark ln.config.parity ch then ln.drop .charError
  else if ch.data.toNat < 4 ∨ 44 < ch.data.toNat then ln.drop .badLength
  else { ln with assembler := .body ch.data.toNat [] false }

/-- A complete frame is judged by the four tests in their order (R149). `bytes` are those from the
station byte to the last CRC byte. -/
def Line.judgeFrame (ln : Line) (length : Nat) (bytes : List Byte) (bad : Bool) : Line :=
  let body := bytes.take length
  if bad then ln.drop .charError
  else if crcBytes (byteOf length :: body) ≠ bytes.drop length then ln.drop .crc
  else if versionOf body ≠ 1 then ln.drop .badVersion
  else if Config.requestDepth ≤ ln.requests.length then ln.drop .queueDrop
  else { ln.record .good with requests := ln.requests ++ [requestOfBytes body], assembler := .hunt }

/-- REQUEST_SYNC_BYTE: a character in HUNT (R147). -/
def execRequestSyncByte (l : LineIx) (ch : RxChar) (s : State) : Result :=
  .next (if (s.line l).hears ∧ (s.line l).assembler = .hunt then
    s.updLine l (fun ln => ln.huntCharacter ch) else s)

/-- LENGTH_BYTE: a character in LENGTH (R147). -/
def execLengthByte (l : LineIx) (ch : RxChar) (s : State) : Result :=
  .next (if (s.line l).hears ∧ (s.line l).assembler = .length then
    s.updLine l (fun ln => ln.lengthCharacter ch) else s)

/-- BODY_CHARACTER: a character in BODY that is not the last CRC byte is collected and may set the bad
mark (R148). -/
def execBodyCharacter (l : LineIx) (ch : RxChar) (s : State) : Result :=
  match (s.line l).assembler with
  | .body n bytes bad =>
    .next (if (s.line l).hears ∧ bytes.length + 1 < n + 2 then
      s.updLine l (fun ln =>
        { ln with assembler := .body n (bytes ++ [ch.data]) (bad || errorMark ln.config.parity ch) })
      else s)
  | .hunt => .next s
  | .length => .next s

/-- FRAME_RECEIVED: the last CRC byte is collected and the frame is judged (R148, R149). -/
def execFrameReceived (l : LineIx) (ch : RxChar) (s : State) : Result :=
  match (s.line l).assembler with
  | .body n bytes bad =>
    .next (if (s.line l).hears ∧ bytes.length + 1 = n + 2 then
      s.updLine l (fun ln =>
        ln.judgeFrame n (bytes ++ [ch.data]) (bad || errorMark ln.config.parity ch))
      else s)
  | .hunt => .next s
  | .length => .next s

/-- GAP_LIMIT_EXPIRY: an idle interval inside a frame beyond the gap limit drops the frame as
truncated (R148). The interval is in periods of REFCLK. -/
def execGapLimitExpiry (l : LineIx) (idle : Nat) (s : State) : Result :=
  let ln := s.line l
  .next (if ln.state = .active ∧ ln.assembler ≠ .hunt ∧
      ln.config.gapLimit * characterTime ln.config < idle then
    s.updLine l (fun ln => ln.drop .truncated) else s)

/-! ### Break (R154, R156) -/

/-- The break detector runs and waits for a break: the line is ACTIVE or RESTARTING, in HALF duplex
DEn_N is negated, and RXD has been high since the break before. -/
def Line.detectsBreak (ln : Line) : Bool :=
  ln.state != .disabled && ln.breakHold != .low && (ln.config.duplex == .full || !ln.driverEnabled)

/-- A break is detected: it is counted, BREAK is raised, the partial frame is discarded, and on an
ACTIVE line with break action RESTART the break-begun restart starts at once (R154, R156). -/
def Line.breakDetected (ln : Line) : Line :=
  let ln := { ln.drop .brk with breakHold := .low }
  if ln.state = .active ∧ ln.config.breakAction = .restart then
    { ln.stopped with state := .restarting, restartStepPending := true }
  else ln

/-- BREAK: RXD low for more than 2 character times (R154). The low time is in periods of REFCLK. -/
def execBreak (l : LineIx) (low : Nat) (s : State) : Result :=
  let ln := s.line l
  .next (if ln.detectsBreak ∧ 2 * characterTime ln.config < low then
    s.updLine l Line.breakDetected else s)

/-- RXD has been high for `high` clocks: the break detector is armed again, and once that is a character
time the receiver recognises a start bit (R154). -/
def Line.breakEnded (ln : Line) (high : Nat) : Line :=
  if ln.breakHold = .clear then ln
  else { ln with breakHold := if characterTime ln.config ≤ high then .clear else .settling }

/-- BREAK_END: RXD goes high after a break, and stays so (R154; notes/assumptions/9.md). -/
def execBreakEnd (l : LineIx) (s : State) (high : Nat := 0) : Result :=
  .next (s.updLine l (fun ln => ln.breakEnded high))

/-- The work of a restart step (R156). -/
def State.restartStep (s : State) (l : LineIx) : State :=
  let s := (s.emptyNotices l).restartSessions l .lineBreak false
  s.updLine l (fun ln => { ln with restartStepPending := false, state := .active })

/-- RESTART_STEP: the arbiter takes the restart step a line offers (R18, R156). -/
def execRestartStep (l : LineIx) (s : State) : Result :=
  .next (if s.arbiterChoice = some (srcLine l) ∧ (s.line l).state = .restarting ∧
      (s.line l).restartStepPending = true then
    (s.served (srcLine l)).restartStep l else s)

/-! ### The transmitter (R152, R153) -/

/-- The transmitter is free to start a frame: the line is ACTIVE, no frame is being sent, and in HALF
duplex the receiver has been idle for the turnaround gap (R152, R153). -/
def Line.mayStart (ln : Line) (idle : Nat) : Bool :=
  ln.state == .active && ln.transmitting.isNone &&
    (ln.config.duplex == .full ||
      (ln.breakHold != .low && ln.config.turnaround * characterTime ln.config ≤ idle))

/-- The filled reply slot reserved earliest, with its contents. -/
def firstFilled : List ReplySlot → Option (ReplySlot × ReplyContent)
  | [] => none
  | x :: rest =>
    match x.content with
    | some c => some (x, c)
    | none => firstFilled rest

/-- The reply slots after the filled one reserved earliest has become free. -/
def withoutFirstFilled : List ReplySlot → List ReplySlot
  | [] => []
  | x :: rest => if x.content.isSome then rest else x :: withoutFirstFilled rest

/-- REPLY_FRAME_START: the frame of the filled slot reserved earliest starts, and the slot becomes
free (R151, R152). -/
def execReplyFrameStart (l : LineIx) (idle : Nat) (s : State) : Result :=
  match firstFilled (s.line l).replies with
  | some (slot, c) =>
    .next (if (s.line l).mayStart idle then
      s.updLine l (fun ln =>
        { ln with replies := withoutFirstFilled ln.replies,
                  transmitting := some (replyFrame slot c) })
      else s)
  | none => .next s

/-- The notice item whose frame the transmitter would start now: the head of the list, while no reply
slot is filled (R152). -/
def Line.nextNotice (ln : Line) (idle : Nat) : Option NoticeItem :=
  if ln.mayStart idle ∧ firstFilled ln.replies = none then ln.notices.head? else none

/-- The item leaves the head of its line's list and its frame is sent. -/
def State.sendNotice (s : State) (l : LineIx) (frame : List Byte) : State :=
  s.updLine l (fun ln => { ln with notices := ln.notices.tail, transmitting := some frame })

/-- The notice counter of a session advances, modulo 256 (R85). -/
def State.countNotice (s : State) (i : SlotIx) : State :=
  s.updSession i (fun x => { x with noticeCounter := x.noticeCounter + 1#8 })

/-- The start of a claim's notice frame: the session's notice counter advances, the frame's contents
are fixed from the claim, the claim has no notice any more, and a DETACHED claim is freed (R48, R51,
R131). -/
def State.startNotice (s : State) (l : LineIx) (c : ClaimIx) (k : NoticeKind) : State :=
  let i := (s.claim c).session
  let s := s.countNotice i
  let frame := noticeFrame (stationOf i) (s.session i).incarnation (noticeCode k)
    (s.session i).noticeCounter (noticePayload k (s.claim c))
  let s := (s.sendNotice l frame).updClaim c (fun x => { x with notice := none })
  if (s.claim c).state = .detached then s.freeClaim c else s

/-- NOTICE_FRAME_START (R51). -/
def execNoticeFrameStart (l : LineIx) (idle : Nat) (s : State) : Result :=
  match (s.line l).nextNotice idle with
  | some (.claim c) =>
    match (s.claim c).notice with
    | some k => .next (s.startNotice l c k)
    | none => .next s
  | some (.sessionEnded _) => .next s
  | none => .next s

/-- The start of a SESSION_ENDED frame: the notice counter advances, the frame carries the end cause
and the advanced counter, and the session becomes IDLE (R94). -/
def State.startSessionEnded (s : State) (l : LineIx) (i : SlotIx) : State :=
  let s := s.countNotice i
  let frame := noticeFrame (stationOf i) (s.session i).incarnation 0xC4#8
    (s.session i).noticeCounter [endCauseCode (s.session i).endCause]
  (s.sendNotice l frame).updSession i (fun x => { x with state := .idle })

/-- SESSION_ENDED_FRAME_START (R94). -/
def execSessionEndedFrameStart (l : LineIx) (idle : Nat) (s : State) : Result :=
  match (s.line l).nextNotice idle with
  | some (.sessionEnded i) => .next (s.startSessionEnded l i)
  | some (.claim _) => .next s
  | none => .next s

/-- FRAME_TRANSMISSION_END: the last stop bit has been sent and the transmitter is free; in HALF
duplex DEn_N is negated with it (R153). -/
def execFrameTransmissionEnd (l : LineIx) (s : State) : Result :=
  .next (s.updLine l (fun ln => { ln with transmitting := none }))

end Sys2Proof.Machine
end

