-- ==== Sys2Proof/Machine/Stations.lean ====
section
/-!
DEFINITION. The station requests: OPEN, CLOSE, RENEW, ACQUIRE, RELEASE, CONVERT, CANCEL, QUERY, GROUP and a
request of unknown kind.
-/

namespace Sys2Proof.Machine

/-! ### OPEN (R78 to R82) -/

/-- The lease granted for a requested one (R80). -/
def State.clampLease (s : State) (requested : Nat) : Nat :=
  if requested < s.leaseMin then s.leaseMin
  else if s.leaseMax < requested then s.leaseMax else requested

/-- The incarnation after the present one: 255 goes to 1 (R81). -/
def nextIncarnation (b : Byte) : Byte := if b = 255#8 then 1#8 else b + 1#8

/-- The effective ring: the requested ring, raised to the line's ring floor (R79). -/
def effectiveRing (floor requested : Nat) : Nat := max requested floor

/-- The session record an accepted OPEN writes, but for its lease deadline and cache (R81). -/
def openedSession (x : Session) (ring lease : Nat) : Session :=
  { x with incarnation := nextIncarnation x.incarnation, ring := ring, lease := lease,
           noticeCounter := 0#8, endCause := .none, noticeSuppressed := false, state := .opened }

/-- The reply to an accepted OPEN (R81, Table 7.2). -/
def openReply (x : Session) : Reply :=
  ⟨.ok, [byteOf x.ring] ++ beBytes 2 x.lease ++ [x.incarnation]⟩

/-- An OPEN is accepted (R81), an ENDED session's item being withdrawn first (R82). -/
def State.acceptOpen (s : State) (i : SlotIx) (r : Request) : State :=
  let ring := effectiveRing (s.line (lineOf i)).config.ringFloor (r.payload.getD 0 0).toNat
  let lease := s.clampLease (beNat (r.payload.drop 1))
  let s := if (s.session i).state = .ended then s.withdrawSessionEnded i else s
  let s := (s.updSession i (fun x => openedSession x ring lease)).setLease i
  s.finish i r (openReply (s.session i))

/-- An OPEN that reaches an IDLE or ENDED session: well-formedness, then acceptance (R78, R79). -/
def State.openClosed (s : State) (i : SlotIx) (r : Request) : State :=
  if r.payload.length ≠ 3 then s.answer i ⟨.badRequest, []⟩
  else if (r.payload.getD 0 0).toNat = 0 ∨ 7 < (r.payload.getD 0 0).toNat then
    s.answer i ⟨.badRing, []⟩
  else s.acceptOpen i r

/-- Serving an OPEN (R78). -/
def State.serveOpen (s : State) (i : SlotIx) (r : Request) : State :=
  match serviceRefusal s.service r with
  | some st => s.answer i ⟨st, []⟩
  | none =>
    match (s.session i).state with
    | .opened =>
      if isDuplicate (s.session i) r then s.answerFromCache i
      else s.answer i ⟨.sessionExists, [(s.session i).incarnation]⟩
    | .ending => s.answer i ⟨.sessionEnding, []⟩
    | .idle => s.openClosed i r
    | .ended => s.openClosed i r

/-- OPEN. -/
def execOpen (l : LineIx) (s : State) : Result :=
  .next (s.requestStep l (fun k => k == 0x01#8) State.serveOpen)

/-! ### CLOSE (R87) -/

/-- Serving a CLOSE: an empty one is accepted, its reply slot staying reserved; one with a payload is
refused. -/
def State.serveClose (s : State) (i : SlotIx) (r : Request) : State :=
  match s.commonChecks i r with
  | some answered => answered
  | none =>
    if r.payload = [] then
      (s.enterEnding i .closed).updSession i (fun x => { x with closeReply := true })
    else (s.setLease i).finish i r ⟨.badRequest, []⟩

/-- CLOSE. -/
def execClose (l : LineIx) (s : State) : Result :=
  .next (s.requestStep l (fun k => k == 0x02#8) State.serveClose)

/-! ### RENEW (R83) -/

/-- The work of a RENEW: its payload must be empty. -/
def State.renew (s : State) (_ : SlotIx) (r : Request) : State × Reply :=
  if r.payload = [] then (s, ⟨.ok, []⟩) else s.refuse .badRequest

/-- RENEW. -/
def execRenew (l : LineIx) (s : State) : Result :=
  .next (s.requestStep l (fun k => k == 0x03#8) (State.serveRequest State.renew))

/-! ### ACQUIRE (R32 to R36) -/

/-- The OK reply that carries a token. -/
def tokenReply (t : Nat) : Reply := ⟨.ok, beBytes 6 t⟩

/-- An ACQUIRE on an absent key (R33). -/
def State.acquireAbsent (s : State) (i : SlotIx) (f : AcquireFields) : State × Reply :=
  match s.creationRefusal f.key with
  | some st => s.refusePressed st
  | none =>
    if s.canIssue then
      match s.lowestFreeEntry, s.freeList with
      | some e, c :: _ => (s.grantNew i f.key f.mode e c, tokenReply s.tokenCounter)
      | _, _ => s.refusePressed .tableFull
    else s.refuseExhausted

/-- An ACQUIRE that is grantable at once on a present entry (R34). -/
def State.acquireJoin (s : State) (i : SlotIx) (f : AcquireFields) (e : EntryIx) : State × Reply :=
  match s.freeList with
  | [] => s.refusePressed .poolEmpty
  | c :: _ =>
    if s.canIssue then (s.grantJoin i f.key e c, tokenReply s.tokenCounter) else s.refuseExhausted

/-- An ACQUIRE that is not grantable (R35, R36). -/
def State.acquireQueue (s : State) (i : SlotIx) (f : AcquireFields) (e : EntryIx) :
    State × Reply :=
  if f.wait = 0 then s.refuse .notAvailable
  else if (s.ns f.key.ns).rules.queueLimit ≤ (s.entry e).waiters.length then s.refuse .queueFull
  else
    match s.freeList with
    | [] => s.refusePressed .poolEmpty
    | c :: _ =>
      (s.queueClaim i f.key f.mode f.wait e c,
        ⟨.queued, [byteOf ((s.entry e).waiters.length + 1)]⟩)

/-- The work of an ACQUIRE after the common checks (R32). -/
def State.acquire (s : State) (i : SlotIx) (r : Request) : State × Reply :=
  match acquirePayload r.payload with
  | none => s.refuse .badRequest
  | some f =>
    match s.takingRefusal i f.key f.mode with
    | some st => s.refuse st
    | none =>
      match s.lookup f.key with
      | none => s.acquireAbsent i f
      | some e =>
        if s.ownClaim e i = .none then
          if s.grantableNow e f.mode then s.acquireJoin i f e else s.acquireQueue i f e
        else s.refuse .alreadyClaimed

/-- ACQUIRE. -/
def execAcquire (l : LineIx) (s : State) : Result :=
  .next (s.requestStep l (fun k => k == 0x04#8) (State.serveRequest State.acquire))

/-! ### RELEASE (R41) -/

/-- A holder releases its claim, and a grant pass runs on the entry (R41, R90). -/
def State.releaseClaim (s : State) (c : ClaimIx) : State :=
  (s.freeClaim c).grantPass (s.claim c).entry

/-- The work of a RELEASE. -/
def State.release (s : State) (i : SlotIx) (r : Request) : State × Reply :=
  match keyPayload r.payload with
  | none => s.refuse .badRequest
  | some k =>
    match s.ownClaimOn k i with
    | .held c => (s.releaseClaim c, ⟨.ok, []⟩)
    | .upgrading c => (s.releaseClaim c, ⟨.ok, []⟩)
    | .waiting _ => s.refuse .notHeld
    | .none => s.refuse .notHeld

/-- RELEASE. -/
def execRelease (l : LineIx) (s : State) : Result :=
  .next (s.requestStep l (fun k => k == 0x05#8) (State.serveRequest State.release))

/-! ### CONVERT (R59 to R62) -/

/-- The namespace state and bracket checks of a CONVERT, by its target mode (R59, R100, R101). -/
def State.convertRefusal (s : State) (i : SlotIx) (k : Key) (target : Mode) : Option Status :=
  match target with
  | .exclusive => s.takingRefusal i k .exclusive
  | .shared => if (s.ns k.ns).state = .disabled then some .nsDisabled else none

/-- A CONVERT down of an EXCLUSIVE claim (R60). -/
def State.downgrade (s : State) (c : ClaimIx) : State × Reply :=
  let e := (s.claim c).entry
  (((s.updClaim c (fun x => { x with mode := .shared })).updEntry e
      (fun x => { x with mode := .shared })).grantPass e, tokenReply (s.claim c).token)

/-- A CONVERT up of a SHARED claim (R61, R62). -/
def State.convertUp (s : State) (c : ClaimIx) (wait : Nat) : State × Reply :=
  let e := (s.claim c).entry
  if (s.entry e).holders = [c] then
    if s.canIssue then (s.upgradeClaim e c, tokenReply s.tokenCounter) else s.refuseExhausted
  else if (s.entry e).upgrade ≠ none then s.refuse .upgradeConflict
  else if wait = 0 then s.refuse .notAvailable
  else (s.makePending e c wait, ⟨.queued, [0#8]⟩)

/-- A CONVERT of the claim its session holds (R59). -/
def State.convertHeld (s : State) (c : ClaimIx) (f : AcquireFields) : State × Reply :=
  if (s.claim c).mode = f.mode then s.refuse .badRequest
  else
    match f.mode with
    | .shared => s.downgrade c
    | .exclusive => s.convertUp c f.wait

/-- The work of a CONVERT. -/
def State.convert (s : State) (i : SlotIx) (r : Request) : State × Reply :=
  match acquirePayload r.payload with
  | none => s.refuse .badRequest
  | some f =>
    match s.convertRefusal i f.key f.mode with
    | some st => s.refuse st
    | none =>
      match s.ownClaimOn f.key i with
      | .held c => s.convertHeld c f
      | .upgrading c => s.convertHeld c f
      | .waiting _ => s.refuse .notHeld
      | .none => s.refuse .notHeld

/-- CONVERT. -/
def execConvert (l : LineIx) (s : State) : Result :=
  .next (s.requestStep l (fun k => k == 0x06#8) (State.serveRequest State.convert))

/-! ### CANCEL (R42, R43) -/

/-- The work of a CANCEL. -/
def State.cancel (s : State) (i : SlotIx) (r : Request) : State × Reply :=
  match keyPayload r.payload with
  | none => s.refuse .badRequest
  | some k =>
    match s.ownClaimOn k i with
    | .waiting c => ((s.freeClaim c).grantPass (s.claim c).entry, ⟨.ok, []⟩)
    | .upgrading c =>
      ((s.clearUpgrade (s.claim c).entry c).grantPass (s.claim c).entry, ⟨.ok, []⟩)
    | .held _ => s.refuse .notWaiting
    | .none => s.refuse .notWaiting

/-- CANCEL. -/
def execCancel (l : LineIx) (s : State) : Result :=
  .next (s.requestStep l (fun k => k == 0x07#8) (State.serveRequest State.cancel))

/-! ### QUERY (R139) -/

/-- The payload of a QUERY's OK reply (R15, R139). -/
def State.queryPayload (s : State) (i : SlotIx) (k : Key) : List Byte :=
  match s.lookup k with
  | none => List.replicate 11 0#8
  | some e =>
    let x := s.entry e
    [modeCode x.mode, byteOf x.holders.length, byteOf x.waiters.length,
      flagByte x.upgrade.isSome] ++ beBytes 6 x.latestToken ++ [ownClaimCode (s.ownClaim e i)]

/-- The work of a QUERY. -/
def State.query (s : State) (i : SlotIx) (r : Request) : State × Reply :=
  match keyPayload r.payload with
  | none => s.refuse .badRequest
  | some k =>
    if (s.ns k.ns).state = .disabled then s.refuse .nsDisabled
    else if (s.ns k.ns).rules.queryLimit < (s.session i).ring then s.refuse .accessDenied
    else (s, ⟨.ok, s.queryPayload i k⟩)

/-- QUERY. -/
def execQuery (l : LineIx) (s : State) : Result :=
  .next (s.requestStep l (fun k => k == 0x08#8) (State.serveRequest State.query))

/-! ### GROUP (R67 to R70) -/

/-- A refused GROUP: failing index and element status (R140). -/
def groupRefusal (i : Nat) (st : Status) : Reply := ⟨st, [byteOf i, statusCode st]⟩

/-- The checks of one element (R68). -/
def State.elementRefusal (s : State) (i : SlotIx) (el : GroupElement) : Option Status :=
  match s.takingRefusal i el.key el.mode with
  | some st => some st
  | none =>
    match s.lookup el.key with
    | none => none
    | some e =>
      if s.ownClaim e i = .none then
        if s.grantableNow e el.mode then none else some .notAvailable
      else some .alreadyClaimed

/-- The first element that fails its checks, with its position from `n` on (R68). -/
def State.firstRefused (s : State) (i : SlotIx) : (n : Nat) → List GroupElement →
    Option (Nat × Status)
  | _, [] => none
  | n, el :: rest =>
    match s.elementRefusal i el with
    | some st => some (n, st)
    | none => State.firstRefused s i (n + 1) rest

/-- The keys of a group that have no entry. -/
def State.absentKeys (s : State) (els : List GroupElement) : List Key :=
  (els.map (fun el => el.key)).filter (fun k => s.lookup k == none)

/-- The resource counts of a group of `n` elements, in their order: quota, chain room, free entries,
claim records (R9, R69). -/
def State.groupResourceRefusal (s : State) (absent : List Key) (n : Nat) : Option Status :=
  if absent.any (fun k =>
      (s.ns k.ns).rules.quota < (s.ns k.ns).occupied + absent.countP (fun j => j.ns == k.ns)) then
    some .quotaFull
  else if absent.any (fun k =>
      Config.chainLimit < (s.chain (bucketOf k)).length +
        absent.countP (fun j => bucketOf j == bucketOf k)) then
    some .tableFull
  else if s.freeEntries < absent.length then some .tableFull
  else if s.freeList.length < n then some .poolEmpty
  else none

/-- Grant one element of a group that passed every check (R70). -/
def State.grantElement (s : State) (i : SlotIx) (el : GroupElement) : State :=
  match s.freeList with
  | [] => s
  | c :: _ =>
    match s.lookup el.key with
    | some e => s.grantJoin i el.key e c
    | none =>
      match s.lowestFreeEntry with
      | some e => s.grantNew i el.key el.mode e c
      | none => s

/-- The tokens of a group of `n` elements: consecutive values from the counter's (R70). -/
def groupTokens (t : Nat) : (n : Nat) → List Byte
  | 0 => []
  | n + 1 => beBytes 6 t ++ groupTokens (t + 1) n

/-- The work of a GROUP. -/
def State.group (s : State) (i : SlotIx) (r : Request) : State × Reply :=
  match groupPayload r.payload with
  | .error n => (s, groupRefusal n .badRequest)
  | .ok els =>
    match s.firstRefused i 1 els with
    | some (n, st) => (s, groupRefusal n st)
    | none =>
      match s.groupResourceRefusal (s.absentKeys els) els.length with
      | some st => (s.raise .tablePressure, groupRefusal 0 st)
      | none =>
        if s.tokenCounter + els.length ≤ Config.tokenExhausted then
          (els.foldl (fun acc el => acc.grantElement i el) s,
            ⟨.ok, groupTokens s.tokenCounter els.length⟩)
        else (s.raise .tokensLow, groupRefusal 0 .tokensExhausted)

/-- GROUP. -/
def execGroup (l : LineIx) (s : State) : Result :=
  .next (s.requestStep l (fun k => k == 0x09#8) (State.serveRequest State.group))

/-! ### A request of unknown kind (R133) -/

/-- A kind byte other than 0x01 to 0x09 is refused, with reply kind 0x80 and no payload. -/
def State.refuseKind (s : State) (_ : SlotIx) (_ : Request) : State × Reply :=
  s.refuse .badRequest

/-- UNKNOWN_KIND_REQUEST. -/
def execUnknownKindRequest (l : LineIx) (s : State) : Result :=
  .next (s.requestStep l (fun k => !isKnownKind k) (State.serveRequest State.refuseKind))

end Sys2Proof.Machine
end

