-- ==== Sys2Proof/Machine/Sweeps.lean ====
section
/-!
DEFINITION. The steps of the sweep source: ending sweeps (R89 to R91), revoke sweeps (R109 to R111), the
clear sweep (R96, R169, R170), and device reset.
-/

namespace Sys2Proof.Machine

/-! ### Ending sweeps (R89 to R91) -/

/-- The first claim of a session's list in a given state. -/
def State.firstIn (s : State) (i : SlotIx) (st : ClaimState) : Option ClaimIx :=
  (s.session i).claimList.find? (fun c => (s.claim c).state == st)

/-- The claim an ending step takes back: the first WAITING, else the first DETACHED, else the oldest
HELD (R89). -/
def State.endingTarget (s : State) (i : SlotIx) : Option ClaimIx :=
  match s.firstIn i .waiting with
  | some c => some c
  | none =>
    match s.firstIn i .detached with
    | some c => some c
    | none => s.firstIn i .held

/-- The HELD claims of a session that are their entries' pending upgrades, in claim-list order. -/
def State.pendingUpgrades (s : State) (i : SlotIx) : List ClaimIx :=
  (s.session i).claimList.filter (fun c =>
    (s.claim c).state == .held && (s.entry (s.claim c).entry).upgrade == some c)

/-- A claim is taken back: a WAITING or HELD one with a grant pass on its entry, a DETACHED one
without (R89, R90). -/
def State.takeBack (s : State) (c : ClaimIx) : State :=
  match (s.claim c).state with
  | .waiting => (s.freeClaim c).grantPass (s.claim c).entry
  | .held => (s.freeClaim c).grantPass (s.claim c).entry
  | .detached => s.freeClaim c
  | .free => s

/-- A pending upgrade of the ending session is cleared, and a grant pass runs on its entry (R89). -/
def State.dropUpgrade (s : State) (c : ClaimIx) : State :=
  (s.clearUpgrade (s.claim c).entry c).grantPass (s.claim c).entry

/-- A claim step of an ending sweep: the claim is taken back, and the first step of the sweep then
clears the session's pending upgrades other than the claim taken (R89; notes/assumptions/11.md). -/
def State.endingStep (s : State) (i : SlotIx) (c : ClaimIx) : State :=
  let upgrades := match (s.session i).endingSweep with
    | .starting => (s.pendingUpgrades i).filter (fun d => d != c)
    | .running => []
    | .inactive => []
  let s := s.updSession i (fun x => { x with endingSweep := .running })
  upgrades.foldl (fun acc d => acc.dropUpgrade d) (s.takeBack c)

/-- ENDING_SWEEP_STEP: the sweep source's turn for a session whose claim list is not empty. -/
def execEndingSweepStep (i : SlotIx) (s : State) : Result :=
  .next (if s.sweepTurn (sweepEnding i) then
    match s.endingTarget i with
    | some c => (s.servedSweep (sweepEnding i)).endingStep i c
    | none => s
    else s)

/-- A session's pending CLOSE reply is placed with OK, and is no longer pending (R91, R96). -/
def State.settleClose (s : State) (i : SlotIx) : State :=
  if (s.session i).closeReply then
    (s.fillReply i ⟨.ok, []⟩).updSession i (fun x => { x with closeReply := false })
  else s

/-- Whether the session is to become ENDED with a SESSION_ENDED notice at its sweep's final step
(R91). -/
def State.endsWithNotice (s : State) (i : SlotIx) : Bool :=
  match (s.session i).endCause with
  | .closed => false
  | .lineRestart => false
  | .serviceClear => false
  | .none => !(s.session i).noticeSuppressed && (s.line (lineOf i)).state == .active
  | .leaseExpired => !(s.session i).noticeSuppressed && (s.line (lineOf i)).state == .active
  | .evicted => !(s.session i).noticeSuppressed && (s.line (lineOf i)).state == .active
  | .lineBreak => !(s.session i).noticeSuppressed && (s.line (lineOf i)).state == .active

/-- A session leaves ENDING at its sweep's final step (R91). -/
def State.leaveEnding (s : State) (i : SlotIx) : State :=
  let s := s.updSession i (fun x => { x with endingSweep := .inactive })
  if (s.session i).endCause = .closed then
    (s.settleClose i).updSession i (fun x => { x with state := .idle })
  else if s.endsWithNotice i then
    (s.updSession i (fun x => { x with state := .ended })).updLine (lineOf i)
      (fun ln => { ln with notices := ln.notices ++ [.sessionEnded i] })
  else s.updSession i (fun x => { x with state := .idle })

/-- An EVICT SESSION that waits for this session completes (R88, R91). -/
def State.completeEvict (s : State) (i : SlotIx) : State :=
  if (s.session i).endCause = .evicted ∧ s.longCommand = some (.evict i) then
    s.complete .ok (s.evictResult i)
  else s

/-- The final step of an ending sweep (R91), with the completions it brings about (R88, R157). -/
def State.endingFinal (s : State) (i : SlotIx) : State :=
  ((s.leaveEnding i).completeEvict i).completeRestart (lineOf i)

/-- ENDING_SWEEP_FINAL_STEP: the sweep source's turn for a session whose claim list is empty. -/
def execEndingSweepFinalStep (i : SlotIx) (s : State) : Result :=
  .next (if s.sweepTurn (sweepEnding i) ∧ (s.session i).claimList = [] then
    (s.servedSweep (sweepEnding i)).endingFinal i else s)

/-! ### Revoke sweeps (R109 to R111) -/

/-- The first occupied entry of a namespace at or above its scan index (R109). -/
def State.scanEntry (s : State) (n : NsIx) : Option EntryIx :=
  firstFrom (fun e => (s.entry e).occupied && (s.entry e).key.ns == n) 2048 (s.ns n).scanIndex

/-- A revoke step: every claim of the entry is revoked, holders first, and the entry is retired; the
scan index and the sweep's counts move on (R109, R110). -/
def State.revokeStep (s : State) (n : NsIx) (e : EntryIx) : State :=
  let h := (s.entry e).holders
  let w := (s.entry e).waiters
  let s := ((s.revokeClaims h).revokeClaims w).retireEntry e
  s.updNs n (fun x =>
    { x with scanIndex := e.val + 1, sweepEntries := x.sweepEntries + 1,
             sweepClaims := x.sweepClaims + h.length + w.length })

/-- REVOKE_SWEEP_STEP. -/
def execRevokeSweepStep (n : NsIx) (s : State) : Result :=
  .next (if s.sweepTurn (sweepRevoke n) then
    match s.scanEntry n with
    | some e => (s.servedSweep (sweepRevoke n)).revokeStep n e
    | none => s
    else s)

/-- The final step of a revoke sweep (R111). -/
def State.revokeFinal (s : State) (n : NsIx) : State :=
  let entries := (s.ns n).sweepEntries
  let claims := (s.ns n).sweepClaims
  let s := s.updNs n (fun x =>
    { x with state := .disabled, revokeSweep := false, scanIndex := 0, sweepEntries := 0,
             sweepClaims := 0 })
  s.complete .ok (s.nsResult n ++ beBytes 2 entries ++ beBytes 2 claims)

/-- REVOKE_SWEEP_FINAL_STEP. -/
def execRevokeSweepFinalStep (n : NsIx) (s : State) : Result :=
  .next (if s.sweepTurn (sweepRevoke n) ∧ s.scanEntry n = none then
    (s.servedSweep (sweepRevoke n)).revokeFinal n else s)

/-! ### The clear sweep (R17, R53, R96, R169, R170) -/

/-- A clear step frees one claim: no grant pass, no notice; an entry it leaves without holders loses
its waiters in arrival order, freed without notice, and is retired (R17, R53). -/
def State.clearClaim (s : State) (c : ClaimIx) : State :=
  let e := (s.claim c).entry
  match (s.claim c).state with
  | .free => s
  | .detached => s.freeClaim c
  | .held =>
    let s := s.freeClaim c
    if (s.entry e).holders = [] then
      ((s.entry e).waiters.foldl (fun acc d => acc.freeClaim d) s).retireEntry e
    else s
  | .waiting =>
    let s := s.freeClaim c
    if (s.entry e).holders = [] ∧ (s.entry e).waiters = [] then s.retireEntry e else s

/-- A clear step ends one session (R96). -/
def State.clearSession (s : State) (i : SlotIx) : State :=
  let s := s.updSession i (fun x =>
    { x with endCause := if x.state = .opened then .serviceClear else x.endCause })
  let s := (s.session i).claimList.foldl (fun acc c => acc.clearClaim c) s
  let s := ((s.dropLease i).settleClose i).withdrawSessionEnded i
  s.updSession i (fun x =>
    { x with leaseDeadline := none, endingSweep := .inactive, cache := { x.cache with valid := false },
             state := .idle })

/-- The lowest-numbered session that is not IDLE (R169). -/
def State.clearTarget (s : State) : Option SlotIx :=
  lowest (fun i => (s.session i).state != .idle)

/-- A clear step with its counts: one session ended, the claims it freed, the entries it retired. A
clear step takes no record and creates no entry, so the two free counts rise by what it freed
(R169). -/
def State.clearStep (s : State) (i : SlotIx) : State :=
  let t := s.clearSession i
  { t with clearSessions := s.clearSessions + 1,
           clearClaims := s.clearClaims + (t.freeClaimCount - s.freeClaimCount),
           clearEntries := s.clearEntries + (t.freeEntryCount - s.freeEntryCount) }

/-- CLEAR_STEP. -/
def execClearStep (s : State) : Result :=
  .next (if s.sweepTurn sweepClear then
    match s.clearTarget with
    | some i => (s.servedSweep sweepClear).clearStep i
    | none => s
    else s)

/-- The final step of the clear sweep (R13, R126, R170). -/
def State.clearFinal (s : State) : State :=
  let s := { s with expiries := [], clearSweep := false, service := .suspended,
                    namespaces := s.namespaces.map (fun (x : Namespace) => { x with occupied := 0 }) }
  s.complete .ok ([byteOf s.clearSessions] ++ beBytes 2 s.clearClaims ++ beBytes 2 s.clearEntries)

/-- CLEAR_SWEEP_FINAL_STEP. -/
def execClearSweepFinalStep (s : State) : Result :=
  .next (if s.sweepTurn sweepClear ∧ s.clearTarget = none then
    (s.servedSweep sweepClear).clearFinal else s)

/-! ### Device reset (R16, R52, R97, R113, R126, R160, R178, R185) -/

/-- DEVICE_RESET: every block takes its device-reset values. The waiting commands are events outside
the part and stay waiting (notes/assumptions/1.md). -/
def execDeviceReset (s : State) : Result := .next { State.reset with pending := s.pending }

end Sys2Proof.Machine
end

