-- ==== Sys2Proof/Machine/Dispatch.lean ====
section
/-! DEFINITION. The dispatch: one arm per command, each one direct call of its meaning. -/

namespace Sys2Proof.Machine

def exec (i : Instr) (s : State) : Host.Outcome State Fault Refusal :=
  match i with
  | .reqOpen l => Sys2Proof.Machine.execOpen l s
  | .reqClose l => Sys2Proof.Machine.execClose l s
  | .reqRenew l => Sys2Proof.Machine.execRenew l s
  | .reqAcquire l => Sys2Proof.Machine.execAcquire l s
  | .reqRelease l => Sys2Proof.Machine.execRelease l s
  | .reqConvert l => Sys2Proof.Machine.execConvert l s
  | .reqCancel l => Sys2Proof.Machine.execCancel l s
  | .reqQuery l => Sys2Proof.Machine.execQuery l s
  | .reqGroup l => Sys2Proof.Machine.execGroup l s
  | .reqUnknownKind l => Sys2Proof.Machine.execUnknownKindRequest l s
  | .setTokenBase => Sys2Proof.Machine.execSetTokenBase s
  | .startService => Sys2Proof.Machine.execStartService s
  | .suspendService => Sys2Proof.Machine.execSuspendService s
  | .clearService => Sys2Proof.Machine.execClearService s
  | .defineNamespace => Sys2Proof.Machine.execDefineNamespace s
  | .changeNamespace => Sys2Proof.Machine.execChangeNamespace s
  | .disableNamespaceDrain => Sys2Proof.Machine.execDisableNamespaceDrain s
  | .disableNamespaceRevoke => Sys2Proof.Machine.execDisableNamespaceRevoke s
  | .evictSession => Sys2Proof.Machine.execEvictSession s
  | .inspectSession => Sys2Proof.Machine.execInspectSession s
  | .revokeLockHolders => Sys2Proof.Machine.execRevokeLockHolders s
  | .revokeLockAll => Sys2Proof.Machine.execRevokeLockAll s
  | .inspectLock => Sys2Proof.Machine.execInspectLock s
  | .lineConfig => Sys2Proof.Machine.execLineConfig s
  | .lineEnable => Sys2Proof.Machine.execLineEnable s
  | .lineDisable => Sys2Proof.Machine.execLineDisable s
  | .lineRestart => Sys2Proof.Machine.execLineRestart s
  | .setLeaseBounds => Sys2Proof.Machine.execSetLeaseBounds s
  | .setPoolThreshold => Sys2Proof.Machine.execSetPoolThreshold s
  | .readCounters => Sys2Proof.Machine.execReadCounters s
  | .unknownCommand => Sys2Proof.Machine.execUnknownCommand s
  | .mailboxAck p => Sys2Proof.Machine.execMailboxAck s p
  | .registerWrite addr data p => Sys2Proof.Machine.execRegisterWrite addr data s p
  | .causeClear target data p => Sys2Proof.Machine.execCauseClear target data s p
  | .maskWrite target data p => Sys2Proof.Machine.execMaskWrite target data s p
  | .frameReceived l ch => Sys2Proof.Machine.execFrameReceived l ch s
  | .lengthByte l ch => Sys2Proof.Machine.execLengthByte l ch s
  | .gapLimitExpiry l idle => Sys2Proof.Machine.execGapLimitExpiry l idle s
  | .breakDetected l low => Sys2Proof.Machine.execBreak l low s
  | .restartStep l => Sys2Proof.Machine.execRestartStep l s
  | .replyFrameStart l idle => Sys2Proof.Machine.execReplyFrameStart l idle s
  | .noticeFrameStart l idle => Sys2Proof.Machine.execNoticeFrameStart l idle s
  | .sessionEndedFrameStart l idle => Sys2Proof.Machine.execSessionEndedFrameStart l idle s
  | .timeCounterAdvance => Sys2Proof.Machine.execTimeCounterAdvance s
  | .posting => Sys2Proof.Machine.execPosting s
  | .leaseExpiry => Sys2Proof.Machine.execLeaseExpiry s
  | .waitExpiry => Sys2Proof.Machine.execWaitExpiry s
  | .endingSweepStep slot => Sys2Proof.Machine.execEndingSweepStep slot s
  | .endingSweepFinalStep slot => Sys2Proof.Machine.execEndingSweepFinalStep slot s
  | .revokeSweepStep n => Sys2Proof.Machine.execRevokeSweepStep n s
  | .revokeSweepFinalStep n => Sys2Proof.Machine.execRevokeSweepFinalStep n s
  | .clearStep => Sys2Proof.Machine.execClearStep s
  | .clearSweepFinalStep => Sys2Proof.Machine.execClearSweepFinalStep s
  | .deviceReset => Sys2Proof.Machine.execDeviceReset s
  | .requestSyncByte l ch => Sys2Proof.Machine.execRequestSyncByte l ch s
  | .bodyCharacter l ch => Sys2Proof.Machine.execBodyCharacter l ch s
  | .frameTransmissionEnd l => Sys2Proof.Machine.execFrameTransmissionEnd l s
  | .breakEnd l high => Sys2Proof.Machine.execBreakEnd l s high

end Sys2Proof.Machine
end

