-- ==== Sys2Proof/Safety.lean ====
section
/-!
DEFINITION. The terms of the claims: when a command's event occurs, what a taken request, a taken command
and a completion leave, the frames ("every other record is as before"), and the invariants.
-/

namespace Sys2Proof.Machine

/-! ### When a command's event occurs -/

/-- The frame `r` is the one the arbiter takes next: it heads the queue of an ACTIVE line that is the
arbiter's choice (R18, R19, R150). -/
abbrev RequestOffered (s : State) (l : LineIx) (r : Request) : Prop :=
  s.arbiterChoice = some (srcLine l) ∧ (s.line l).state = .active ∧
    (s.line l).requests.head? = some r

/-- The frame offered passes the service-state, session and duplicate checks of every kind but OPEN
(R136 checks 1 to 3). -/
abbrev RequestAdmitted (s : State) (l : LineIx) (r : Request) : Prop :=
  RequestOffered s l r ∧ serviceRefusal s.service r = none ∧
    (s.session (slotOf l r.station)).state = .opened ∧
    r.incarnation = (s.session (slotOf l r.station)).incarnation ∧
    isDuplicate (s.session (slotOf l r.station)) r = false

/-- The command with this code is the one the arbiter takes next (R18, R165). -/
abbrev CommandOffered (s : State) (code : Byte) : Prop :=
  s.arbiterChoice = some srcManagement ∧ s.commandCode = code

/-- The next table step is a step of the sweep at this place (R19, R21). -/
abbrev SweepOffered (s : State) (p : SweepIx) : Prop :=
  s.arbiterChoice = some srcSweep ∧ s.sweepChoice = some p

/-- This expiry is the one the arbiter takes next (R121). -/
abbrev ExpiryOffered (s : State) (d : Deadline) : Prop :=
  s.arbiterChoice = some srcDeadline ∧ s.expiries.head? = some d

/-- The command of a request frame of this kind byte on a line (R132, R133). -/
def requestCommand (kind : Byte) (l : LineIx) : Instr :=
  match kind.toNat with
  | 1 => .reqOpen l
  | 2 => .reqClose l
  | 3 => .reqRenew l
  | 4 => .reqAcquire l
  | 5 => .reqRelease l
  | 6 => .reqConvert l
  | 7 => .reqCancel l
  | 8 => .reqQuery l
  | 9 => .reqGroup l
  | _ => .reqUnknownKind l

/-! ### Frames -/

/-- Every lock entry but these is as before. -/
def EntriesSameBut (es : List EntryIx) (s t : State) : Prop := ∀ e, e ∉ es → t.entry e = s.entry e

/-- Every claim record but these is as before. -/
def ClaimsSameBut (cs : List ClaimIx) (s t : State) : Prop := ∀ c, c ∉ cs → t.claim c = s.claim c

/-- Every session record but these is as before. -/
def SessionsSameBut (is : List SlotIx) (s t : State) : Prop :=
  ∀ i, i ∉ is → t.session i = s.session i

/-- Every namespace descriptor but these is as before. -/
def NamespacesSameBut (ns : List NsIx) (s t : State) : Prop := ∀ n, n ∉ ns → t.ns n = s.ns n

/-- Every Line Unit but these is as before. -/
def LinesSameBut (ls : List LineIx) (s t : State) : Prop := ∀ l, l ∉ ls → t.line l = s.line l

/-- Every bucket chain but these is as before. -/
def ChainsSameBut (bs : List BucketIx) (s t : State) : Prop := ∀ b, b ∉ bs → t.chain b = s.chain b

/-- A state differs from another in the records of the tables, the lists between them, the token value,
the two free counts, the causes, the device counters and the arbiter's pointer at most: the time base,
the expiry queue, the mailbox and its bytes, the service state, the settings, the sweep source, the
running clear's counts, the mask and the waiting commands are as before. -/
def HostSideSame (s t : State) : Prop :=
  t = { s with entries := t.entries, chains := t.chains, tokenCounter := t.tokenCounter,
               freeEntryCount := t.freeEntryCount, arbiterLast := t.arbiterLast,
               claims := t.claims, freeList := t.freeList, freeClaimCount := t.freeClaimCount,
               sessions := t.sessions, namespaces := t.namespaces, deadlines := t.deadlines,
               lines := t.lines, deviceCauses := t.deviceCauses, counters := t.counters }

/-- `t` is `s` with line `l` replaced by the given Line Unit. -/
def OnlyLine (s t : State) (l : LineIx) (ln : Line) : Prop :=
  t = { s with lines := t.lines } ∧ t.line l = ln ∧ LinesSameBut [l] s t

/-! ### A host write -/

/-- A data byte written at a window address takes effect: it opens its transaction, or it is the byte that
the WRITE in progress is to write next (R161). -/
abbrev ByteTaken (s : State) (p : SpiPlace) (a : Nat) : Prop := p.first = true ∨ s.spiWrite = some a

/-- `s` with the WRITE in progress moved past a byte at an address: ended, or with the next address
(R161). -/
def spiMoved (s : State) (p : SpiPlace) (a : Nat) : State :=
  { s with spiWrite := if p.last = true then none else some ((a + 1) % 64) }

/-! ### A request from its taking to its answer -/

/-- The deadline of a lease that starts now (R115). -/
def leaseEnd (s : State) (i : SlotIx) : Nat := min (s.time + (s.session i).lease) Config.maxTime

/-- The reply slot of a taken request, with what fills it (R130, R151). -/
def slotFor (r : Request) (content : Option ReplyContent) : ReplySlot :=
  ⟨r.station, r.tag, replyKind r.kind, content⟩

/-- From `s` to `u`: the frame has left the queue, one reply slot is reserved for it, the arbiter's
pointer stands at the line, and nothing else has changed (R19). -/
def FrameTaken (s u : State) (l : LineIx) (r : Request) : Prop :=
  u = { s with arbiterLast := srcLine l, lines := u.lines } ∧
    u.line l = { s.line l with requests := (s.line l).requests.tail,
                               replies := (s.line l).replies ++ [slotFor r none] } ∧
    LinesSameBut [l] s u

/-- From `s` to `u`: the frame is taken and the lease of its session restarted; the session keeps one
LEASE entry, inserted afresh (R75, R118). -/
def RequestBegun (s u : State) (l : LineIx) (r : Request) : Prop :=
  let i := slotOf l r.station
  u = { s with arbiterLast := srcLine l, lines := u.lines, sessions := u.sessions,
               deadlines := insertDeadline ⟨.lease i, leaseEnd s i⟩
                 (s.deadlines.filter (fun d => !refersToLease i d.ref)) } ∧
    u.line l = { s.line l with requests := (s.line l).requests.tail,
                               replies := (s.line l).replies ++ [slotFor r none] } ∧
    LinesSameBut [l] s u ∧
    u.session i = { s.session i with leaseDeadline := some (leaseEnd s i) } ∧
    SessionsSameBut [i] s u

/-- What a reply placed in state `v` carries (R130). -/
def contentOf (v : State) (i : SlotIx) (reply : Reply) : ReplyContent :=
  { incarnation := (v.session i).incarnation, status := reply.status,
    noticeCounter := (v.session i).noticeCounter, payload := reply.payload }

/-- REFUSALS after a newly placed reply (R135). -/
def refusalsAfter (v : State) (reply : Reply) : DeviceCounters :=
  if reply.status = .ok ∨ reply.status = .queued then v.counters
  else { v.counters with refusals := countUp v.counters.refusals }

/-- From `v` to `t`: the slot reserved when the frame was taken in `s` is filled, and nothing else has
changed (R130, R151). -/
def SlotFilled (s v t : State) (l : LineIx) (r : Request) (reply : Reply) : Prop :=
  OnlyLine v t l { v.line l with
    replies := (s.line l).replies ++
      [slotFor r (some (contentOf v (slotOf l r.station) reply))] }

/-- From `v` to `t`: the slot is filled with a newly placed reply, and a refusal is counted; nothing else
has changed (R135). -/
def ReplyPlaced (s v t : State) (l : LineIx) (r : Request) (reply : Reply) : Prop :=
  SlotFilled s { v with counters := refusalsAfter v reply } t l r reply

/-- From `v` to `t`: the reply is placed and cached (R76, R130). -/
def RequestAnswered (s v t : State) (l : LineIx) (r : Request) (reply : Reply) : Prop :=
  let i := slotOf l r.station
  t = { v with lines := t.lines, sessions := t.sessions, counters := refusalsAfter v reply } ∧
    t.line l = { v.line l with
      replies := (s.line l).replies ++ [slotFor r (some (contentOf v i reply))] } ∧
    LinesSameBut [l] v t ∧
    t.session i = { v.session i with cache := ⟨r.tag, r.kind, reply, true⟩ } ∧
    SessionsSameBut [i] v t

/-! ### A management command from its taking to its completion -/

/-- From `v` to `t`: the command completes with a result code and result bytes, those it does not
define reading 0 (R165). -/
def Completed (v t : State) (code : ResultCode) (bytes : List Byte) : Prop :=
  t = { v with mailbox := .done, longCommand := none, resultCode := code, result := t.result,
               deviceCauses := v.deviceCauses ||| 0x01#7 } ∧
    ∀ k : Fin 24, t.result[k] = bytes.getD k.val 0#8

/-- The state in which a taken command runs: the mailbox is marked taken and the pointer stands at the
management port; nothing else has changed (R19, R165). -/
def taken (s : State) : State := { s with mailbox := .busy true, arbiterLast := srcManagement }

/-- The state in which a sweep's step begins (R19, R21). -/
def swept (s : State) (p : SweepIx) : State := { s with arbiterLast := srcSweep, sweepLast := p }

/-- The state in which an expiry is judged: it has left the queue (R19, R121). -/
def expiryTaken (s : State) : State :=
  { s with expiries := s.expiries.tail, arbiterLast := srcDeadline }

/-! ### Grants on request -/

/-- The device causes after a step's take of one claim record and issue of one token: POOL_LOW where the
take crosses the threshold (R26), TOKENS_LOW where the issue crosses 2^48 - 2^20 (R58). -/
def causesAfterGrant (u : State) : BitVec 7 :=
  u.deviceCauses |||
    (if u.poolThreshold ≤ u.freeClaimCount ∧ u.freeClaimCount - 1 < u.poolThreshold then 0x08#7
      else 0#7) |||
    (if u.tokenCounter + 1 = Config.tokensLowMark then 0x40#7 else 0#7)

/-- The record of a claim granted to session `i` in state `u` (R24, R56). -/
def grantedRecord (u : State) (i : SlotIx) (k : Key) (m : Mode) (e : EntryIx) (c : ClaimIx) : Claim :=
  { state := .held, mode := m, entry := e, key := k, session := i, token := u.tokenCounter,
    waitDeadline := none, upgrade := false, notice := none,
    useCount := (u.claim c).useCount + 1 }

/-- From `u` to `v`: the record `c` at the head of the free list is taken as a HELD claim of session `i`
and receives a token; the entries and chains and namespaces apart, nothing else has changed (R24, R26,
R56, R58, R183). -/
def RecordGranted (u v : State) (i : SlotIx) (k : Key) (m : Mode) (e : EntryIx) (c : ClaimIx) : Prop :=
  v = { u with entries := v.entries, chains := v.chains, namespaces := v.namespaces,
               freeEntryCount := v.freeEntryCount, claims := v.claims, sessions := v.sessions,
               freeList := u.freeList.tail, freeClaimCount := u.freeClaimCount - 1,
               tokenCounter := u.tokenCounter + 1, deviceCauses := causesAfterGrant u,
               counters := { u.counters with grants := countUp u.counters.grants } } ∧
    v.claim c = grantedRecord u i k m e c ∧ ClaimsSameBut [c] u v ∧
    v.session i = { u.session i with claimList := (u.session i).claimList ++ [c],
                                     heldCount := (u.session i).heldCount + 1 } ∧
    SessionsSameBut [i] u v

/-- From `u` to `v`: an absent key is granted. The entry `e` is created for it with the claim `c` as its
sole holder (R8, R33, R70). -/
def LockCreated (u v : State) (i : SlotIx) (k : Key) (m : Mode) (e : EntryIx) (c : ClaimIx) : Prop :=
  RecordGranted u v i k m e c ∧
    v.entry e = { occupied := true, key := k, mode := m, holders := [c], waiters := [],
                  upgrade := none, latestToken := u.tokenCounter } ∧
    EntriesSameBut [e] u v ∧
    v.chain (bucketOf k) = u.chain (bucketOf k) ++ [e] ∧ ChainsSameBut [bucketOf k] u v ∧
    v.ns k.ns = { u.ns k.ns with occupied := (u.ns k.ns).occupied + 1 } ∧
    NamespacesSameBut [k.ns] u v ∧ v.freeEntryCount = u.freeEntryCount - 1

/-- From `u` to `v`: a SHARED claim `c` joins the holders of the present entry `e` (R34, R70). -/
def LockJoined (u v : State) (i : SlotIx) (k : Key) (e : EntryIx) (c : ClaimIx) : Prop :=
  RecordGranted u v i k .shared e c ∧
    v.entry e = { u.entry e with holders := (u.entry e).holders ++ [c],
                                 latestToken := u.tokenCounter } ∧
    EntriesSameBut [e] u v ∧ v.chains = u.chains ∧ v.namespaces = u.namespaces ∧
    v.freeEntryCount = u.freeEntryCount

/-- How many waiters from the head of a queue a grant pass admits, from the queue's modes: every one
while the holders are none, or while it and the holders are SHARED and below the sharer limit; an
EXCLUSIVE grant is the last (R38 step 3). -/
def admitted (limit : Nat) : (holders : Nat) → (mode : Mode) → List Mode → Nat
  | _, _, [] => 0
  | 0, _, .exclusive :: _ => 1
  | 0, _, .shared :: rest => 1 + admitted limit 1 .shared rest
  | _ + 1, _, .exclusive :: _ => 0
  | _ + 1, .exclusive, .shared :: _ => 0
  | h + 1, .shared, .shared :: rest =>
    if h + 1 < limit then 1 + admitted limit (h + 2) .shared rest else 0

/-- From `s` to `u`: the WAITING claim `c` at the head of the queue of the entry `e` is granted (R37, R49,
R50, R56, R58, R183). -/
def WaiterGranted (s u : State) (e : EntryIx) (c : ClaimIx) : Prop :=
  let x := s.entry e
  let i := (s.claim c).session
  let ln := s.line (lineOf i)
  u = { s with claims := u.claims, entries := u.entries, sessions := u.sessions, lines := u.lines,
               deadlines := s.deadlines.filter (fun d => !refersToWait c d.ref),
               tokenCounter := s.tokenCounter + 1,
               deviceCauses := s.deviceCauses |||
                 (if s.tokenCounter + 1 = Config.tokensLowMark then 0x40#7 else 0#7),
               counters := { s.counters with grants := countUp s.counters.grants } } ∧
    u.claim c = { s.claim c with
      state := .held, waitDeadline := none, token := s.tokenCounter,
      notice := some (match (s.claim c).notice with
        | none => .granted
        | some p => mergedNotice p .granted) } ∧
    ClaimsSameBut [c] s u ∧
    u.entry e = { x with
      waiters := x.waiters.tail, holders := x.holders ++ [c], latestToken := s.tokenCounter,
      mode := if x.holders = [] then (s.claim c).mode else x.mode } ∧
    EntriesSameBut [e] s u ∧
    u.session i = { s.session i with waitingCount := (s.session i).waitingCount - 1,
                                     heldCount := (s.session i).heldCount + 1 } ∧
    SessionsSameBut [i] s u ∧
    u.line (lineOf i) = { ln with
      notices := if (s.claim c).notice = none then ln.notices ++ [.claim c] else ln.notices } ∧
    LinesSameBut [lineOf i] s u

/-! ### Retirement of an entry -/

/-- From `u` to `v`: the entry `e` is retired. Its fields take their device-reset values, its chain closes
over it, the two counts change, and a DRAINING namespace without a revoke sweep whose count comes to 0
becomes DISABLED with NS_DRAINED (R5, R10, R13, R14, R108). -/
def EntryRetired (u v : State) (e : EntryIx) : Prop :=
  let k := (u.entry e).key
  let x := u.ns k.ns
  let drained := x.state = .draining ∧ x.revokeSweep = false ∧ x.occupied - 1 = 0
  v = { u with entries := v.entries, chains := v.chains, namespaces := v.namespaces,
               freeEntryCount := u.freeEntryCount + 1,
               deviceCauses := u.deviceCauses ||| (if drained then 0x20#7 else 0#7) } ∧
    v.entry e = { occupied := false, key := ⟨0, 0⟩, mode := .shared, holders := [], waiters := [],
                  upgrade := none, latestToken := 0 } ∧
    EntriesSameBut [e] u v ∧
    v.chain (bucketOf k) = (u.chain (bucketOf k)).filter (fun d => d != e) ∧
    ChainsSameBut [bucketOf k] u v ∧
    v.ns k.ns = { x with occupied := x.occupied - 1,
                         state := if drained then .disabled else x.state } ∧
    NamespacesSameBut [k.ns] u v

/-- From `u` to `v`: the waiters of the entry `e` have left its queue in arrival order. A claim of an OPEN
session is DETACHED with a WAIT_EXPIRED notice at the tail of its line's list, any other is freed without
one, and no WAIT entry of them is left (R11, R25, R30, R44). -/
def WaitersLeave (u v : State) (e : EntryIx) : Prop :=
  let cs := (u.entry e).waiters
  let told (c : ClaimIx) : Bool := (u.session (u.claim c).session).state == .opened
  v = { u with claims := v.claims, entries := v.entries, sessions := v.sessions, lines := v.lines,
               deadlines := u.deadlines.filter (fun d => cs.all (fun c => !refersToWait c d.ref)),
               freeList := u.freeList ++ cs.filter (fun c => !told c),
               freeClaimCount := u.freeClaimCount + cs.countP (fun c => !told c) } ∧
    (∀ c ∈ cs, v.claim c =
      if told c then
        { u.claim c with state := .detached, upgrade := false, waitDeadline := none,
                         notice := some .waitExpired }
      else { Claim.reset with useCount := (u.claim c).useCount }) ∧
    ClaimsSameBut cs u v ∧
    v.entry e = { u.entry e with waiters := [] } ∧ EntriesSameBut [e] u v ∧
    (∀ i, v.session i = { u.session i with
      waitingCount := (u.session i).waitingCount - cs.countP (fun c => (u.claim c).session == i),
      claimList := (u.session i).claimList.filter (fun c =>
        !(cs.contains c && (u.claim c).session == i && !told c)) }) ∧
    ∀ l, v.line l = { u.line l with
      notices := (u.line l).notices ++
        (cs.filter (fun c => told c && lineOf (u.claim c).session == l)).map .claim }

/-! ### Checks of the requests, and a descriptor as bytes -/

/-- The checks of an ACQUIRE up to the bracket are passed: a well-formed payload with these fields, an
ENABLED namespace, and a ring within the limit of the mode. -/
abbrev AcquirePasses (s : State) (i : SlotIx) (r : Request) (f : AcquireFields) : Prop :=
  acquirePayload r.payload = some f ∧ (s.ns f.key.ns).state = .enabled ∧
    (s.session i).ring ≤ (match f.mode with
      | .shared => (s.ns f.key.ns).rules.sharedLimit
      | .exclusive => (s.ns f.key.ns).rules.exclusiveLimit)

/-- An ACQUIRE of a mode is not grantable at once on a present entry (R32). -/
abbrev NotGrantableNow (s : State) (e : EntryIx) (m : Mode) : Prop :=
  ¬ (m = .shared ∧ (s.entry e).mode = .shared ∧ (s.entry e).upgrade = none ∧
    (s.entry e).waiters = [] ∧
    (s.entry e).holders.length < (s.ns (s.entry e).key.ns).rules.sharerLimit)

/-- Element `k` of a GROUP payload, counted from 0, names a namespace of 0 to 15 and a mode of 1 or 2 (R67
check 2, Table 11.3). -/
abbrev ElementInRange (p : List Byte) (k : Nat) : Prop :=
  (p.getD (1 + 6 * k) 0#8).toNat < 16 ∧ (p.getD (6 + 6 * k) 0#8 = 1#8 ∨ p.getD (6 + 6 * k) 0#8 = 2#8)

/-- Elements `j` and `k` of a GROUP payload have the same namespace and name (R67 check 3). -/
abbrev SameKeyAt (p : List Byte) (j k : Nat) : Prop :=
  (p.drop (1 + 6 * j)).take 5 = (p.drop (1 + 6 * k)).take 5

/-- `el` is element `k` of a GROUP payload: its namespace, name and mode bytes (Table 11.3). -/
def ElementAt (p : List Byte) (k : Nat) (el : GroupElement) : Prop :=
  el.key.ns.val = (p.getD (1 + 6 * k) 0#8).toNat ∧
    el.key.name = BitVec.ofNat 32 (beNat ((p.drop (2 + 6 * k)).take 4)) ∧
    p.getD (6 + 6 * k) 0#8 = match el.mode with
      | .shared => 1#8
      | .exclusive => 2#8

/-- An element of a group of session `i` fails the first of these checks, in this order, with its status:
namespace state, bracket, own claim, grantability (R68). -/
def ElementFails (s : State) (i : SlotIx) (el : GroupElement) (st : Status) : Prop :=
  let ns := s.ns el.key.ns
  let limit := match el.mode with
    | .shared => ns.rules.sharedLimit
    | .exclusive => ns.rules.exclusiveLimit
  (ns.state ≠ .enabled ∧ st = .nsDisabled) ∨
    (ns.state = .enabled ∧ limit < (s.session i).ring ∧ st = .accessDenied) ∨
    (ns.state = .enabled ∧ (s.session i).ring ≤ limit ∧ ∃ e, s.lookup el.key = some e ∧
      ((s.ownClaim e i ≠ .none ∧ st = .alreadyClaimed) ∨
        (s.ownClaim e i = .none ∧ NotGrantableNow s e el.mode ∧ st = .notAvailable)))

/-- The checks of a CONVERT up to its own claim are passed (R59, R100, R101): a well-formed payload with
these fields; towards EXCLUSIVE an ENABLED namespace and a ring within its exclusive limit, towards
SHARED a namespace that is not DISABLED; and the session holds the claim `c`. -/
abbrev ConvertPasses (s : State) (i : SlotIx) (r : Request) (f : AcquireFields) (c : ClaimIx) : Prop :=
  acquirePayload r.payload = some f ∧
    (f.mode = .exclusive → (s.ns f.key.ns).state = .enabled ∧
      (s.session i).ring ≤ (s.ns f.key.ns).rules.exclusiveLimit) ∧
    (f.mode = .shared → (s.ns f.key.ns).state ≠ .disabled) ∧
    (s.ownClaimOn f.key i = .held c ∨ s.ownClaimOn f.key i = .upgrading c)

/-- The descriptor bytes of a namespace command's result (R103, R189). -/
def descriptorBytes (x : Namespace) : List Byte :=
  [match x.state with
    | .disabled => 0#8
    | .enabled => 1#8
    | .draining => 2#8,
   byteOf x.rules.exclusiveLimit, byteOf x.rules.sharedLimit, byteOf x.rules.queryLimit,
   byteOf x.rules.sharerLimit, byteOf x.rules.queueLimit] ++ beBytes 2 x.rules.quota ++
    beBytes 2 x.occupied

/-! ### Invariants -/

/-- No queue holds more than it has room for (R121, R150, R151). -/
def QueuesBounded (s : State) : Prop :=
  s.expiries.length ≤ 8 ∧
    ∀ l, (s.line l).requests.length ≤ 4 ∧ (s.line l).replies.length ≤ 4

/-- Every setting lies in the range the spec gives it: lease bounds (R116), pool threshold (R26), line
configurations (R144) and namespace rules (R98). -/
def SettingsInRange (s : State) : Prop :=
  50 ≤ s.leaseMin ∧ s.leaseMin ≤ s.leaseMax ∧ s.leaseMax ≤ 65535 ∧ s.poolThreshold ≤ 4096 ∧
    (∀ l, let c := (s.line l).config
      1 ≤ c.divisor ∧ c.divisor ≤ 65535 ∧ 1 ≤ c.turnaround ∧ c.turnaround ≤ 16 ∧
        2 ≤ c.gapLimit ∧ c.gapLimit ≤ 32 ∧ 1 ≤ c.ringFloor ∧ c.ringFloor ≤ 7) ∧
    ∀ n, let x := (s.ns n).rules
      1 ≤ x.exclusiveLimit ∧ x.exclusiveLimit ≤ x.sharedLimit ∧ x.sharedLimit ≤ x.queryLimit ∧
        x.queryLimit ≤ 7 ∧ 1 ≤ x.sharerLimit ∧ x.sharerLimit ≤ 16 ∧ x.queueLimit ≤ 32 ∧
        1 ≤ x.quota ∧ x.quota ≤ 2048

/-- The deadline list is ordered by time, and no time lies beyond the counter's last value (R114,
R117). -/
def DeadlinesOrdered (s : State) : Prop :=
  s.deadlines.Pairwise (fun a b => a.time ≤ b.time) ∧ s.time ≤ Config.maxTime ∧
    (∀ d ∈ s.deadlines, d.time ≤ Config.maxTime) ∧ ∀ d ∈ s.expiries, d.time ≤ Config.maxTime

/-- The token counter holds a 48-bit value, is loaded whenever service is not HALTED, and is not 0 once
loaded (R54); and the clear sweep, whose end starts the service again, is active only in CLEARING
(R168). -/
def TokenCounterLaw (s : State) : Prop :=
  s.tokenCounter ≤ Config.tokenExhausted ∧ (s.service ≠ .halted → s.tokenLoaded = true) ∧
    (s.tokenLoaded = true → s.tokenCounter ≠ 0) ∧ (s.clearSweep = true → s.service = .clearing)

/-- The free claim count is the length of the free list (R24, R26). -/
def FreeCountMatches (s : State) : Prop := s.freeClaimCount = s.freeList.length

/-- The laws of the lock table, the claim pool and the claim lists.

- Each chain lists the occupied entries of its bucket, once each (R5), and no two occupied entries have one
  key (R6, R7).
- A free entry holds its device-reset values (R1). An occupied one has a holder, an EXCLUSIVE one exactly one
  (R12), and its pending upgrade is one of them (R28).
- The occupied counts and the free entry count are the numbers of such entries (R13, R14).
- Each claim record is in exactly one place, the one its state names (R27): a WAITING one has no notice, and
  a DETACHED one has one. It is on its own session's claim list alone (R30).
- The held and waiting counts are those of the claim list (R30). A session in IDLE or ENDED has no claims,
  and only an ENDING one has an ending sweep (R73, R86).
- A SESSION_ENDED item stands once, on its own line's list, for a session that is ENDED (R91, R94). -/
structure LockTableLaws (s : State) : Prop where
  chains : ∀ b e, e ∈ s.chain b ↔ (s.entry e).occupied = true ∧ bucketOf (s.entry e).key = b
  chainsOnce : ∀ b, (s.chain b).Nodup
  keysDiffer : ∀ e f, (s.entry e).occupied = true → (s.entry f).occupied = true →
    (s.entry e).key = (s.entry f).key → e = f
  freeEntry : ∀ e, (s.entry e).occupied = false → s.entry e = Entry.reset
  hasHolder : ∀ e, (s.entry e).occupied = true → (s.entry e).holders ≠ []
  soleHolder : ∀ e, (s.entry e).occupied = true → (s.entry e).mode = .exclusive →
    (s.entry e).holders.length = 1
  upgradeHolds : ∀ e c, (s.entry e).upgrade = some c → c ∈ (s.entry e).holders
  occupiedCount : ∀ n, (s.ns n).occupied =
    s.entries.toList.countP (fun x => x.occupied && x.key.ns == n)
  freeCount : s.freeEntryCount = s.freeEntries
  freeList : s.freeList.Nodup ∧ ∀ c, c ∈ s.freeList ↔ (s.claim c).state = .free
  holders : ∀ e, (s.entry e).holders.Nodup ∧
    ∀ c, c ∈ (s.entry e).holders ↔ (s.claim c).state = .held ∧ (s.claim c).entry = e
  waiters : ∀ e, (s.entry e).waiters.Nodup ∧
    ∀ c, c ∈ (s.entry e).waiters ↔ (s.claim c).state = .waiting ∧ (s.claim c).entry = e
  notice : ∀ c, ((s.claim c).state = .waiting → (s.claim c).notice = none) ∧
    ((s.claim c).state = .detached → (s.claim c).notice ≠ none)
  claimList : ∀ i, (s.session i).claimList.Nodup ∧
    ∀ c, c ∈ (s.session i).claimList ↔ (s.claim c).state ≠ .free ∧ (s.claim c).session = i
  counts : ∀ i,
    (s.session i).heldCount =
      (s.session i).claimList.countP (fun c => (s.claim c).state == .held) ∧
    (s.session i).waitingCount =
      (s.session i).claimList.countP (fun c => (s.claim c).state == .waiting)
  noClaims : ∀ i, (s.session i).state = .idle ∨ (s.session i).state = .ended →
    (s.session i).claimList = []
  sweeps : ∀ i, (s.session i).endingSweep ≠ .inactive → (s.session i).state = .ending
  endedItem : ∀ l i, (s.line l).notices.count (.sessionEnded i) ≤ 1 ∧
    (.sessionEnded i ∈ (s.line l).notices → l = lineOf i ∧ (s.session i).state = .ended)

/-- A long command is in progress exactly while the mailbox is BUSY and taken, and the clear sweep is
active exactly while service is CLEARING (R164, R165, R168, R170). -/
def LongCommandLaw (s : State) : Prop :=
  (s.longCommand ≠ none ↔ s.mailbox = .busy true) ∧ (s.service = .clearing ↔ s.clearSweep = true)

/-! ### Restart of a line -/

/-- The DETACHED claims whose notices stand on a line's list, in list order. -/
def detachedOn (s : State) (l : LineIx) : List ClaimIx :=
  (s.line l).notices.filterMap (fun it => match it with
    | .claim c => if (s.claim c).state = .detached then some c else none
    | .sessionEnded _ => none)

/-- From `s` to `v`: the items of line `l` have been let go and its sessions restarted, in every session and
claim record, in the free list and in the deadline list (R86, R93, R95, R119, R155 steps 4 and 5, R156).

- A DETACHED claim with an item on the list is freed, and any other one with an item has no notice any more.
- An OPEN session of the line is ENDING with the end cause, and has its notice suppressed if `suppress` says
  so; its LEASE entry is gone. One that is ENDING has its notice suppressed and no close reply. An ENDED one
  with an item is IDLE.
- Every claim list loses the freed claims, and a WAIT entry of one of those is gone.
- Where the line's items are its own sessions', the sessions of other lines, and those in IDLE, are as
  before. -/
def LineRestarted (s v : State) (l : LineIx) (cause : EndCause) (suppress : Bool) : Prop :=
  let items := (s.line l).notices
  let gone := detachedOn s l
  let listOf (j : SlotIx) := (s.session j).claimList.filter
    (fun c => !(gone.contains c && (s.claim c).session == j))
  (∀ c, v.claim c =
    if c ∈ gone then { Claim.reset with useCount := (s.claim c).useCount }
    else if .claim c ∈ items then { s.claim c with notice := none }
    else s.claim c) ∧
  (∀ j, let x := s.session j
    (lineOf j = l → x.state = .opened → v.session j = { x with
      state := .ending, endCause := cause, leaseDeadline := none, cache := { x.cache with valid := false },
      endingSweep := .starting, noticeSuppressed := suppress || x.noticeSuppressed,
      claimList := listOf j }) ∧
    (lineOf j = l → x.state = .ending → v.session j = { x with
      noticeSuppressed := true, closeReply := false, claimList := listOf j }) ∧
    (x.state = .ended → v.session j = { x with
      state := if .sessionEnded j ∈ items then .idle else .ended, claimList := listOf j }) ∧
    (x.state = .idle → v.session j = { x with claimList := listOf j }) ∧
    (lineOf j ≠ l → x.state ≠ .ended → v.session j = { x with claimList := listOf j })) ∧
  v.deadlines = s.deadlines.filter (fun d => match d.ref with
    | .lease j => !(lineOf j == l && (s.session j).state == .opened)
    | .wait c _ => !gone.contains c) ∧
  (items.Nodup →
    v.freeList = s.freeList ++ gone ∧ v.freeClaimCount = s.freeClaimCount + gone.length) ∧
  (LockTableLaws s → (∀ c, .claim c ∈ items → lineOf (s.claim c).session = l) →
    ∀ j, lineOf j ≠ l ∨ (s.session j).state = .idle → v.session j = s.session j)

/-! ### A step of the clear sweep -/

/-- From `s`, which keeps the laws of the lock table, to `t`: a clear step has ended session `i` in every
table and list (R13, R14, R17, R50, R53, R96, R108, R119, R169).

- An entry whose every holder was the session's is emptied: it is retired, and its chain closes over it. The
  others lose the session's claims alone.
- The session's claims and the waiters of the emptied entries are freed, and leave their claim lists. They
  join the tail of the free list. Where the session has one claim at most on each lock, its claims come in
  claim-list order, and after one that was its entry's only holder come that entry's waiters in arrival order.
- The counts are those of what is left. A DRAINING namespace without a revoke sweep whose count comes to 0 is
  DISABLED with NS_DRAINED, and no other cause is raised.
- The deadline list loses the session's LEASE entry and the WAIT entries of the freed claims. The notice lists
  lose the session's SESSION_ENDED item and the items of the freed claims, each of which stands on its
  session's line. All other items and entries stay in order. -/
def SessionCleared (s t : State) (i : SlotIx) : Prop :=
  let x := s.session i
  let left (e : EntryIx) : List ClaimIx :=
    (s.entry e).holders.filter (fun c => !x.claimList.contains c)
  let emptied (e : EntryIx) : Prop := (s.entry e).occupied = true ∧ left e = []
  let freed (c : ClaimIx) : Prop := c ∈ x.claimList ∨
    ((s.claim c).state = .waiting ∧ emptied (s.claim c).entry)
  let onLock (c : ClaimIx) : Prop := (s.claim c).state = .held ∨ (s.claim c).state = .waiting
  let gone (c : ClaimIx) : Bool := (s.claim c).state != .free && (t.claim c).state == .free
  let drained (n : NsIx) : Prop := (s.ns n).state = .draining ∧ (s.ns n).revokeSweep = false ∧
    (s.ns n).occupied ≠ 0 ∧ (t.ns n).occupied = 0
  (t.session i).claimList = [] ∧ (t.session i).heldCount = 0 ∧ (t.session i).waitingCount = 0 ∧
  (∀ e, emptied e → t.entry e = Entry.reset) ∧
  (∀ e, ¬ emptied e → t.entry e = { s.entry e with
    holders := left e,
    waiters := (s.entry e).waiters.filter (fun c => !x.claimList.contains c),
    upgrade := (s.entry e).upgrade.filter (fun c => !x.claimList.contains c) }) ∧
  (∀ b, t.chain b = (s.chain b).filter (fun e => (t.entry e).occupied)) ∧
  (∀ c, freed c → t.claim c = { Claim.reset with useCount := (s.claim c).useCount }) ∧
  (∀ c, ¬ freed c → t.claim c = s.claim c) ∧
  (∀ j, (t.session j).claimList =
      (s.session j).claimList.filter (fun c => (t.claim c).state != .free) ∧
    (t.session j).heldCount =
      (t.session j).claimList.countP (fun c => (t.claim c).state == .held) ∧
    (t.session j).waitingCount =
      (t.session j).claimList.countP (fun c => (t.claim c).state == .waiting)) ∧
  (∃ order, t.freeList = s.freeList ++ order ∧ order.Nodup ∧ (∀ c, c ∈ order ↔ gone c = true) ∧
    t.freeClaimCount = s.freeClaimCount + order.length ∧
    ((∀ c ∈ x.claimList, ∀ d ∈ x.claimList, onLock c → onLock d →
        (s.claim c).entry = (s.claim d).entry → c = d) →
      order = x.claimList.flatMap (fun c =>
        c :: if (s.claim c).state = .held ∧ (s.entry (s.claim c).entry).holders = [c] then
          (s.entry (s.claim c).entry).waiters else []))) ∧
  t.freeEntryCount = t.entries.toList.countP (fun y => !y.occupied) ∧
  (∀ n,
    (drained n → t.ns n = { s.ns n with occupied := 0, state := .disabled }) ∧
    (¬ drained n → t.ns n = { s.ns n with
      occupied := t.entries.toList.countP (fun y => y.occupied && y.key.ns == n) })) ∧
  ((∃ n, drained n) → t.deviceCauses = s.deviceCauses ||| 0x20#7) ∧
  ((∀ n, ¬ drained n) → t.deviceCauses = s.deviceCauses) ∧
  t.deadlines = s.deadlines.filter (fun d => match d.ref with
    | .lease j => j != i
    | .wait c _ => !gone c) ∧
  ∀ l, (t.line l).notices = (s.line l).notices.filter (fun it => match it with
    | .claim c => !(gone c && (s.claim c).notice != none && lineOf (s.claim c).session == l)
    | .sessionEnded j => j != i)

end Sys2Proof.Machine
end

