-- ==== Sys2Proof/Certificates/Slice0/Obligations.lean ====
section
/-!
DEFINITION. The statements for the provers, chapter by chapter. Where a statement gives a command's result
it says that `exec` answers a next state and what that state holds; the frames say what stays.
-/

open Sys2Proof Sys2Proof.Machine

/-! ### The queue of commands -/

/-- The model's own rule (notes/assumptions/1.md): a step takes the command at the front of the queue
and runs it with the queue's rest. With an empty queue the block idles. -/
def Obligations.StepRunsTheFrontCommand : Prop :=
  (∀ (c : Instr) (rest : List Instr) (s : State),
    step { s with pending := c :: rest } = exec c { s with pending := rest }) ∧
  ∀ s : State, s.pending = [] → step s = .next s

/-- Every command answers a next state in every state, and leaves the waiting commands alone. Both clauses
rest on the model's choices: that the waiting commands are kept, by DEVICE_RESET too, is
notes/assumptions/1.md, and that a command whose event cannot occur goes on too is
notes/assumptions/2.md. -/
def Obligations.EveryCommandGoesOnAndLeavesTheQueue : Prop :=
  ∀ (c : Instr) (s : State), ∃ t, exec c s = .next t ∧ t.pending = s.pending

/-! ### Device reset -/

/-- R16: what device reset leaves of the lock table and its arbiter. R52: what it leaves of the claim pool
and of the lists a claim stands in. -/
def Obligations.DeviceResetEmptiesTheTables : Prop :=
  (∀ s : State, ∃ t, exec .deviceReset s = .next t ∧
     (∀ e, t.entry e =
       { occupied := false, key := ⟨0, 0⟩, mode := .shared, holders := [], waiters := [],
         upgrade := none, latestToken := 0 }) ∧
     (∀ e, t.chainLink e = none) ∧ (∀ b, t.bucketHead b = none) ∧
     (∀ n, (t.ns n).occupied = 0) ∧ t.freeEntryCount = 2048 ∧
     t.arbiterLast = srcSweep ∧ t.sweepLast = sweepClear ∧
     t.tokenCounter = 0 ∧ t.tokenLoaded = false) ∧
  ∀ s : State, ∃ t, exec .deviceReset s = .next t ∧
    (∀ c, t.claim c =
      { state := .free, mode := .shared, entry := 0, key := ⟨0, 0⟩, session := 0, token := 0,
        waitDeadline := none, upgrade := false, notice := none, useCount := 0 }) ∧
    t.freeList.map (fun c => c.val) = List.range 4096 ∧ t.freeClaimCount = 4096 ∧
    (∀ i, (t.session i).claimList = [] ∧ (t.session i).heldCount = 0 ∧
      (t.session i).waitingCount = 0) ∧
    ∀ l, (t.line l).notices = []

/-- R97, R113, R126, R160, R178, R185: what device reset leaves of every other block, a SPI transaction in
progress being ended; the break hold and the two sweep counts, which those rules do not list, rest on
notes/assumptions/9.md and 21.md. -/
def Obligations.DeviceResetValuesOfTheOtherBlocks : Prop :=
  ∀ s : State, ∃ t, exec .deviceReset s = .next t ∧
    (∀ i, t.session i =
      { state := .idle, incarnation := 0, ring := 7, lease := 0, leaseDeadline := none,
        heldCount := 0, waitingCount := 0, claimList := [],
        cache := ⟨0, 0, ⟨.ok, []⟩, false⟩, noticeCounter := 0, endCause := .none,
        noticeSuppressed := false, closeReply := false, endingSweep := .inactive }) ∧
    (∀ n, t.ns n =
      { state := .disabled, rules := ⟨1, 1, 1, 8, 8, 2048⟩, occupied := 0, revokeSweep := false,
        scanIndex := 0, sweepEntries := 0, sweepClaims := 0 }) ∧
    t.divider = 0 ∧ t.time = 0 ∧ t.deadlines = [] ∧ t.expiries = [] ∧
    (∀ l, t.line l =
      { config := ⟨13, .none, .full, 2, 8, 7, .ignore⟩, state := .disabled,
        restartEnd := .active, restartStepPending := false, assembler := .hunt, requests := [],
        replies := [], notices := [], transmitting := none, breakHold := .clear,
        counters := ⟨0, 0, 0, 0, 0, 0, 0, 0⟩, causes := 0#3, masks := 7#3 }) ∧
    t.service = .halted ∧ t.mailbox = .idle ∧ t.commandCode = 0 ∧ t.resultCode = .ok ∧
    (∀ k : Fin 20, t.params[k] = 0) ∧ (∀ k : Fin 24, t.result[k] = 0) ∧ t.spiWrite = none ∧
    t.leaseMin = 200 ∧ t.leaseMax = 30000 ∧ t.poolThreshold = 256 ∧
    t.deviceCauses = 0#7 ∧ t.deviceMask = 0x7F#7 ∧ t.counters = ⟨0, 0, 0, 0, 0⟩ ∧
    t.clearSweep = false ∧ t.attnAsserted = false ∧
    t.window = [0x71, 0x00, 0x00, 0x7F, 0x70, 0x70, 0x70, 0x70, 0x70, 0x70, 0x00, 0xC8, 0x75, 0x30,
      0x01, 0x00, 0x10, 0x00, 0x08, 0x00] ++ List.replicate 44 0

/-! ### Keys and frames as numbers -/

/-- R4: the bucket of a key. -/
def Obligations.BucketOfAKey : Prop :=
  (∀ (n : NsIx) (name : LockName), (bucketOf ⟨n, name⟩).val =
    ((name ^^^ (name >>> 9) ^^^ (name >>> 18) ^^^ (name >>> 27)).toNat + 37 * n.val) % 512) ∧
  (∀ (n : NsIx) (a b : LockName),
    (a ^^^ (a >>> 9) ^^^ (a >>> 18) ^^^ (a >>> 27)).setWidth 9 =
      (b ^^^ (b >>> 9) ^^^ (b >>> 18) ^^^ (b >>> 27)).setWidth 9 →
    bucketOf ⟨n, a⟩ = bucketOf ⟨n, b⟩) ∧
  (∀ (n m : NsIx) (name : LockName), m.val = n.val + 1 →
    (bucketOf ⟨m, name⟩).val = ((bucketOf ⟨n, name⟩).val + 37) % 512) ∧
  bucketOf ⟨3, 0x12345678⟩ = 331 ∧ bucketOf ⟨15, 0xFFFFFFFF⟩ = 11

/-- R187: the CRC ends at 0 for exactly the frames whose two CRC bytes are the computed ones, and the
check value of the spec is met. -/
def Obligations.CrcOfAFrameEndsAtZero : Prop :=
  (∀ (bytes : List Byte) (hi lo : Byte),
    crcOf (bytes ++ [hi, lo]) = 0#16 ↔ crcBytes bytes = [hi, lo]) ∧
  crcOf [0x31, 0x32, 0x33, 0x34, 0x35, 0x36, 0x37, 0x38, 0x39] = 0x29B1#16

/-! ### The register window -/

/-- R164: writes of the command code byte, by REGISTER_WRITE and by MAILBOX_ACK. Nothing else changes but the
place of the WRITE in progress, so the result code and result bytes keep their values. That the byte comes
with its place in its transaction is the model's choice (notes/assumptions/7.md). -/
def Obligations.CommandCodeWritesMoveTheMailbox : Prop :=
  ∀ (s : State) (p : SpiPlace) (addr data : Byte), addr.toNat % 64 = 0 → ByteTaken s p 0 →
    (data ≠ 0xFF#8 → s.mailbox = .idle → exec (.registerWrite addr data p) s =
      .next { spiMoved s p 0 with commandCode := data, mailbox := .busy false }) ∧
    (data ≠ 0xFF#8 → s.mailbox ≠ .idle → exec (.registerWrite addr data p) s =
      .next { spiMoved s p 0 with deviceCauses := s.deviceCauses ||| 0x02#7 }) ∧
    (s.mailbox = .done → exec (.mailboxAck p) s = .next { spiMoved s p 0 with mailbox := .idle }) ∧
    (s.mailbox ≠ .done → exec (.mailboxAck p) s =
      .next { spiMoved s p 0 with deviceCauses := s.deviceCauses ||| 0x02#7 }) ∧
    s.window.head? = some 0x71#8

/-- R161, R162, R178, R188: a parameter byte is written as given, and a byte that ignores writes changes no
other byte. Data byte k of a SPI WRITE goes to the address k places on, wrapping from 63 to 0, the first
opening the transaction and the last ending it; every other transaction writes nothing. A later byte of no
WRITE in progress changes nothing, whatever its address, and so none of a transaction that a device reset
ended. MISO has no level while CS_N is negated, and shifts out the window during a READ. A SPI transaction as
the list of its byte writes is the model's choice (notes/assumptions/7.md). -/
def Obligations.WritesReachTheirWindowBytes : Prop :=
  (∀ (s : State) (p : SpiPlace) (addr data : Byte), ByteTaken s p (addr.toNat % 64) →
     (∀ k : Fin 20, addr.toNat % 64 = 0x14 + k.val → ∃ t,
       exec (.registerWrite addr data p) s = .next t ∧
         t = { spiMoved s p (addr.toNat % 64) with params := t.params } ∧
         t.params[k] = data ∧ ∀ j : Fin 20, j ≠ k → t.params[j] = s.params[j]) ∧
     ((addr.toNat % 64 = 0x01 ∨ (0x0A ≤ addr.toNat % 64 ∧ addr.toNat % 64 ≤ 0x13) ∨
         0x28 ≤ addr.toNat % 64) →
       exec (.registerWrite addr data p) s = .next (spiMoved s p (addr.toNat % 64)))) ∧
  (∀ (s : State) (p : SpiPlace), p.first = false →
     (∀ addr data : Byte, s.spiWrite ≠ some (addr.toNat % 64) →
       exec (.registerWrite addr data p) s = .next s) ∧
     (s.spiWrite ≠ some 0 → exec (.mailboxAck p) s = .next s) ∧
     (∀ data, s.spiWrite ≠ some 2 → exec (.causeClear .device data p) s = .next s) ∧
     (∀ data, s.spiWrite ≠ some 3 → exec (.maskWrite .device data p) s = .next s) ∧
     ∀ (l : LineIx) (data : Byte), s.spiWrite ≠ some (4 + l.val) →
       exec (.causeClear (.line l) data p) s = .next s ∧
         exec (.maskWrite (.line l) data p) s = .next s) ∧
  (∀ s t : State, exec .deviceReset s = .next t → ∀ a, t.spiWrite ≠ some a) ∧
  (∀ (addr : Byte) (data : List Byte) (k : Nat),
    let reached := (addr.toNat % 64 + k) % 64
    (spiWrites (0x02#8 :: addr :: data))[k]? = (data[k]?).map (fun b => (reached, b)) ∧
    (spiCommands (0x02#8 :: addr :: data))[k]? = (data[k]?).map (fun b =>
      writeCommand ⟨decide (k = 0), decide (k + 1 = data.length)⟩ (reached, b))) ∧
  (∀ bytes : List Byte, bytes.head? ≠ some 0x02#8 ∨ bytes.length < 2 →
    spiWrites bytes = [] ∧ spiCommands bytes = []) ∧
  ∀ (s : State) (k : Nat), s.miso none k = none ∧
    ∀ (addr : Byte) (data : List Byte), k < data.length →
      s.miso (some (0x0B#8 :: addr :: data)) (k + 2) =
        s.window[(addr.toNat % 64 + k) % 64]?

/-- R181, R182: a write of a cause byte clears the causes written 1, a write of a mask byte sets the
masks as given, a line byte does both, and ATTN_N is asserted while an unmasked cause is set. That both
rows have both effects on a line byte, and that a byte comes with its place in its transaction, are the
model's choices (notes/assumptions/18.md, 7.md). -/
def Obligations.CauseAndMaskWrites : Prop :=
  (∀ (s : State) (p : SpiPlace) (data : Byte),
    (ByteTaken s p 2 → ∃ t, exec (.causeClear .device data p) s = .next t ∧
      t = { spiMoved s p 2 with deviceCauses := t.deviceCauses } ∧
      ∀ k, k < 7 → t.deviceCauses.getLsbD k = (s.deviceCauses.getLsbD k && !data.getLsbD k)) ∧
    (ByteTaken s p 3 → ∃ t, exec (.maskWrite .device data p) s = .next t ∧
      t = { spiMoved s p 3 with deviceMask := t.deviceMask } ∧
      ∀ k, k < 7 → t.deviceMask.getLsbD k = data.getLsbD k)) ∧
  (∀ (s : State) (p : SpiPlace) (l : LineIx) (data : Byte) (c : Instr),
    c = .causeClear (.line l) data p ∨ c = .maskWrite (.line l) data p → ByteTaken s p (4 + l.val) →
    ∃ t, exec c s = .next t ∧
      OnlyLine (spiMoved s p (4 + l.val)) t l
        { s.line l with causes := (t.line l).causes, masks := (t.line l).masks } ∧
      ∀ k, k < 3 →
        (t.line l).causes.getLsbD k = ((s.line l).causes.getLsbD k && !data.getLsbD k) ∧
        (t.line l).masks.getLsbD k = data.getLsbD (k + 4)) ∧
  ∀ s : State, s.attnAsserted = true ↔
    (∃ k, k < 7 ∧ s.deviceCauses.getLsbD k = true ∧ s.deviceMask.getLsbD k = false) ∨
    ∃ l k, k < 3 ∧ (s.line l).causes.getLsbD k = true ∧ (s.line l).masks.getLsbD k = false

/-- R181: a cause that is set stays set through every command but device reset and a host write of its
own byte. -/
def Obligations.CausesStaySetUntilTheHostClearsThem : Prop :=
  ∀ (c : Instr) (s t : State), c.wellFormed = true → exec c s = .next t → c ≠ .deviceReset →
    (∀ k, (∀ p data, c ≠ .causeClear .device data p) →
      s.deviceCauses.getLsbD k = true → t.deviceCauses.getLsbD k = true) ∧
    ∀ l k, (∀ p data, c ≠ .causeClear (.line l) data p ∧ c ≠ .maskWrite (.line l) data p) →
      (s.line l).causes.getLsbD k = true → (t.line l).causes.getLsbD k = true

/-! ### Serial lines -/

/-- R147, R148: a character in HUNT, LENGTH and BODY, and the gap limit. A character that does not reach
the assembler is discarded. -/
def Obligations.FrameAssembly : Prop :=
  ∀ (s : State) (l : LineIx) (ch : RxChar),
    let ln := s.line l
    let marked := errorMark ln.config.parity ch
    (ln.hears = true → ln.assembler = .hunt →
      ∃ t, exec (.requestSyncByte l ch) s = .next t ∧ OnlyLine s t l
        { ln with assembler := if ch.data = 0xA5#8 ∧ marked = false then .length else .hunt }) ∧
    (ln.hears = true → ln.assembler = .length →
      ∃ t, exec (.lengthByte l ch) s = .next t ∧ OnlyLine s t l
        (if marked = true then
          { ln with assembler := .hunt, causes := ln.causes ||| 1#3,
                    counters := { ln.counters with charError := countUp ln.counters.charError } }
        else if ch.data.toNat < 4 ∨ 44 < ch.data.toNat then
          { ln with assembler := .hunt, causes := ln.causes ||| 2#3,
                    counters := { ln.counters with badLength := countUp ln.counters.badLength } }
        else { ln with assembler := .body ch.data.toNat [] false })) ∧
    (∀ (n : Nat) (bytes : List Byte) (bad : Bool),
      ln.hears = true → ln.assembler = .body n bytes bad → bytes.length + 1 < n + 2 →
      ∃ t, exec (.bodyCharacter l ch) s = .next t ∧ OnlyLine s t l
        { ln with assembler := .body n (bytes ++ [ch.data]) (bad || marked) }) ∧
    (∀ idle : Nat, ln.state = .active → ln.assembler ≠ .hunt →
      ln.config.gapLimit * characterTime ln.config < idle →
      ∃ t, exec (.gapLimitExpiry l idle) s = .next t ∧ OnlyLine s t l
        { ln with assembler := .hunt, causes := ln.causes ||| 2#3,
                  counters := { ln.counters with truncated := countUp ln.counters.truncated } }) ∧
    (ln.hears = false →
      exec (.requestSyncByte l ch) s = .next s ∧ exec (.lengthByte l ch) s = .next s ∧
        exec (.bodyCharacter l ch) s = .next s ∧ exec (.frameReceived l ch) s = .next s)

/-- R149: the four tests of a complete frame, in their order. -/
def Obligations.CompleteFrameIsJudged : Prop :=
  ∀ (s : State) (l : LineIx) (ch : RxChar) (n : Nat) (bytes : List Byte) (bad : Bool),
    let ln := s.line l
    let all := bytes ++ [ch.data]
    let body := all.take n
    ln.hears = true → ln.assembler = .body n bytes bad → bytes.length + 1 = n + 2 →
    ∃ t, exec (.frameReceived l ch) s = .next t ∧ OnlyLine s t l
      (if bad = true ∨ errorMark ln.config.parity ch = true then
        { ln with assembler := .hunt, causes := ln.causes ||| 1#3,
                  counters := { ln.counters with charError := countUp ln.counters.charError } }
      else if all.drop n ≠ crcBytes (byteOf n :: body) then
        { ln with assembler := .hunt, causes := ln.causes ||| 2#3,
                  counters := { ln.counters with crc := countUp ln.counters.crc } }
      else if (body.getD 0 0#8).toNat / 16 ≠ 1 then
        { ln with assembler := .hunt, causes := ln.causes ||| 2#3,
                  counters := { ln.counters with badVersion := countUp ln.counters.badVersion } }
      else if 4 ≤ ln.requests.length then
        { ln with assembler := .hunt, causes := ln.causes ||| 2#3,
                  counters := { ln.counters with queueDrop := countUp ln.counters.queueDrop } }
      else
        { ln with assembler := .hunt,
                  counters := { ln.counters with good := countUp ln.counters.good },
                  requests := ln.requests ++
                    [{ station := ⟨(body.getD 0 0#8).toNat % 16, Nat.mod_lt _ (by decide)⟩,
                       incarnation := body.getD 1 0#8, tag := body.getD 2 0#8,
                       kind := body.getD 3 0#8, payload := body.drop 4 }] })

/-- R154, R156: a break is counted once and discards the partial frame; on an ACTIVE line with break action
RESTART the restart begins at once. Until RXD has gone high no further low counts, nor does any in HALF
duplex while DEn_N is asserted. The end of the break arms the detector again, and the receiver hears no
character before RXD has been high for one character time. The three values of the break hold, and what the
restart leaves of the line, rest on notes/assumptions/9.md and 17.md. -/
def Obligations.BreakIsDetectedOnce : Prop :=
  ∀ (s : State) (l : LineIx),
    let ln := s.line l
    (∀ low : Nat, ln.state ≠ .disabled → ln.breakHold ≠ .low →
      ln.config.duplex = .full ∨ ln.driverEnabled = false → 2 * characterTime ln.config < low →
      ∃ t, exec (.breakDetected l low) s = .next t ∧ OnlyLine s t l
        (if ln.state = .active ∧ ln.config.breakAction = .restart then
          { ln with state := .restarting, restartStepPending := true, transmitting := none,
                    requests := [], replies := [], assembler := .hunt, breakHold := .low,
                    causes := ln.causes ||| 4#3,
                    counters := { ln.counters with brk := countUp ln.counters.brk } }
        else
          { ln with assembler := .hunt, breakHold := .low, causes := ln.causes ||| 4#3,
                    counters := { ln.counters with brk := countUp ln.counters.brk } })) ∧
    (∀ low : Nat, ln.state = .disabled ∨ ln.breakHold = .low ∨
        (ln.config.duplex = .half ∧ ln.driverEnabled = true) ∨ low ≤ 2 * characterTime ln.config →
      exec (.breakDetected l low) s = .next s) ∧
    (∀ high : Nat, ∃ t, exec (.breakEnd l high) s = .next t ∧ OnlyLine s t l
      { ln with breakHold :=
          if ln.breakHold = .clear ∨ characterTime ln.config ≤ high then .clear else .settling }) ∧
    ∀ ch : RxChar, ln.breakHold ≠ .clear →
      exec (.requestSyncByte l ch) s = .next s ∧ exec (.lengthByte l ch) s = .next s ∧
        exec (.bodyCharacter l ch) s = .next s ∧ exec (.frameReceived l ch) s = .next s

/-- R156, R95: the restart step ends the OPEN sessions of its line with LINE_BREAK, suppresses the notice
of those already ENDING, empties the notice list and makes the line ACTIVE. R86, R119: LineRestarted says
what becomes of every session, claim, deadline and free record. No lock is touched: no entry, chain or
namespace changes, and no claim but a DETACHED one leaves its state. -/
def Obligations.RestartStepEndsTheSessionsOfItsLine : Prop :=
  ∀ (s : State) (l : LineIx), s.arbiterChoice = some (srcLine l) →
    (s.line l).state = .restarting → (s.line l).restartStepPending = true →
    ∃ t, exec (.restartStep l) s = .next t ∧
      t = { s with
        arbiterLast := srcLine l, claims := t.claims, freeList := t.freeList,
        freeClaimCount := t.freeClaimCount, sessions := t.sessions, deadlines := t.deadlines,
        lines := t.lines } ∧
      t.line l = { s.line l with state := .active, restartStepPending := false, notices := [] } ∧
      LinesSameBut [l] s t ∧ LineRestarted s t l .lineBreak false

/-- R152, R186, R187: the transmitter starts the filled slot reserved earliest, whatever stands reserved
before it, and the slot becomes free; the end of the frame frees the transmitter. That the transmitter
holds the whole frame until its end is the model's choice (notes/assumptions/20.md). -/
def Obligations.ReplyFrameOfTheEarliestFilledSlot : Prop :=
  ∀ (s : State) (l : LineIx) (idle : Nat),
    let ln := s.line l
    (∀ (before after : List ReplySlot) (x : ReplySlot) (c : ReplyContent),
      ln.mayStart idle = true → ln.replies = before ++ x :: after →
      (∀ y ∈ before, y.content = none) → x.content = some c →
      let covered := byteOf (6 + c.payload.length) ::
        [byteOf (16 + x.station.val), c.incarnation, x.tag, x.kind, statusCode c.status,
          c.noticeCounter] ++ c.payload
      ∃ t, exec (.replyFrameStart l idle) s = .next t ∧ OnlyLine s t l
        { ln with replies := before ++ after,
                  transmitting := some (0x5A#8 :: covered ++ crcBytes covered) }) ∧
    (ln.mayStart idle = false → exec (.replyFrameStart l idle) s = .next s) ∧
    ∃ t, exec (.frameTransmissionEnd l) s = .next t ∧
      OnlyLine s t l { ln with transmitting := none }

/-- R51, R85, R94, R131, R141: the start of a claim's notice frame, at which the item leaves the head of
the list, the session's counter advances, the frame is fixed from the claim, and a DETACHED claim is
freed; and the start of a SESSION_ENDED frame. The whole frame in the transmitter is the model's choice
(notes/assumptions/20.md). -/
def Obligations.NoticeFramesOfClaimsAndSessions : Prop :=
  (∀ (s : State) (l : LineIx) (idle : Nat) (c : ClaimIx) (rest : List NoticeItem) (k : NoticeKind),
     let i := (s.claim c).session
     let payload := match k with
       | .granted => keyBytes (s.claim c).key ++ [modeCode (s.claim c).mode] ++
           beBytes 6 (s.claim c).token
       | .waitExpired => keyBytes (s.claim c).key
       | .revoked => keyBytes (s.claim c).key ++ beBytes 6 (s.claim c).token
     let code : Byte := match k with
       | .granted => 0xC1#8
       | .waitExpired => 0xC2#8
       | .revoked => 0xC3#8
     let covered := byteOf (6 + payload.length) ::
       [byteOf (16 + (stationOf i).val), (s.session i).incarnation, 0#8, code, 0#8,
         (s.session i).noticeCounter + 1#8] ++ payload
     (s.line l).mayStart idle = true → (∀ x ∈ (s.line l).replies, x.content = none) →
     (s.line l).notices = .claim c :: rest → (s.claim c).notice = some k →
     ∃ u t, exec (.noticeFrameStart l idle) s = .next t ∧
       u = { s with lines := u.lines, sessions := u.sessions, claims := u.claims } ∧
       u.line l = { s.line l with notices := rest,
                                  transmitting := some (0x5A#8 :: covered ++ crcBytes covered) } ∧
       LinesSameBut [l] s u ∧
       u.session i = { s.session i with noticeCounter := (s.session i).noticeCounter + 1#8 } ∧
       SessionsSameBut [i] s u ∧
       u.claim c = { s.claim c with notice := none } ∧ ClaimsSameBut [c] s u ∧
       t = if (s.claim c).state = .detached then u.freeClaim c else u) ∧
  ∀ (s : State) (l : LineIx) (idle : Nat) (i : SlotIx) (rest : List NoticeItem),
    let covered := byteOf 7 ::
      [byteOf (16 + (stationOf i).val), (s.session i).incarnation, 0#8, 0xC4#8, 0#8,
        (s.session i).noticeCounter + 1#8, endCauseCode (s.session i).endCause]
    (s.line l).mayStart idle = true → (∀ x ∈ (s.line l).replies, x.content = none) →
    (s.line l).notices = .sessionEnded i :: rest →
    ∃ t, exec (.sessionEndedFrameStart l idle) s = .next t ∧
      t = { s with lines := t.lines, sessions := t.sessions } ∧
      t.line l = { s.line l with notices := rest,
                                 transmitting := some (0x5A#8 :: covered ++ crcBytes covered) } ∧
      LinesSameBut [l] s t ∧
      t.session i = { s.session i with state := .idle,
                                       noticeCounter := (s.session i).noticeCounter + 1#8 } ∧
      SessionsSameBut [i] s t

/-! ### Deadlines -/

/-- R114, R120: the time counter advances and stays at its last value; a due head of the deadline list is
posted while the expiry queue has room, and only then. -/
def Obligations.TimeAdvancesAndDueHeadsArePosted : Prop :=
  ∀ s : State,
    (exec .timeCounterAdvance s =
      .next { s with divider := 0, time := if s.time < 1099511627775 then s.time + 1 else s.time }) ∧
    (∀ (d : Deadline) (rest : List Deadline), s.deadlines = d :: rest →
      d.time ≤ s.time → s.expiries.length < 8 →
      exec .posting s = .next { s with deadlines := rest, expiries := s.expiries ++ [d] }) ∧
    ((∀ d ∈ s.deadlines.head?, s.time < d.time) ∨ 8 ≤ s.expiries.length →
      exec .posting s = .next s)

/-- R118: in an ordered list the new entry stands after every entry with an earlier or equal deadline and
before every entry with a later one. -/
def Obligations.DeadlineInsertionPlace : Prop :=
  ∀ (d : Deadline) (ds : List Deadline), ds.Pairwise (fun a b => a.time ≤ b.time) →
    insertDeadline d ds =
      ds.filter (fun x => decide (x.time ≤ d.time)) ++
        d :: ds.filter (fun x => decide (d.time < x.time))

/-- R123, R125: a LEASE expiry taken while service is not HALTED acts when it is judged in RUNNING or
SUSPENDED, its session is OPEN and the deadline is still the session's; otherwise it is discarded. -/
def Obligations.LeaseExpiryActsOrIsDiscarded : Prop :=
  ∀ (s : State) (i : SlotIx) (time : Nat), ExpiryOffered s ⟨.lease i, time⟩ →
    s.service ≠ .halted →
    (s.service ≠ .clearing → (s.session i).state = .opened →
      (s.session i).leaseDeadline = some time →
      ∃ t, exec .leaseExpiry s = .next t ∧
        t = { expiryTaken s with
                sessions := t.sessions,
                deadlines := s.deadlines.filter (fun d => !refersToLease i d.ref),
                deviceCauses := s.deviceCauses ||| 0x04#7,
                counters := { s.counters with leaseExpiries := countUp s.counters.leaseExpiries } } ∧
        t.session i = { s.session i with
          state := .ending, endCause := .leaseExpired, leaseDeadline := none,
          cache := { (s.session i).cache with valid := false }, endingSweep := .starting } ∧
        SessionsSameBut [i] s t) ∧
    (s.service = .clearing ∨ (s.session i).state ≠ .opened ∨
        (s.session i).leaseDeadline ≠ some time →
      exec .leaseExpiry s = .next (expiryTaken s))

/-- R124, R125, R44, R65: a WAIT expiry taken while service is not HALTED. One that acts takes a WAITING
claim from its queue or ends a pending upgrade, and a grant pass runs; any other is discarded. -/
def Obligations.WaitExpiryActsOrIsDiscarded : Prop :=
  ∀ (s : State) (c : ClaimIx) (use : BitVec 16) (time : Nat),
    let e := (s.claim c).entry
    let counted : State := { expiryTaken s with
      counters := { s.counters with waitExpiries := countUp s.counters.waitExpiries } }
    ExpiryOffered s ⟨.wait c use, time⟩ → s.service ≠ .halted →
    (s.service ≠ .clearing → (s.claim c).useCount = use → (s.claim c).waitDeadline = some time →
      (s.claim c).state = .waiting →
      exec .waitExpiry s = .next
        ((if (s.session (s.claim c).session).state = .opened then
            counted.detachClaim c .waitExpired else counted.freeClaim c).grantPass e)) ∧
    (s.service ≠ .clearing → (s.claim c).useCount = use → (s.claim c).waitDeadline = some time →
      (s.claim c).state = .held → (s.claim c).upgrade = true →
      ∃ u, exec .waitExpiry s = .next
          ((if (s.session (s.claim c).session).state = .opened then
            u.raiseNotice c .waitExpired else u).grantPass e) ∧
        u = { counted with claims := u.claims, entries := u.entries,
                           deadlines := s.deadlines.filter (fun d => !refersToWait c d.ref) } ∧
        u.claim c = { s.claim c with upgrade := false, waitDeadline := none } ∧
        ClaimsSameBut [c] s u ∧
        u.entry e = { s.entry e with upgrade := none } ∧ EntriesSameBut [e] s u) ∧
    (s.service = .clearing ∨ (s.claim c).useCount ≠ use ∨ (s.claim c).waitDeadline ≠ some time ∨
        ((s.claim c).state ≠ .waiting ∧ ¬ ((s.claim c).state = .held ∧ (s.claim c).upgrade = true)) →
      exec .waitExpiry s = .next (expiryTaken s))

/-! ### Claims, notices and the grant pass -/

/-- R25: what freeing a HELD, WAITING or DETACHED claim does. -/
def Obligations.FreeingAClaim : Prop :=
  ∀ (s : State) (c : ClaimIx), (s.claim c).state ≠ .free →
    let x := s.claim c
    let i := x.session
    let e := x.entry
    let t := s.freeClaim c
    t = { s with claims := t.claims, entries := t.entries, sessions := t.sessions,
                 lines := t.lines,
                 deadlines := s.deadlines.filter (fun d => !refersToWait c d.ref),
                 freeList := s.freeList ++ [c], freeClaimCount := s.freeClaimCount + 1 } ∧
    t.claim c = { Claim.reset with useCount := x.useCount } ∧ ClaimsSameBut [c] s t ∧
    t.session i = { s.session i with
      claimList := (s.session i).claimList.filter (fun d => d != c),
      heldCount := if x.state = .held then (s.session i).heldCount - 1 else (s.session i).heldCount,
      waitingCount := if x.state = .waiting then (s.session i).waitingCount - 1
        else (s.session i).waitingCount } ∧
    SessionsSameBut [i] s t ∧
    t.entry e = (match x.state with
      | .held => { s.entry e with
          holders := (s.entry e).holders.filter (fun d => d != c),
          upgrade := if (s.entry e).upgrade = some c then none else (s.entry e).upgrade }
      | .waiting => { s.entry e with waiters := (s.entry e).waiters.filter (fun d => d != c) }
      | .detached => s.entry e
      | .free => s.entry e) ∧
    EntriesSameBut [e] s t ∧
    t.line (lineOf i) = { s.line (lineOf i) with
      notices := if x.notice = none then (s.line (lineOf i)).notices
        else (s.line (lineOf i)).notices.filter (fun it => it != .claim c) } ∧
    LinesSameBut [lineOf i] s t

/-- R46, R11, R44 with R48, R49: what detaching a HELD or WAITING claim does. The claim keeps its key, its
mode and its token. A first notice is appended to its line's list; a later one replaces the pending kind
or yields to it by Table 2.3, and the list stays as it is. -/
def Obligations.DetachingAClaimAndItsNotice : Prop :=
  (∀ (s : State) (c : ClaimIx) (k : NoticeKind),
     (s.claim c).state = .held ∨ (s.claim c).state = .waiting →
     let x := s.claim c
     let i := x.session
     let e := x.entry
     let t := s.detachClaim c k
     t = { s with claims := t.claims, entries := t.entries, sessions := t.sessions,
                  lines := t.lines,
                  deadlines := s.deadlines.filter (fun d => !refersToWait c d.ref) } ∧
     t.claim c = { x with
       state := .detached, upgrade := false, waitDeadline := none,
       notice := some (match x.notice with
         | none => k
         | some p => mergedNotice p k) } ∧
     ClaimsSameBut [c] s t ∧
     t.session i = { s.session i with
       heldCount := if x.state = .held then (s.session i).heldCount - 1 else (s.session i).heldCount,
       waitingCount := if x.state = .waiting then (s.session i).waitingCount - 1
         else (s.session i).waitingCount } ∧
     SessionsSameBut [i] s t ∧
     t.entry e = (if x.state = .held then
       { s.entry e with
           holders := (s.entry e).holders.filter (fun d => d != c),
           upgrade := if (s.entry e).upgrade = some c then none else (s.entry e).upgrade }
       else { s.entry e with waiters := (s.entry e).waiters.filter (fun d => d != c) }) ∧
     EntriesSameBut [e] s t ∧
     t.line (lineOf i) = { s.line (lineOf i) with
       notices := if x.notice = none then (s.line (lineOf i)).notices ++ [.claim c]
         else (s.line (lineOf i)).notices } ∧
     LinesSameBut [lineOf i] s t) ∧
  ∀ (s : State) (c : ClaimIx),
    let l := lineOf (s.claim c).session
    (∀ k, (s.claim c).notice = none →
      let t := s.raiseNotice c k
      t = { s with claims := t.claims, lines := t.lines } ∧
      t.claim c = { s.claim c with notice := some k } ∧ ClaimsSameBut [c] s t ∧
      t.line l = { s.line l with notices := (s.line l).notices ++ [.claim c] } ∧
      LinesSameBut [l] s t) ∧
    ∀ pending new result, (s.claim c).notice = some pending →
      (pending, new, result) ∈
        [(NoticeKind.granted, NoticeKind.granted, NoticeKind.granted),
         (.granted, .waitExpired, .granted), (.granted, .revoked, .revoked),
         (.waitExpired, .granted, .granted), (.waitExpired, .waitExpired, .waitExpired),
         (.waitExpired, .revoked, .revoked)] →
      let t := s.raiseNotice c new
      t = { s with claims := t.claims } ∧
      t.claim c = { s.claim c with notice := some result } ∧ ClaimsSameBut [c] s t

/-- R38 steps 1 and 2, R63, R64, with R48, R49 and R58: a grant pass on an entry with a pending upgrade of a
session that is not ENDING. The GRANTED notice joins its line's list where none was pending. -/
def Obligations.GrantPassWithAPendingUpgrade : Prop :=
  ∀ (s : State) (e : EntryIx) (c : ClaimIx), (s.entry e).upgrade = some c →
    (s.session (s.claim c).session).state ≠ .ending →
    ((s.entry e).holders ≠ [c] → s.grantPass e = s) ∧
    ((s.entry e).holders = [c] → s.tokenCounter + 1 > Config.tokenExhausted →
      s.grantPass e = { s with deviceCauses := s.deviceCauses ||| 0x40#7 }) ∧
    ((s.entry e).holders = [c] → s.tokenCounter + 1 ≤ Config.tokenExhausted →
      let t := s.grantPass e
      t = { s with claims := t.claims, entries := t.entries, lines := t.lines,
                   deadlines := s.deadlines.filter (fun d => !refersToWait c d.ref),
                   tokenCounter := s.tokenCounter + 1, deviceCauses := t.deviceCauses,
                   counters := { s.counters with grants := countUp s.counters.grants } } ∧
      t.claim c = { s.claim c with
        mode := .exclusive, token := s.tokenCounter, upgrade := false, waitDeadline := none,
        notice := some (match (s.claim c).notice with
          | none => .granted
          | some p => mergedNotice p .granted) } ∧
      ClaimsSameBut [c] s t ∧
      t.deviceCauses = s.deviceCauses |||
        (if s.tokenCounter + 1 = Config.tokensLowMark then 0x40#7 else 0#7) ∧
      t.entry e = { s.entry e with mode := .exclusive, upgrade := none,
                                   latestToken := s.tokenCounter } ∧
      EntriesSameBut [e] s t ∧
      let l := lineOf (s.claim c).session
      t.line l = { s.line l with
        notices := if (s.claim c).notice = none then (s.line l).notices ++ [.claim c]
          else (s.line l).notices } ∧
      LinesSameBut [l] s t)

/-- R37, R38 step 3: with no pending upgrade, no waiter of an ENDING session and enough tokens, a grant
pass admits the longest prefix of the queue that `admitted` gives, in arrival order, with consecutive
tokens. Then every other pass, one head at a time: R38 with R37 for a head that is granted or not, R39 for a
head or a pending upgrade of an ENDING session, R38 and R58 where no token can be issued, R10 for an entry
left empty, and R11 for one left with waiters and no holder. -/
def Obligations.GrantPassAdmitsFromTheHead : Prop :=
  (∀ (s : State) (e : EntryIx),
    let x := s.entry e
    let n := admitted (s.ns x.key.ns).rules.sharerLimit x.holders.length x.mode
      (x.waiters.map (fun c => (s.claim c).mode))
    let t := s.grantPass e
    x.upgrade = none →
    (∀ c ∈ x.waiters, (s.session (s.claim c).session).state ≠ .ending) →
    s.tokenCounter + x.waiters.length ≤ Config.tokenExhausted →
    x.holders ≠ [] ∨ x.waiters ≠ [] →
    t = { s with
      entries := t.entries, claims := t.claims, sessions := t.sessions, lines := t.lines,
      deadlines := s.deadlines.filter
        (fun d => (x.waiters.take n).all (fun c => !refersToWait c d.ref)),
      tokenCounter := s.tokenCounter + n,
      deviceCauses := s.deviceCauses |||
        (if s.tokenCounter < Config.tokensLowMark ∧ Config.tokensLowMark ≤ s.tokenCounter + n then
          0x40#7 else 0#7),
      counters := { s.counters with grants := countUp^[n] s.counters.grants } } ∧
    t.entry e = { x with
      holders := x.holders ++ x.waiters.take n, waiters := x.waiters.drop n,
      mode := if x.holders = [] then
          (match x.waiters.head? with
            | some c => (s.claim c).mode
            | none => x.mode)
        else x.mode,
      latestToken := if n = 0 then x.latestToken else s.tokenCounter + n - 1 } ∧
    EntriesSameBut [e] s t ∧
    (∀ c ∈ x.waiters.take n, (t.claim c).state = .held) ∧
    (∀ c, c ∉ x.waiters.take n → t.claim c = s.claim c) ∧
    (∀ k c, k < n → x.waiters[k]? = some c → x.waiters.count c = 1 →
      t.claim c = { s.claim c with
        state := .held, token := s.tokenCounter + k, waitDeadline := none,
        notice := some (match (s.claim c).notice with
          | none => .granted
          | some p => mergedNotice p .granted) }) ∧
    (∀ i, let k := (x.waiters.take n).countP (fun c => (s.claim c).session == i)
      t.session i = { s.session i with waitingCount := (s.session i).waitingCount - k,
                                       heldCount := (s.session i).heldCount + k }) ∧
    (x.waiters.Nodup → ∀ l, t.line l = { s.line l with
      notices := (s.line l).notices ++ ((x.waiters.take n).filter
        (fun c => (s.claim c).notice == none && lineOf (s.claim c).session == l)).map .claim })) ∧
  (∀ (s : State) (e : EntryIx), (s.entry e).upgrade = none →
    let x := s.entry e
    (x.holders = [] → x.waiters = [] → EntryRetired s (s.grantPass e) e) ∧
    ∀ (c : ClaimIx) (rest : List ClaimIx), x.waiters = c :: rest →
      let ending := (s.session (s.claim c).session).state = .ending
      let grantable := x.holders = [] ∨ ((s.claim c).mode = .shared ∧ x.mode = .shared ∧
        x.holders.length < (s.ns x.key.ns).rules.sharerLimit)
      (ending → c ∉ rest → (s.claim c).state = .waiting → (s.claim c).entry = e →
        s.grantPass e = (s.freeClaim c).grantPass e) ∧
      (¬ ending → ¬ grantable → s.grantPass e = s) ∧
      (¬ ending → grantable → s.tokenCounter + 1 ≤ Config.tokenExhausted →
        ∃ u, WaiterGranted s u e c ∧
          s.grantPass e = if (s.claim c).mode = .exclusive then u else u.grantPass e) ∧
      (¬ ending → grantable → Config.tokenExhausted < s.tokenCounter + 1 →
        let u : State := { s with deviceCauses := s.deviceCauses ||| 0x40#7 }
        (x.holders ≠ [] → s.grantPass e = u) ∧
        (x.holders = [] → x.waiters.Nodup →
          (∀ d ∈ x.waiters, (s.claim d).state = .waiting ∧ (s.claim d).entry = e ∧
            (s.claim d).notice = none) →
          ∃ w, WaitersLeave u w e ∧ EntryRetired w (s.grantPass e) e))) ∧
  ∀ (s : State) (e : EntryIx) (c : ClaimIx), (s.entry e).upgrade = some c →
    (s.session (s.claim c).session).state = .ending →
    ∃ u, s.grantPass e = u.grantPass e ∧
      u = { s with claims := u.claims, entries := u.entries,
                   deadlines := s.deadlines.filter (fun d => !refersToWait c d.ref) } ∧
      u.claim c = { s.claim c with upgrade := false, waitDeadline := none } ∧
      ClaimsSameBut [c] s u ∧
      u.entry e = { s.entry e with upgrade := none } ∧ EntriesSameBut [e] s u

/-- R39: a grant pass never grants a claim of a session that is ENDING, and never upgrades one. A claim on
the queue is WAITING on that entry, as R27 says of every record. -/
def Obligations.GrantPassNeverGrantsAnEndingSession : Prop :=
  ∀ (s : State) (e : EntryIx) (c : ClaimIx),
    (s.session (s.claim c).session).state = .ending →
    (c ∈ (s.entry e).waiters → (s.claim c).state = .waiting ∧ (s.claim c).entry = e) →
    ((s.claim c).state ≠ .held → ((s.grantPass e).claim c).state ≠ .held) ∧
    (((s.grantPass e).claim c).token = (s.claim c).token ∨ ((s.grantPass e).claim c).token = 0) ∧
    ((s.entry e).upgrade = some c → ((s.grantPass e).entry e).upgrade = none)

/-! ### Requests of stations -/

/-- R137, R74, R135: the refusals of the service-state check and of the session check, for every kind. A
refusal with SUSPENDED restarts the lease where R75 says so; the others touch no session. -/
def Obligations.ServiceAndSessionRefusals : Prop :=
  ∀ (s : State) (l : LineIx) (r : Request), RequestOffered s l r →
    let i := slotOf l r.station
    let run := exec (requestCommand r.kind l) s
    let refused (st : Status) := ∃ u t, run = .next t ∧ FrameTaken s u l r ∧
      ReplyPlaced s u t l r ⟨st, []⟩
    let passes := s.service = .running ∨ (s.service = .suspended ∧
      ¬ (r.kind = 0x01#8 ∨ r.kind = 0x04#8 ∨ r.kind = 0x09#8 ∨
        (r.kind = 0x06#8 ∧ 6 ≤ r.payload.length ∧ r.payload.getD 5 0#8 = 2#8)))
    (s.service = .halted ∨ s.service = .clearing → refused .notInService) ∧
    (s.service = .suspended → ¬ passes →
      ((s.session i).state = .opened ∧ r.kind ≠ 0x01#8 ∧
          r.incarnation = (s.session i).incarnation →
        ∃ u t, run = .next t ∧ RequestBegun s u l r ∧ ReplyPlaced s u t l r ⟨.suspended, []⟩) ∧
      (¬ ((s.session i).state = .opened ∧ r.kind ≠ 0x01#8 ∧
          r.incarnation = (s.session i).incarnation) → refused .suspended)) ∧
    (passes → r.kind ≠ 0x01#8 →
      ((s.session i).state = .idle → refused .noSession) ∧
      ((s.session i).state ≠ .idle → r.incarnation ≠ (s.session i).incarnation →
        refused .staleIncarnation) ∧
      ((s.session i).state = .ending ∨ (s.session i).state = .ended →
        r.incarnation = (s.session i).incarnation → refused .sessionEnding))

/-- R77, R78: a duplicate restarts the lease and is answered from the cache; nothing else changes, and no
refusal is counted. -/
def Obligations.DuplicateIsAnsweredFromTheCache : Prop :=
  ∀ (s : State) (l : LineIx) (r : Request), RequestOffered s l r →
    let x := s.session (slotOf l r.station)
    serviceRefusal s.service r = none → x.state = .opened →
    (r.kind ≠ 0x01#8 → r.incarnation = x.incarnation) →
    x.cache.valid = true → x.cache.tag = r.tag → x.cache.kind = r.kind →
    ∃ u t, exec (requestCommand r.kind l) s = .next t ∧ RequestBegun s u l r ∧
      SlotFilled s u t l r x.cache.reply

/-- R78 to R82: an OPEN that has passed the service-state check, by the state of its session. -/
def Obligations.OpenIsDecidedByItsSession : Prop :=
  ∀ (s : State) (l : LineIx) (r : Request), RequestOffered s l r → r.kind = 0x01#8 →
    s.service = .running →
    let i := slotOf l r.station
    let x := s.session i
    let asked := (r.payload.getD 0 0#8).toNat
    let refused (reply : Reply) := ∃ u t, exec (.reqOpen l) s = .next t ∧ FrameTaken s u l r ∧
      ReplyPlaced s u t l r reply
    (x.state = .opened → isDuplicate x r = false → refused ⟨.sessionExists, [x.incarnation]⟩) ∧
    (x.state = .ending → refused ⟨.sessionEnding, []⟩) ∧
    (x.state = .idle ∨ x.state = .ended → r.payload.length ≠ 3 → refused ⟨.badRequest, []⟩) ∧
    (x.state = .idle ∨ x.state = .ended → r.payload.length = 3 → asked = 0 ∨ 7 < asked →
      refused ⟨.badRing, []⟩) ∧
    (x.state = .idle ∨ x.state = .ended → r.payload.length = 3 → 1 ≤ asked → asked ≤ 7 →
      let ring := max asked (s.line l).config.ringFloor
      let lease := max (min (beNat (r.payload.drop 1)) s.leaseMax) s.leaseMin
      let inc := if x.incarnation = 255#8 then 1#8 else x.incarnation + 1#8
      let ends := min (s.time + lease) 1099511627775
      let reply : Reply := ⟨.ok, [byteOf ring] ++ beBytes 2 lease ++ [inc]⟩
      s.leaseMin ≤ s.leaseMax →
      ∃ t, exec (.reqOpen l) s = .next t ∧
        t = { s with arbiterLast := srcLine l, lines := t.lines, sessions := t.sessions,
                     deadlines := insertDeadline ⟨.lease i, ends⟩
                       (s.deadlines.filter (fun d => !refersToLease i d.ref)) } ∧
        t.session i = { x with
          state := .opened, incarnation := inc, ring := ring, lease := lease,
          leaseDeadline := some ends, noticeCounter := 0#8, endCause := .none,
          noticeSuppressed := false, cache := ⟨r.tag, r.kind, reply, true⟩ } ∧
        SessionsSameBut [i] s t ∧
        t.line l = { s.line l with
          requests := (s.line l).requests.tail,
          replies := (s.line l).replies ++ [slotFor r (some ⟨inc, .ok, 0#8, reply.payload⟩)],
          notices := if x.state = .ended then
            (s.line l).notices.filter (fun it => it != .sessionEnded i)
            else (s.line l).notices } ∧
        LinesSameBut [l] s t)

/-- R86, R87: a CLOSE that has passed the common checks. An empty one ends the session, its reply slot
staying reserved; one with a payload is refused, the session staying OPEN. -/
def Obligations.CloseEndsItsSession : Prop :=
  ∀ (s : State) (l : LineIx) (r : Request), RequestAdmitted s l r → r.kind = 0x02#8 →
    let i := slotOf l r.station
    (r.payload = [] → ∃ u t, exec (.reqClose l) s = .next t ∧ FrameTaken s u l r ∧
      t = { u with sessions := t.sessions,
                   deadlines := s.deadlines.filter (fun d => !refersToLease i d.ref) } ∧
      t.session i = { s.session i with
        state := .ending, endCause := .closed, leaseDeadline := none, closeReply := true,
        cache := { (s.session i).cache with valid := false }, endingSweep := .starting } ∧
      SessionsSameBut [i] s t) ∧
    (r.payload ≠ [] → ∃ u t, exec (.reqClose l) s = .next t ∧ RequestBegun s u l r ∧
      RequestAnswered s u t l r ⟨.badRequest, []⟩)

/-- R83, with R75, R76, R130 and R133: RENEW restarts the lease and does nothing else; a kind
byte other than 0x01 to 0x09 is refused with BAD_REQUEST under reply kind 0x80. Both are answered and
cached. -/
def Obligations.RenewAndUnknownKindsOnlyRestartTheLease : Prop :=
  ∀ (s : State) (l : LineIx) (r : Request), RequestAdmitted s l r →
    (r.kind = 0x03#8 → ∃ u t, exec (.reqRenew l) s = .next t ∧ RequestBegun s u l r ∧
      RequestAnswered s u t l r (if r.payload = [] then ⟨.ok, []⟩ else ⟨.badRequest, []⟩)) ∧
    (r.kind.toNat = 0 ∨ 9 < r.kind.toNat → ∃ u t, exec (.reqUnknownKind l) s = .next t ∧
      RequestBegun s u l r ∧ RequestAnswered s u t l r ⟨.badRequest, []⟩ ∧
      replyKind r.kind = 0x80#8)

/-- R33, R34: an ACQUIRE granted at once, on an absent key and as a further sharer of a present entry. -/
def Obligations.AcquireIsGrantedAtOnce : Prop :=
  ∀ (s : State) (l : LineIx) (r : Request) (f : AcquireFields) (c : ClaimIx) (free : List ClaimIx),
    let i := slotOf l r.station
    RequestAdmitted s l r → r.kind = 0x04#8 → AcquirePasses s i r f →
    s.freeList = c :: free → s.tokenCounter + 1 ≤ 281474976710655 →
    (∀ e, s.lookup f.key = none → s.lowestFreeEntry = some e →
      (s.ns f.key.ns).occupied < (s.ns f.key.ns).rules.quota →
      (s.chain (bucketOf f.key)).length < 8 →
      ∃ u v t, exec (.reqAcquire l) s = .next t ∧ RequestBegun s u l r ∧
        LockCreated u v i f.key f.mode e c ∧
        RequestAnswered s v t l r ⟨.ok, beBytes 6 s.tokenCounter⟩) ∧
    (∀ e, s.lookup f.key = some e → s.ownClaim e i = .none → f.mode = .shared →
      (s.entry e).mode = .shared → (s.entry e).upgrade = none → (s.entry e).waiters = [] →
      (s.entry e).holders.length < (s.ns (s.entry e).key.ns).rules.sharerLimit →
      ∃ u v t, exec (.reqAcquire l) s = .next t ∧ RequestBegun s u l r ∧
        LockJoined u v i f.key e c ∧
        RequestAnswered s v t l r ⟨.ok, beBytes 6 s.tokenCounter⟩)

/-- R36: an ACQUIRE that is queued. That the lease's entry goes in before the wait's is
notes/assumptions/10.md (DEDUCED). -/
def Obligations.AcquireIsQueued : Prop :=
  ∀ (s : State) (l : LineIx) (r : Request) (f : AcquireFields) (e : EntryIx) (c : ClaimIx)
      (free : List ClaimIx),
    let i := slotOf l r.station
    RequestAdmitted s l r → r.kind = 0x04#8 → AcquirePasses s i r f →
    s.lookup f.key = some e → s.ownClaim e i = .none → NotGrantableNow s e f.mode →
    f.wait ≠ 0 → (s.entry e).waiters.length < (s.ns f.key.ns).rules.queueLimit →
    s.freeList = c :: free →
    let ends := if f.wait = 65535 then none else some (min (s.time + f.wait) 1099511627775)
    ∃ u v t, exec (.reqAcquire l) s = .next t ∧ RequestBegun s u l r ∧
      v = { u with claims := v.claims, entries := v.entries, sessions := v.sessions,
                   freeList := free, freeClaimCount := u.freeClaimCount - 1,
                   deadlines := (match ends with
                     | none => u.deadlines
                     | some d => insertDeadline ⟨.wait c ((s.claim c).useCount + 1), d⟩ u.deadlines),
                   deviceCauses := s.deviceCauses |||
                     (if s.poolThreshold ≤ s.freeClaimCount ∧
                        s.freeClaimCount - 1 < s.poolThreshold then 0x08#7 else 0#7) } ∧
      v.claim c = { state := .waiting, mode := f.mode, entry := e, key := f.key, session := i,
                    token := 0, waitDeadline := ends, upgrade := false, notice := none,
                    useCount := (s.claim c).useCount + 1 } ∧
      ClaimsSameBut [c] u v ∧
      v.entry e = { s.entry e with waiters := (s.entry e).waiters ++ [c] } ∧
      EntriesSameBut [e] u v ∧
      v.session i = { u.session i with claimList := (u.session i).claimList ++ [c],
                                       waitingCount := (u.session i).waitingCount + 1 } ∧
      SessionsSameBut [i] u v ∧
      RequestAnswered s v t l r ⟨.queued, [byteOf ((s.entry e).waiters.length + 1)]⟩

/-- R7, R32 to R35, R57, R100, R101, R133: an ACQUIRE that is refused changes no lock and no claim; the
first failing check gives the status, and the pressed and exhausted ones raise their cause. -/
def Obligations.RefusedAcquireChangesNoLock : Prop :=
  ∀ (s : State) (l : LineIx) (r : Request),
    let i := slotOf l r.station
    RequestAdmitted s l r → r.kind = 0x04#8 →
    let refused (st : Status) (causes : BitVec 7) := ∃ u t,
      exec (.reqAcquire l) s = .next t ∧ RequestBegun s u l r ∧
      RequestAnswered s { u with deviceCauses := s.deviceCauses ||| causes } t l r ⟨st, []⟩
    (acquirePayload r.payload = none → refused .badRequest 0#7) ∧
    ∀ f, acquirePayload r.payload = some f →
      let ns := s.ns f.key.ns
      let limit := match f.mode with
        | .shared => ns.rules.sharedLimit
        | .exclusive => ns.rules.exclusiveLimit
      (ns.state ≠ .enabled → refused .nsDisabled 0#7) ∧
      (ns.state = .enabled → limit < (s.session i).ring → refused .accessDenied 0#7) ∧
      (AcquirePasses s i r f →
        (s.lookup f.key = none →
          (ns.rules.quota ≤ ns.occupied → refused .quotaFull 0x10#7) ∧
          (ns.occupied < ns.rules.quota →
            8 ≤ (s.chain (bucketOf f.key)).length ∨ s.lowestFreeEntry = none →
            refused .tableFull 0x10#7) ∧
          (ns.occupied < ns.rules.quota → (s.chain (bucketOf f.key)).length < 8 →
            s.lowestFreeEntry ≠ none →
            (s.freeList = [] → refused .poolEmpty 0x10#7) ∧
            (s.freeList ≠ [] → 281474976710655 < s.tokenCounter + 1 →
              refused .tokensExhausted 0x40#7))) ∧
        ∀ e, s.lookup f.key = some e →
          (s.ownClaim e i ≠ .none → refused .alreadyClaimed 0#7) ∧
          (s.ownClaim e i = .none → NotGrantableNow s e f.mode →
            (f.wait = 0 → refused .notAvailable 0#7) ∧
            (f.wait ≠ 0 → ns.rules.queueLimit ≤ (s.entry e).waiters.length →
              refused .queueFull 0#7) ∧
            (f.wait ≠ 0 → (s.entry e).waiters.length < ns.rules.queueLimit →
              s.freeList = [] → refused .poolEmpty 0x10#7)) ∧
          (s.ownClaim e i = .none → ¬ NotGrantableNow s e f.mode →
            (s.freeList = [] → refused .poolEmpty 0x10#7) ∧
            (s.freeList ≠ [] → 281474976710655 < s.tokenCounter + 1 →
              refused .tokensExhausted 0x40#7)))

/-- R41: a RELEASE frees the holder's claim, pending upgrade or not, and a grant pass runs on its entry; a
session that holds nothing there is refused. -/
def Obligations.ReleaseFreesTheClaimAndRunsAPass : Prop :=
  ∀ (s : State) (l : LineIx) (r : Request), RequestAdmitted s l r → r.kind = 0x05#8 →
    let i := slotOf l r.station
    (∀ k c, keyPayload r.payload = some k →
      s.ownClaimOn k i = .held c ∨ s.ownClaimOn k i = .upgrading c →
      ∃ u t, exec (.reqRelease l) s = .next t ∧ RequestBegun s u l r ∧
        RequestAnswered s ((u.freeClaim c).grantPass (s.claim c).entry) t l r ⟨.ok, []⟩) ∧
    (∀ k, keyPayload r.payload = some k →
      (∀ c, s.ownClaimOn k i ≠ .held c ∧ s.ownClaimOn k i ≠ .upgrading c) →
      ∃ u t, exec (.reqRelease l) s = .next t ∧ RequestBegun s u l r ∧
        RequestAnswered s u t l r ⟨.notHeld, []⟩) ∧
    (keyPayload r.payload = none →
      ∃ u t, exec (.reqRelease l) s = .next t ∧ RequestBegun s u l r ∧
        RequestAnswered s u t l r ⟨.badRequest, []⟩)

/-- R42, R43: a CANCEL of a wait frees the waiting claim, a CANCEL of an upgrade leaves the claim HELD and
SHARED, and a grant pass runs on the entry; any other is refused. -/
def Obligations.CancelEndsAWaitOrAnUpgrade : Prop :=
  ∀ (s : State) (l : LineIx) (r : Request), RequestAdmitted s l r → r.kind = 0x07#8 →
    let i := slotOf l r.station
    (∀ k c, keyPayload r.payload = some k → s.ownClaimOn k i = .waiting c →
      ∃ u t, exec (.reqCancel l) s = .next t ∧ RequestBegun s u l r ∧
        RequestAnswered s ((u.freeClaim c).grantPass (s.claim c).entry) t l r ⟨.ok, []⟩) ∧
    (∀ k c, keyPayload r.payload = some k → s.ownClaimOn k i = .upgrading c →
      let e := (s.claim c).entry
      ∃ u v t, exec (.reqCancel l) s = .next t ∧ RequestBegun s u l r ∧
        v = { u with claims := v.claims, entries := v.entries,
                     deadlines := u.deadlines.filter (fun d => !refersToWait c d.ref) } ∧
        v.claim c = { s.claim c with upgrade := false, waitDeadline := none } ∧
        ClaimsSameBut [c] u v ∧
        v.entry e = { s.entry e with upgrade := none } ∧ EntriesSameBut [e] u v ∧
        RequestAnswered s (v.grantPass e) t l r ⟨.ok, []⟩) ∧
    (∀ k, keyPayload r.payload = some k →
      (∀ c, s.ownClaimOn k i ≠ .waiting c ∧ s.ownClaimOn k i ≠ .upgrading c) →
      ∃ u t, exec (.reqCancel l) s = .next t ∧ RequestBegun s u l r ∧
        RequestAnswered s u t l r ⟨.notWaiting, []⟩) ∧
    (keyPayload r.payload = none →
      ∃ u t, exec (.reqCancel l) s = .next t ∧ RequestBegun s u l r ∧
        RequestAnswered s u t l r ⟨.badRequest, []⟩)

/-- R59 to R62, with R100, R101 and R133: a CONVERT. Its payload, its namespace's state, its ring and the
session's own claim are checked in this order, and the first that fails gives the status. Of a claim that its
session holds, down: the claim and its entry become SHARED, the token is kept and a pass runs. Up by the
sole holder: both become EXCLUSIVE with a new token. Up beside other holders: the claim becomes the
pending upgrade, or the request is refused. That the lease's entry goes in before the wait's is
notes/assumptions/10.md (DEDUCED). -/
def Obligations.ConvertOfAHeldClaim : Prop :=
  (∀ (s : State) (l : LineIx) (r : Request), RequestAdmitted s l r → r.kind = 0x06#8 →
    let i := slotOf l r.station
    let refused (st : Status) := ∃ u t, exec (.reqConvert l) s = .next t ∧ RequestBegun s u l r ∧
      RequestAnswered s u t l r ⟨st, []⟩
    (acquirePayload r.payload = none → refused .badRequest) ∧
    ∀ f, acquirePayload r.payload = some f →
      let ns := s.ns f.key.ns
      let passes := match f.mode with
        | .exclusive => ns.state = .enabled ∧ (s.session i).ring ≤ ns.rules.exclusiveLimit
        | .shared => ns.state ≠ .disabled
      (f.mode = .exclusive → ns.state ≠ .enabled → refused .nsDisabled) ∧
      (f.mode = .exclusive → ns.state = .enabled → ns.rules.exclusiveLimit < (s.session i).ring →
        refused .accessDenied) ∧
      (f.mode = .shared → ns.state = .disabled → refused .nsDisabled) ∧
      (passes → (∀ c, s.ownClaimOn f.key i ≠ .held c ∧ s.ownClaimOn f.key i ≠ .upgrading c) →
        refused .notHeld)) ∧
  ∀ (s : State) (l : LineIx) (r : Request) (f : AcquireFields) (c : ClaimIx),
    let i := slotOf l r.station
    let x := s.claim c
    let e := x.entry
    RequestAdmitted s l r → r.kind = 0x06#8 → ConvertPasses s i r f c →
    let refused (st : Status) (causes : BitVec 7) := ∃ u t,
      exec (.reqConvert l) s = .next t ∧ RequestBegun s u l r ∧
      RequestAnswered s { u with deviceCauses := s.deviceCauses ||| causes } t l r ⟨st, []⟩
    (x.mode = f.mode → refused .badRequest 0#7) ∧
    (x.mode = .exclusive → f.mode = .shared →
      ∃ u v t, exec (.reqConvert l) s = .next t ∧ RequestBegun s u l r ∧
        v = { u with claims := v.claims, entries := v.entries } ∧
        v.claim c = { x with mode := .shared } ∧ ClaimsSameBut [c] u v ∧
        v.entry e = { s.entry e with mode := .shared } ∧ EntriesSameBut [e] u v ∧
        RequestAnswered s (v.grantPass e) t l r ⟨.ok, beBytes 6 x.token⟩) ∧
    (x.mode = .shared → f.mode = .exclusive → (s.entry e).holders = [c] →
      (281474976710655 < s.tokenCounter + 1 → refused .tokensExhausted 0x40#7) ∧
      (s.tokenCounter + 1 ≤ 281474976710655 →
        ∃ u v t, exec (.reqConvert l) s = .next t ∧ RequestBegun s u l r ∧
          v = { u with
            claims := v.claims, entries := v.entries, tokenCounter := s.tokenCounter + 1,
            deadlines := if (s.entry e).upgrade = some c then
              u.deadlines.filter (fun d => !refersToWait c d.ref) else u.deadlines,
            deviceCauses := s.deviceCauses |||
              (if s.tokenCounter + 1 = Config.tokensLowMark then 0x40#7 else 0#7),
            counters := { s.counters with grants := countUp s.counters.grants } } ∧
          v.claim c = { x with
            mode := .exclusive, token := s.tokenCounter,
            upgrade := if (s.entry e).upgrade = some c then false else x.upgrade,
            waitDeadline := if (s.entry e).upgrade = some c then none else x.waitDeadline } ∧
          ClaimsSameBut [c] u v ∧
          v.entry e = { s.entry e with
            mode := .exclusive, latestToken := s.tokenCounter,
            upgrade := if (s.entry e).upgrade = some c then none else (s.entry e).upgrade } ∧
          EntriesSameBut [e] u v ∧
          RequestAnswered s v t l r ⟨.ok, beBytes 6 s.tokenCounter⟩)) ∧
    (x.mode = .shared → f.mode = .exclusive → (s.entry e).holders ≠ [c] →
      ((s.entry e).upgrade ≠ none → refused .upgradeConflict 0#7) ∧
      ((s.entry e).upgrade = none → f.wait = 0 → refused .notAvailable 0#7) ∧
      ((s.entry e).upgrade = none → f.wait ≠ 0 →
        let ends := if f.wait = 65535 then x.waitDeadline
          else some (min (s.time + f.wait) 1099511627775)
        ∃ u v t, exec (.reqConvert l) s = .next t ∧ RequestBegun s u l r ∧
          v = { u with
            claims := v.claims, entries := v.entries,
            deadlines := if f.wait = 65535 then u.deadlines
              else insertDeadline ⟨.wait c x.useCount, min (s.time + f.wait) 1099511627775⟩
                u.deadlines } ∧
          v.claim c = { x with upgrade := true, waitDeadline := ends } ∧ ClaimsSameBut [c] u v ∧
          v.entry e = { s.entry e with upgrade := some c } ∧ EntriesSameBut [e] u v ∧
          RequestAnswered s v t l r ⟨.queued, [0#8]⟩))

/-- R15, R139: a QUERY changes no lock; its reply gives the entry and the session's own claim, or zeros
for an absent key. -/
def Obligations.QueryReportsTheEntry : Prop :=
  ∀ (s : State) (l : LineIx) (r : Request), RequestAdmitted s l r → r.kind = 0x08#8 →
    let i := slotOf l r.station
    let answered (reply : Reply) := ∃ u t, exec (.reqQuery l) s = .next t ∧
      RequestBegun s u l r ∧ RequestAnswered s u t l r reply
    (keyPayload r.payload = none → answered ⟨.badRequest, []⟩) ∧
    ∀ k, keyPayload r.payload = some k →
      ((s.ns k.ns).state = .disabled → answered ⟨.nsDisabled, []⟩) ∧
      ((s.ns k.ns).state ≠ .disabled → (s.ns k.ns).rules.queryLimit < (s.session i).ring →
        answered ⟨.accessDenied, []⟩) ∧
      ((s.ns k.ns).state ≠ .disabled → (s.session i).ring ≤ (s.ns k.ns).rules.queryLimit →
        (s.lookup k = none → answered ⟨.ok, [0, 0, 0, 0, 0, 0, 0, 0, 0, 0, 0]⟩) ∧
        ∀ e, s.lookup k = some e →
          let x := s.entry e
          answered ⟨.ok,
            [match x.mode with
              | .shared => 1#8
              | .exclusive => 2#8,
             byteOf x.holders.length, byteOf x.waiters.length,
             if x.upgrade = none then 0#8 else 1#8] ++ beBytes 6 x.latestToken ++
            [match s.ownClaim e i with
              | .none => 0#8
              | .held _ => 1#8
              | .waiting _ => 2#8
              | .upgrading _ => 3#8]⟩)

/-- R67 to R70, R140, R9: a GROUP is granted as a whole, its elements in list order with consecutive tokens,
or refused with no lock, no claim and no token changed. Its checks come in this order: size and count; the
range of every element; keys that repeat an earlier one; of each element in turn namespace state, bracket, own
claim and grantability; of the group quota, chain room, entries, records and tokens. One element is granted on
an absent key, and a SHARED one on a present key, as an ACQUIRE is. -/
def Obligations.GroupIsAllOrNothing : Prop :=
  (∀ (s : State) (l : LineIx) (r : Request), RequestAdmitted s l r → r.kind = 0x09#8 →
     let i := slotOf l r.station
     let refused (index : Nat) (st : Status) (causes : BitVec 7) := ∃ u t,
       exec (.reqGroup l) s = .next t ∧ RequestBegun s u l r ∧
       RequestAnswered s { u with deviceCauses := s.deviceCauses ||| causes } t l r
         ⟨st, [byteOf index, statusCode st]⟩
     let count := (r.payload.getD 0 0#8).toNat
     let sized := r.payload.length = 1 + 6 * count ∧ 2 ≤ count ∧ count ≤ 4
     let inRange := ElementInRange r.payload
     let same := SameKeyAt r.payload
     (¬ sized → refused 0 .badRequest 0#7) ∧
     (sized → ∀ k, k < count → ¬ inRange k → (∀ j, j < k → inRange j) →
       refused (k + 1) .badRequest 0#7) ∧
     (sized → (∀ k, k < count → inRange k) → ∀ k, k < count → (∃ j, j < k ∧ same j k) →
       (∀ m, m < k → ∀ j, j < m → ¬ same j m) → refused (k + 1) .badRequest 0#7) ∧
     (sized → (∀ k, k < count → inRange k) → (∀ k, k < count → ∀ j, j < k → ¬ same j k) →
       ∀ els : List GroupElement, els.length = count →
       (∀ k el, els[k]? = some el → ElementAt r.payload k el) →
       (∀ k el st, els[k]? = some el → ElementFails s i el st →
         (∀ j before, j < k → els[j]? = some before → ∀ st', ¬ ElementFails s i before st') →
         refused (k + 1) st 0#7) ∧
       ((∀ el ∈ els, ∀ st, ¬ ElementFails s i el st) →
         let absent := (els.map (fun el => el.key)).filter (fun k => s.lookup k == none)
         let pastQuota := ∃ k ∈ absent, (s.ns k.ns).rules.quota <
           (s.ns k.ns).occupied + absent.countP (fun j => j.ns == k.ns)
         let pastChain := ∃ k ∈ absent, 8 <
           (s.chain (bucketOf k)).length + absent.countP (fun j => bucketOf j == bucketOf k)
         let pastEntries := s.entries.toList.countP (fun x => !x.occupied) < absent.length
         (pastQuota → refused 0 .quotaFull 0x10#7) ∧
         (¬ pastQuota → pastChain ∨ pastEntries → refused 0 .tableFull 0x10#7) ∧
         (¬ pastQuota → ¬ pastChain → ¬ pastEntries →
           (s.freeList.length < els.length → refused 0 .poolEmpty 0x10#7) ∧
           (els.length ≤ s.freeList.length →
             (281474976710655 < s.tokenCounter + els.length → refused 0 .tokensExhausted 0x40#7) ∧
             (s.tokenCounter + els.length ≤ 281474976710655 →
               ∃ u t, exec (.reqGroup l) s = .next t ∧ RequestBegun s u l r ∧
                 RequestAnswered s (els.foldl (fun acc el => acc.grantElement i el) u) t l r
                   ⟨.ok, (List.range els.length).flatMap
                     (fun n => beBytes 6 (s.tokenCounter + n))⟩)))))) ∧
  ∀ (s : State) (i : SlotIx) (el : GroupElement) (c : ClaimIx) (free : List ClaimIx),
    s.freeList = c :: free →
    (∀ e, s.lookup el.key = none → s.lowestFreeEntry = some e →
      LockCreated s (s.grantElement i el) i el.key el.mode e c) ∧
    ∀ e, s.lookup el.key = some e → el.mode = .shared →
      LockJoined s (s.grantElement i el) i el.key e c

/-- A request of one line leaves every other line as it is but for the notices on its list, and leaves the
host's side of the part alone. -/
def Obligations.RequestsLeaveOtherLinesAlone : Prop :=
  ∀ (s t : State) (l : LineIx) (kind : Byte), exec (requestCommand kind l) s = .next t →
    HostSideSame s t ∧
    (∀ m, m ≠ l → t.line m = { s.line m with notices := (t.line m).notices }) ∧
    (t.line l).config = (s.line l).config ∧ (t.line l).state = (s.line l).state ∧
    (t.line l).counters = (s.line l).counters ∧ (t.line l).causes = (s.line l).causes ∧
    (t.line l).masks = (s.line l).masks ∧
    (t.line l).transmitting = (s.line l).transmitting ∧
    (∀ n, (t.ns n).rules = (s.ns n).rules) ∧
    ∀ i, i ≠ slotOf l (stationOf i) →
      (t.session i).state = (s.session i).state ∧
      (t.session i).incarnation = (s.session i).incarnation ∧
      (t.session i).leaseDeadline = (s.session i).leaseDeadline ∧
      (t.session i).cache = (s.session i).cache

/-! ### Management commands -/

/-- R55, R58, R167, R168, R189: SET TOKEN BASE, START SERVICE, SUSPEND SERVICE and CLEAR SERVICE by the
service state, in the states in which each can be taken. -/
def Obligations.TokenBaseAndServiceCommands : Prop :=
  (∀ s : State, CommandOffered s 0x01#8 →
     let v := s.param 0 6
     let accepted := if s.service = .halted then v ≠ 0 else s.tokenCounter < v
     (accepted → ∃ t, exec .setTokenBase s = .next t ∧
       Completed { taken s with
         tokenCounter := v, tokenLoaded := true,
         deviceCauses := s.deviceCauses ||| (if 281474975662080 ≤ v then 0x40#7 else 0#7) } t .ok
         (beBytes 6 v ++ [1#8])) ∧
     (¬ accepted → ∃ t, exec .setTokenBase s = .next t ∧
       Completed (taken s) t .badValue
         (beBytes 6 s.tokenCounter ++ [if s.tokenLoaded then 1#8 else 0#8]))) ∧
  ∀ s : State,
    (CommandOffered s 0x02#8 →
      (s.service = .halted → s.tokenLoaded = false → ∃ t, exec .startService s = .next t ∧
        Completed (taken s) t .noTokenBase [0#8]) ∧
      ((s.service = .halted ∧ s.tokenLoaded = true) ∨ s.service = .running ∨
          s.service = .suspended →
        ∃ t, exec .startService s = .next t ∧
          Completed { taken s with service := .running } t .ok [1#8])) ∧
    (CommandOffered s 0x03#8 →
      (s.service = .halted → ∃ t, exec .suspendService s = .next t ∧
        Completed (taken s) t .badState [0#8]) ∧
      (s.service = .running ∨ s.service = .suspended →
        ∃ t, exec .suspendService s = .next t ∧
          Completed { taken s with service := .suspended } t .ok [2#8])) ∧
    (CommandOffered s 0x04#8 →
      (s.service = .suspended → exec .clearService s =
        .next { taken s with
          service := .clearing, clearSweep := true, clearSessions := 0, clearClaims := 0,
          clearEntries := 0, longCommand := some .clearService }) ∧
      (s.service = .halted ∨ s.service = .running →
        ∃ t, exec .clearService s = .next t ∧ Completed (taken s) t .badState []))

/-- R98, R103 to R105: DEFINE NAMESPACE and CHANGE NAMESPACE, each refusal in its order and each accepted
form. -/
def Obligations.NamespacesAreDefinedAndChanged : Prop :=
  ∀ s : State,
    (∀ c, (CommandOffered s 0x10#8 ∧ c = Instr.defineNamespace) ∨
        (CommandOffered s 0x11#8 ∧ c = .changeNamespace) → s.paramNs = none →
      ∃ t, exec c s = .next t ∧ Completed (taken s) t .badValue []) ∧
    ∀ n, s.paramNs = some n →
      let x := s.ns n
      let rules : NsRules := ⟨s.param 1 1, s.param 2 1, s.param 3 1, s.param 4 1, s.param 5 1,
        s.param 6 2⟩
      let fits := 1 ≤ rules.exclusiveLimit ∧ rules.exclusiveLimit ≤ rules.sharedLimit ∧
        rules.sharedLimit ≤ rules.queryLimit ∧ rules.queryLimit ≤ 7 ∧
        1 ≤ rules.sharerLimit ∧ rules.sharerLimit ≤ 16 ∧ rules.queueLimit ≤ 32 ∧
        1 ≤ rules.quota ∧ rules.quota ≤ 2048
      let allowed := x.occupied = 0 ∨
        (x.rules.sharerLimit ≤ rules.sharerLimit ∧ x.rules.queueLimit ≤ rules.queueLimit ∧
          rules.exclusiveLimit = x.rules.exclusiveLimit ∧
          rules.sharedLimit = x.rules.sharedLimit ∧ rules.queryLimit = x.rules.queryLimit ∧
          (x.rules.quota ≤ rules.quota ∨ x.occupied ≤ rules.quota))
      let becomes (c : Instr) (y : Namespace) (code : ResultCode) := ∃ v t, exec c s = .next t ∧
        v = { taken s with namespaces := v.namespaces } ∧ v.ns n = y ∧
        NamespacesSameBut [n] s v ∧ Completed v t code (descriptorBytes y)
      (CommandOffered s 0x10#8 →
        (x.state ≠ .disabled → becomes .defineNamespace x .badState) ∧
        (x.state = .disabled → ¬ fits → becomes .defineNamespace x .badValue) ∧
        (x.state = .disabled → fits →
          becomes .defineNamespace { x with rules := rules, state := .enabled } .ok)) ∧
      (CommandOffered s 0x11#8 →
        (x.state = .disabled → becomes .changeNamespace x .badState) ∧
        (x.state ≠ .disabled → ¬ fits → becomes .changeNamespace x .badValue) ∧
        (x.state ≠ .disabled → fits → ¬ allowed → becomes .changeNamespace x .inUse) ∧
        (x.state ≠ .disabled → fits → allowed →
          becomes .changeNamespace { x with rules := rules } .ok))

/-- R107, R108, R103: DISABLE NAMESPACE in its two forms, by the state of the namespace, and with a form
that is neither. Which row takes a form that is neither is the model's choice (notes/assumptions/5.md). -/
def Obligations.NamespacesAreDisabled : Prop :=
  (∀ (s : State) (c : Instr) (n : NsIx), CommandOffered s 0x12#8 →
    c = .disableNamespaceDrain ∨ c = .disableNamespaceRevoke → s.paramNs = some n →
    s.param 1 1 ≠ 1 → s.param 1 1 ≠ 2 → ∃ t, exec c s = .next t ∧
      Completed (taken s) t (if (s.ns n).state = .draining then .inUse else .badValue)
        (descriptorBytes (s.ns n))) ∧
  ∀ (s : State) (c : Instr), CommandOffered s 0x12#8 →
    (c = .disableNamespaceDrain ∧ s.param 1 1 = 1) ∨
      (c = .disableNamespaceRevoke ∧ s.param 1 1 = 2) →
    (s.paramNs = none → ∃ t, exec c s = .next t ∧ Completed (taken s) t .badValue []) ∧
    ∀ n, s.paramNs = some n →
      let x := s.ns n
      let same (code : ResultCode) := ∃ t, exec c s = .next t ∧
        Completed (taken s) t code (descriptorBytes x)
      (x.state = .disabled → same .ok) ∧ (x.state = .draining → same .inUse) ∧
      (x.state = .enabled → c = .disableNamespaceDrain → x.revokeSweep = false →
        (0 < x.occupied → ∃ v t, exec c s = .next t ∧
          v = { taken s with namespaces := v.namespaces } ∧
          v.ns n = { x with state := .draining } ∧ NamespacesSameBut [n] s v ∧
          Completed v t .ok (descriptorBytes { x with state := .draining })) ∧
        (x.occupied = 0 → ∃ v t, exec c s = .next t ∧
          v = { taken s with namespaces := v.namespaces,
                             deviceCauses := s.deviceCauses ||| 0x20#7 } ∧
          v.ns n = { x with state := .disabled } ∧ NamespacesSameBut [n] s v ∧
          Completed v t .ok (descriptorBytes { x with state := .disabled }))) ∧
      (x.state = .enabled → c = .disableNamespaceRevoke → ∃ t, exec c s = .next t ∧
        t = { taken s with namespaces := t.namespaces,
                           longCommand := some (.revokeNamespace n) } ∧
        t.ns n = { x with state := .draining, revokeSweep := true, scanIndex := 0,
                          sweepEntries := 0, sweepClaims := 0 } ∧
        NamespacesSameBut [n] s t)

/-- R88, R171: EVICT SESSION by the state of the session. -/
def Obligations.EvictionByTheSessionState : Prop :=
  ∀ s : State, CommandOffered s 0x20#8 →
    (s.paramSlot = none → ∃ t, exec .evictSession s = .next t ∧
      Completed (taken s) t .badValue []) ∧
    ∀ i, s.paramSlot = some i →
      let x := s.session i
      let report : List Byte := [byteOf i.val, x.incarnation, endCauseCode x.endCause]
      (x.state = .idle → ∃ t, exec .evictSession s = .next t ∧
        Completed (taken s) t .noSession report) ∧
      (x.state = .ending ∨ x.state = .ended → ∃ t, exec .evictSession s = .next t ∧
        Completed (taken s) t .alreadyEnding report) ∧
      (x.state = .opened → ∃ t, exec .evictSession s = .next t ∧
        t = { taken s with
          sessions := t.sessions, longCommand := some (.evict i),
          deadlines := s.deadlines.filter (fun d => !refersToLease i d.ref) } ∧
        t.session i = { x with
          state := .ending, endCause := .evicted, leaseDeadline := none,
          cache := { x.cache with valid := false }, endingSweep := .starting } ∧
        SessionsSameBut [i] s t)

/-- R173, R174, R189: the two inspecting commands change nothing but the mailbox and its result. -/
def Obligations.InspectionsReportAndChangeNothing : Prop :=
  ∀ s : State,
    (CommandOffered s 0x21#8 →
      (s.paramSlot = none → ∃ t, exec .inspectSession s = .next t ∧
        Completed (taken s) t .badValue []) ∧
      ∀ i, s.paramSlot = some i →
        let x := s.session i
        ∃ t, exec .inspectSession s = .next t ∧ Completed (taken s) t .ok
          ([match x.state with
            | .idle => 0#8
            | .opened => 1#8
            | .ending => 2#8
            | .ended => 3#8,
            x.incarnation, byteOf x.ring] ++ beBytes 2 x.lease ++
            beBytes 5 (match x.leaseDeadline with
              | none => 0
              | some d => d) ++ beBytes 2 x.heldCount ++ beBytes 2 x.waitingCount ++
            [x.noticeCounter, endCauseCode x.endCause,
              if x.noticeSuppressed then 1#8 else 0#8, if x.closeReply then 1#8 else 0#8] ++
            beBytes 5 s.time)) ∧
    (CommandOffered s 0x31#8 →
      (s.paramNs = none ∨ 15 < s.param 5 1 → ∃ t, exec .inspectLock s = .next t ∧
        Completed (taken s) t .badValue []) ∧
      ∀ n, s.paramNs = some n → s.param 5 1 ≤ 15 →
        let k : Key := ⟨n, BitVec.ofNat 32 (s.param 1 4)⟩
        let holder (c : ClaimIx) := byteOf (s.claim c).session.val :: beBytes 6 (s.claim c).token
        (s.lookup k = none → ∃ t, exec .inspectLock s = .next t ∧
          Completed (taken s) t .notFound []) ∧
        ∀ e, s.lookup k = some e →
          let x := s.entry e
          let shown := (x.holders.drop (s.param 5 1)).take 2
          ∃ t, exec .inspectLock s = .next t ∧ Completed (taken s) t .ok
            (beBytes 2 e.val ++
              [match x.mode with
                | .shared => 1#8
                | .exclusive => 2#8,
               byteOf x.holders.length, byteOf x.waiters.length,
               match x.upgrade with
                | none => 0xFF#8
                | some c => byteOf (s.claim c).session.val,
               byteOf shown.length] ++ shown.flatMap holder))

/-- R172: REVOKE LOCK. With scope HOLDERS every holder is revoked in grant order and a pass serves the
waiters; with scope ALL holders and waiters are revoked and the entry is retired (R10, R108). Which row
takes a scope that is neither is the model's choice (notes/assumptions/5.md). -/
def Obligations.LocksAreRevoked : Prop :=
  ∀ (s : State) (c : Instr), CommandOffered s 0x30#8 →
    (c = .revokeLockHolders ∨ c = .revokeLockAll →
      s.paramNs = none ∨ (s.param 5 1 ≠ 1 ∧ s.param 5 1 ≠ 2) →
      (c = .revokeLockHolders → s.param 5 1 ≠ 2) → (c = .revokeLockAll → s.param 5 1 ≠ 1) →
      ∃ t, exec c s = .next t ∧ Completed (taken s) t .badValue []) ∧
    ∀ n, s.paramNs = some n →
      let k : Key := ⟨n, BitVec.ofNat 32 (s.param 1 4)⟩
      ((c = .revokeLockHolders ∧ s.param 5 1 = 1) ∨ (c = .revokeLockAll ∧ s.param 5 1 = 2) →
        s.lookup k = none → ∃ t, exec c s = .next t ∧ Completed (taken s) t .notFound []) ∧
      ∀ e, s.lookup k = some e →
        let holders := (s.entry e).holders
        let waiters := (s.entry e).waiters
        (c = .revokeLockHolders → s.param 5 1 = 1 →
          let v := ((taken s).revokeClaims holders).grantPass e
          ∃ t, exec c s = .next t ∧ Completed v t .ok
            [byteOf holders.length, 0#8, byteOf (v.entry e).holders.length,
              if (v.entry e).occupied then 0#8 else 1#8]) ∧
        (c = .revokeLockAll → s.param 5 1 = 2 →
          let v := ((taken s).revokeClaims (holders ++ waiters)).retireEntry e
          ∃ t, exec c s = .next t ∧ EntryRetired ((taken s).revokeClaims (holders ++ waiters)) v e ∧
            Completed v t .ok [byteOf holders.length, byteOf waiters.length, 0#8, 1#8])

/-- R46: revoking a list of claims. Each leaves its lock; a claim named once that was HELD or WAITING
becomes DETACHED with a REVOKED notice if its session is OPEN, and is freed if not; REVOKES advances for
each; no token is issued. -/
def Obligations.RevokedClaimsAreDetachedOrFreed : Prop :=
  ∀ (s : State) (cs : List ClaimIx),
    let t := s.revokeClaims cs
    (∀ c ∈ cs, (t.claim c).state = .detached ∨ (t.claim c).state = .free) ∧
    (∀ c, c ∉ cs → t.claim c = s.claim c) ∧
    (∀ c, cs.count c = 1 → (s.claim c).state = .held ∨ (s.claim c).state = .waiting →
      t.claim c =
        if (s.session (s.claim c).session).state = .opened then
          { s.claim c with state := .detached, upgrade := false, waitDeadline := none,
                           notice := some .revoked }
        else { Claim.reset with useCount := (s.claim c).useCount }) ∧
    t.counters = { s.counters with revokes := countUp^[cs.length] s.counters.revokes } ∧
    t.tokenCounter = s.tokenCounter ∧ t.deviceCauses = s.deviceCauses ∧
    t.chains = s.chains ∧ t.namespaces = s.namespaces ∧ HostSideSame s t

/-- R144, R158, R189: LINE CONFIG and LINE ENABLE by the line's state; and a line number above 5 for all four
line commands. LINE CONFIG reads the divisor from parameter bytes 1 and 2, then parity, duplex, turnaround
gap, gap limit, ring floor and break action from one byte each, in the ranges of Table 8.1. -/
def Obligations.LinesAreConfiguredAndEnabled : Prop :=
  ∀ s : State,
    (∀ c, (CommandOffered s 0x40#8 ∧ c = Instr.lineConfig) ∨
        (CommandOffered s 0x41#8 ∧ c = .lineEnable) ∨
        (CommandOffered s 0x42#8 ∧ c = .lineDisable) ∨
        (CommandOffered s 0x43#8 ∧ c = .lineRestart) → s.paramLine = none →
      ∃ t, exec c s = .next t ∧ Completed (taken s) t .badValue []) ∧
    ∀ l, s.paramLine = some l →
      let ln := s.line l
      let code : Byte := match ln.state with
        | .disabled => 0#8
        | .active => 1#8
        | .restarting => 2#8
      let fits := 1 ≤ s.param 1 2 ∧ s.param 3 1 ≤ 2 ∧ s.param 4 1 ≤ 1 ∧
        1 ≤ s.param 5 1 ∧ s.param 5 1 ≤ 16 ∧ 2 ≤ s.param 6 1 ∧ s.param 6 1 ≤ 32 ∧
        1 ≤ s.param 7 1 ∧ s.param 7 1 ≤ 7 ∧ s.param 8 1 ≤ 1
      let config : LineConfig :=
        { divisor := s.param 1 2,
          parity := if s.param 3 1 = 0 then .none else if s.param 3 1 = 1 then .even else .odd,
          duplex := if s.param 4 1 = 0 then .full else .half,
          turnaround := s.param 5 1, gapLimit := s.param 6 1, ringFloor := s.param 7 1,
          breakAction := if s.param 8 1 = 0 then .ignore else .restart }
      (CommandOffered s 0x40#8 →
        (ln.state ≠ .disabled → ∃ t, exec .lineConfig s = .next t ∧
          Completed (taken s) t .badState [code]) ∧
        (ln.state = .disabled → ¬ fits → ∃ t, exec .lineConfig s = .next t ∧
          Completed (taken s) t .badValue [0#8]) ∧
        (ln.state = .disabled → fits → ∃ v t, exec .lineConfig s = .next t ∧
          OnlyLine (taken s) v l { ln with config := config } ∧ Completed v t .ok [0#8])) ∧
      (CommandOffered s 0x41#8 →
        (ln.state = .disabled → ∃ v t, exec .lineEnable s = .next t ∧
          OnlyLine (taken s) v l { ln with state := .active, assembler := .hunt } ∧
          Completed v t .ok [1#8]) ∧
        (ln.state = .active → ∃ t, exec .lineEnable s = .next t ∧
          Completed (taken s) t .ok [1#8]) ∧
        (ln.state = .restarting → ∃ t, exec .lineEnable s = .next t ∧
          Completed (taken s) t .badState [2#8]))

/-- R86, R95, R119, R155, R157, R158: LINE RESTART and LINE DISABLE. On an ACTIVE line the queues, the list
and the frame in progress are gone, its OPEN sessions end with LINE_RESTART and no notice, and the command
completes in the step exactly if every session of the line is then IDLE. LineRestarted says what becomes of
every session, claim, deadline and free record; no entry, chain or namespace changes. -/
def Obligations.LinesAreRestartedAndDisabled : Prop :=
  ∀ (s : State) (l : LineIx) (c : Instr) (fin : RestartEnd), s.paramLine = some l →
    (CommandOffered s 0x43#8 ∧ c = .lineRestart ∧ fin = .active) ∨
      (CommandOffered s 0x42#8 ∧ c = .lineDisable ∧ fin = .disabled) →
    let ln := s.line l
    (ln.state = .restarting → ∃ t, exec c s = .next t ∧
      Completed (taken s) t .badState [2#8]) ∧
    (ln.state = .disabled → ∃ t, exec c s = .next t ∧
      Completed (taken s) t (if fin = .active then .badState else .ok) [0#8]) ∧
    (ln.state = .active → ∃ v t, exec c s = .next t ∧
      v.line l = { ln with state := .restarting, restartEnd := fin, transmitting := none,
                           requests := [], assembler := .hunt, replies := [], notices := [] } ∧
      LinesSameBut [l] s v ∧
      v = { taken s with
        longCommand := some (.restartLine l), claims := v.claims, freeList := v.freeList,
        freeClaimCount := v.freeClaimCount, sessions := v.sessions, deadlines := v.deadlines,
        lines := v.lines } ∧
      LineRestarted s v l .lineRestart true ∧
      ((∀ i, lineOf i = l → (v.session i).state = .idle) →
        ∃ w, OnlyLine v w l { v.line l with state := match fin with
                                                     | .active => .active
                                                     | .disabled => .disabled } ∧
          Completed w t .ok [match fin with
            | .active => 1#8
            | .disabled => 0#8]) ∧
      (¬ (∀ i, lineOf i = l → (v.session i).state = .idle) → t = v))

/-- R175, R176, R177, R165: SET LEASE BOUNDS, SET POOL THRESHOLD, READ COUNTERS and a code that is in no
row of Table 9.2. -/
def Obligations.SettingsCountersAndUnknownCodes : Prop :=
  ∀ s : State,
    (CommandOffered s 0x50#8 →
      let lo := s.param 0 2
      let hi := s.param 2 2
      (50 ≤ lo ∧ lo ≤ hi → ∃ t, exec .setLeaseBounds s = .next t ∧
        Completed { taken s with leaseMin := lo, leaseMax := hi } t .ok
          (beBytes 2 lo ++ beBytes 2 hi)) ∧
      (¬ (50 ≤ lo ∧ lo ≤ hi) → ∃ t, exec .setLeaseBounds s = .next t ∧
        Completed (taken s) t .badValue (beBytes 2 s.leaseMin ++ beBytes 2 s.leaseMax))) ∧
    (CommandOffered s 0x51#8 →
      let n := s.param 0 2
      (n ≤ 4096 → ∃ t, exec .setPoolThreshold s = .next t ∧
        Completed { taken s with
          poolThreshold := n,
          deviceCauses := s.deviceCauses ||| (if s.freeClaimCount < n then 0x08#7 else 0#7) } t .ok
          (beBytes 2 n ++ beBytes 2 s.freeClaimCount)) ∧
      (4096 < n → ∃ t, exec .setPoolThreshold s = .next t ∧
        Completed (taken s) t .badValue
          (beBytes 2 s.poolThreshold ++ beBytes 2 s.freeClaimCount))) ∧
    (CommandOffered s 0x60#8 →
      (∀ l, s.paramLine = some l →
        let k := (s.line l).counters
        ∃ v t, exec .readCounters s = .next t ∧
          OnlyLine (taken s) v l { s.line l with counters := ⟨0, 0, 0, 0, 0, 0, 0, 0⟩ } ∧
          Completed v t .ok (beBytes 2 k.good ++ beBytes 2 k.crc ++ beBytes 2 k.truncated ++
            beBytes 2 k.badLength ++ beBytes 2 k.badVersion ++ beBytes 2 k.charError ++
            beBytes 2 k.queueDrop ++ beBytes 2 k.brk)) ∧
      (s.param 0 1 = 6 → ∃ t, exec .readCounters s = .next t ∧
        Completed { taken s with counters := ⟨0, 0, 0, 0, 0⟩ } t .ok
          (beBytes 2 s.counters.grants ++ beBytes 2 s.counters.refusals ++
            beBytes 2 s.counters.leaseExpiries ++ beBytes 2 s.counters.waitExpiries ++
            beBytes 2 s.counters.revokes)) ∧
      (6 < s.param 0 1 → ∃ t, exec .readCounters s = .next t ∧
        Completed (taken s) t .badValue [])) ∧
    (s.arbiterChoice = some srcManagement →
      s.commandCode ∉ [0x01#8, 0x02#8, 0x03#8, 0x04#8, 0x10#8, 0x11#8, 0x12#8, 0x20#8, 0x21#8,
        0x30#8, 0x31#8, 0x40#8, 0x41#8, 0x42#8, 0x43#8, 0x50#8, 0x51#8, 0x60#8] →
      ∃ t, exec .unknownCommand s = .next t ∧ Completed (taken s) t .unknownCommand [])

/-! ### Sweeps -/

/-- R89, R90: a claim step of an ending sweep takes back the first WAITING claim, else the first
DETACHED, else the oldest HELD one, and the sweep's first step also clears the session's other pending
upgrades. That it clears all of them, in claim-list order, is notes/assumptions/11.md (DEDUCED). -/
def Obligations.EndingSweepTakesBackOneClaim : Prop :=
  ∀ (s : State) (i : SlotIx) (before after : List ClaimIx) (c : ClaimIx),
    SweepOffered s (sweepEnding i) →
    let list := (s.session i).claimList
    let st := (s.claim c).state
    list = before ++ c :: after → (∀ d ∈ before, (s.claim d).state ≠ st) →
    st = .waiting ∨ (st = .detached ∧ ∀ d ∈ list, (s.claim d).state ≠ .waiting) ∨
      (st = .held ∧ ∀ d ∈ list, (s.claim d).state ≠ .waiting ∧ (s.claim d).state ≠ .detached) →
    let upgrades := if (s.session i).endingSweep = .starting then
      list.filter (fun d => decide (d ≠ c ∧ (s.claim d).state = .held ∧
        (s.entry (s.claim d).entry).upgrade = some d)) else []
    ∃ u, u = { swept s (sweepEnding i) with sessions := u.sessions } ∧
      u.session i = { s.session i with endingSweep := .running } ∧ SessionsSameBut [i] s u ∧
      exec (.endingSweepStep i) s = .next
        (upgrades.foldl
          (fun acc d => (acc.clearUpgrade (acc.claim d).entry d).grantPass (acc.claim d).entry)
          (if st = .detached then u.freeClaim c
            else (u.freeClaim c).grantPass (s.claim c).entry))

/-- R91, R88, R157: the final step of an ending sweep, with the reply of a pending CLOSE, the SESSION_ENDED
item, and the completion of an eviction or of a line restart that waited for it. -/
def Obligations.EndingSweepFinalStepEndsTheSession : Prop :=
  ∀ (s : State) (i : SlotIx), SweepOffered s (sweepEnding i) →
    (s.session i).claimList = [] →
    let x := s.session i
    let l := lineOf i
    let ln := s.line l
    let told := (x.endCause = .leaseExpired ∨ x.endCause = .evicted ∨ x.endCause = .lineBreak) ∧
      x.noticeSuppressed = false ∧ ln.state = .active
    x.endCause ≠ .none →
    ∃ w t, exec (.endingSweepFinalStep i) s = .next t ∧
      w = { swept s (sweepEnding i) with sessions := w.sessions, lines := w.lines } ∧
      w.session i = { x with
        endingSweep := .inactive, state := (w.session i).state,
        closeReply := if x.endCause = .closed then false else x.closeReply } ∧
      SessionsSameBut [i] s w ∧ LinesSameBut [l] s w ∧
      (x.endCause = .closed → (w.session i).state = .idle ∧
        w.line l = { ln with
          replies := if x.closeReply = true then
              fillReserved (stationOf i) ⟨x.incarnation, .ok, x.noticeCounter, []⟩ ln.replies
            else ln.replies }) ∧
      (told → (w.session i).state = .ended ∧
        w.line l = { ln with notices := ln.notices ++ [.sessionEnded i] }) ∧
      (x.endCause ≠ .closed → ¬ told → (w.session i).state = .idle ∧ w.line l = ln) ∧
      (x.endCause = .evicted → s.longCommand = some (.evict i) →
        Completed w t .ok [byteOf i.val, x.incarnation, 3#8]) ∧
      (s.longCommand = some (.restartLine l) →
        (∀ j, lineOf j = l → (w.session j).state = .idle) →
        ∃ y, OnlyLine w y l { w.line l with state := match ln.restartEnd with
                                                     | .active => .active
                                                     | .disabled => .disabled } ∧
          Completed y t .ok [match ln.restartEnd with
            | .active => 1#8
            | .disabled => 0#8]) ∧
      (¬ (x.endCause = .evicted ∧ s.longCommand = some (.evict i)) →
        ¬ (s.longCommand = some (.restartLine l) ∧
          ∀ j, lineOf j = l → (w.session j).state = .idle) → t = w)

/-- R109 to R111, with R10: a revoke step takes back the lowest occupied entry of its namespace at or above
the scan index and retires it, and the final step closes the namespace and completes the command. -/
def Obligations.RevokeSweepSteps : Prop :=
  ∀ (s : State) (n : NsIx), SweepOffered s (sweepRevoke n) →
    let matching (e : EntryIx) := (s.entry e).occupied = true ∧ (s.entry e).key.ns = n ∧
      (s.ns n).scanIndex ≤ e.val
    (∀ e : EntryIx, matching e → (∀ d : EntryIx, d < e → ¬ matching d) →
      let claims := (s.entry e).holders ++ (s.entry e).waiters
      let u := (swept s (sweepRevoke n)).revokeClaims claims
      let v := u.retireEntry e
      ∃ t, exec (.revokeSweepStep n) s = .next t ∧ t = { v with namespaces := t.namespaces } ∧
        t.ns n = { v.ns n with
          scanIndex := e.val + 1, sweepEntries := (s.ns n).sweepEntries + 1,
          sweepClaims := (s.ns n).sweepClaims + claims.length } ∧
        NamespacesSameBut [n] v t ∧ EntryRetired u v e) ∧
    ((∀ e : EntryIx, ¬ matching e) →
      let x := s.ns n
      ∃ v t, exec (.revokeSweepFinalStep n) s = .next t ∧
        v = { swept s (sweepRevoke n) with namespaces := v.namespaces } ∧
        v.ns n = { x with state := .disabled, revokeSweep := false, scanIndex := 0,
                          sweepEntries := 0, sweepClaims := 0 } ∧
        NamespacesSameBut [n] s v ∧
        Completed v t .ok (descriptorBytes { x with state := .disabled } ++
          beBytes 2 x.sweepEntries ++ beBytes 2 x.sweepClaims))

/-- R96, R169: a clear step ends the lowest session that is not IDLE and frees every claim on its list;
it issues no token, advances no counter and leaves the other sessions' states alone. The slot reserved for
a pending CLOSE is filled with OK, and every other reply of every line stays. R17, R50, R53, R108, R119: under
the laws of the lock table the entries, claims, counts, namespaces, deadlines and notices are left as
SessionCleared says. R170, R13, R126: the final step empties the expiry queue, puts service into SUSPENDED
and completes the command. The counts reported are those of notes/assumptions/19.md (DEDUCED). -/
def Obligations.ClearSweepSteps : Prop :=
  (∀ (s : State) (i : SlotIx), SweepOffered s sweepClear → (s.session i).state ≠ .idle →
     (∀ j : SlotIx, j < i → (s.session j).state = .idle) →
     let x := s.session i
     ∃ t, exec .clearStep s = .next t ∧
       t = { s with
         entries := t.entries, chains := t.chains, namespaces := t.namespaces,
         freeEntryCount := t.freeEntryCount, arbiterLast := srcSweep, sweepLast := sweepClear,
         claims := t.claims, freeList := t.freeList, freeClaimCount := t.freeClaimCount,
         sessions := t.sessions, deadlines := t.deadlines, lines := t.lines,
         deviceCauses := t.deviceCauses, clearSessions := s.clearSessions + 1,
         clearClaims := s.clearClaims + (t.freeClaimCount - s.freeClaimCount),
         clearEntries := s.clearEntries + (t.freeEntryCount - s.freeEntryCount) } ∧
       (t.session i).state = .idle ∧
       (t.session i).endCause = (if x.state = .opened then .serviceClear else x.endCause) ∧
       (t.session i).leaseDeadline = none ∧ (t.session i).cache.valid = false ∧
       (t.session i).closeReply = false ∧ (t.session i).endingSweep = .inactive ∧
       (t.session i).incarnation = x.incarnation ∧ (t.session i).ring = x.ring ∧
       (t.session i).lease = x.lease ∧ (t.session i).noticeCounter = x.noticeCounter ∧
       (t.session i).noticeSuppressed = x.noticeSuppressed ∧
       (∀ c ∈ x.claimList, (t.claim c).state = .free ∧
         ((s.claim c).state ≠ .free → (t.claim c).notice = none)) ∧
       (∀ j, j ≠ i → t.session j = { s.session j with
         claimList := (t.session j).claimList, heldCount := (t.session j).heldCount,
         waitingCount := (t.session j).waitingCount }) ∧
       (∀ d ∈ t.deadlines, d.ref ≠ .lease i) ∧
       .sessionEnded i ∉ (t.line (lineOf i)).notices ∧
       (∀ l, t.line l = { s.line l with replies := (t.line l).replies,
                                        notices := (t.line l).notices }) ∧
       (∀ n, (t.ns n).rules = (s.ns n).rules) ∧
       (∀ l, l ≠ lineOf i ∨ x.closeReply = false → (t.line l).replies = (s.line l).replies) ∧
       (x.closeReply = true →
         let reserved (y : ReplySlot) : Prop := y.station = stationOf i ∧ y.content = none
         let slots := (s.line (lineOf i)).replies
         ((∀ y ∈ slots, ¬ reserved y) → (t.line (lineOf i)).replies = slots) ∧
         ∀ before y after, slots = before ++ y :: after → reserved y → (∀ z ∈ after, ¬ reserved z) →
           (t.line (lineOf i)).replies =
             before ++ { y with content := some ⟨x.incarnation, .ok, x.noticeCounter, []⟩ } :: after) ∧
       (LockTableLaws s → SessionCleared s t i)) ∧
  ∀ s : State, SweepOffered s sweepClear → (∀ i, (s.session i).state = .idle) →
    ∃ v t, exec .clearSweepFinalStep s = .next t ∧
      v = { swept s sweepClear with expiries := [], clearSweep := false, service := .suspended,
                                    namespaces := v.namespaces } ∧
      (∀ n, v.ns n = { s.ns n with occupied := 0 }) ∧
      Completed v t .ok
        ([byteOf s.clearSessions] ++ beBytes 2 s.clearClaims ++ beBytes 2 s.clearEntries)

/-! ### Invariants -/

/-- Device reset leaves a state that meets every invariant below. That no long command is in progress and no
sweep is active then, which TokenCounterLaw, LongCommandLaw and LockTableLaws use, are reset values of the
model's own (notes/assumptions/21.md, DESIGN CHOICE). -/
def Obligations.ResetMeetsTheInvariants : Prop :=
  QueuesBounded State.reset ∧ SettingsInRange State.reset ∧ DeadlinesOrdered State.reset ∧
    TokenCounterLaw State.reset ∧ FreeCountMatches State.reset ∧ LongCommandLaw State.reset ∧
    LockTableLaws State.reset

/-- R121, R150, R151: every command keeps the request, reply and expiry queues within their room. -/
def Obligations.EveryStepKeepsQueuesBounded : Prop :=
  ∀ s t : State, QueuesBounded s → step s = .next t → QueuesBounded t

/-- R98, R116, R144: every command keeps the settings in their ranges. -/
def Obligations.EveryStepKeepsSettingsInRange : Prop :=
  ∀ s t : State, SettingsInRange s → step s = .next t → SettingsInRange t

/-- R114, R117: every command keeps the deadline list in order and every time within the counter. -/
def Obligations.EveryStepKeepsDeadlinesOrdered : Prop :=
  ∀ s t : State, DeadlinesOrdered s → step s = .next t → DeadlinesOrdered t

/-- R54: every command keeps the law of the token counter. -/
def Obligations.EveryStepKeepsTheTokenCounterLaw : Prop :=
  ∀ s t : State, TokenCounterLaw s → step s = .next t → TokenCounterLaw t

/-- R56: while service is not HALTED no command but device reset lowers the token counter, and only device
reset returns the part to HALTED (R166). -/
def Obligations.TokensNeverDecreaseInService : Prop :=
  ∀ (c : Instr) (s t : State), c ≠ .deviceReset → exec c s = .next t → s.service ≠ .halted →
    s.tokenCounter ≤ t.tokenCounter ∧ t.service ≠ .halted

/-- R24 to R26: every command keeps the free claim count at the length of the free list. R164, R165,
R168, R170: every command keeps a long command in progress exactly while the mailbox is BUSY and taken,
and the clear sweep active exactly while service is CLEARING. The long command is the model's own field
(notes/assumptions/21.md). R5, R12, R13, R14, R27, R30, R73: every command keeps the laws of the lock table,
the claim pool and the claim lists. -/
def Obligations.EveryStepKeepsTheBookkeeping : Prop :=
  (∀ s t : State, FreeCountMatches s → step s = .next t → FreeCountMatches t) ∧
  (∀ s t : State, LongCommandLaw s → step s = .next t → LongCommandLaw t) ∧
  ∀ s t : State, LockTableLaws s → step s = .next t → LockTableLaws t
end

