-- ==== Sys2Proof/Laws/State.lean ====
section
/-!
SUPPORT. The small lemmas of the state's updates: one per field per update, true by unfolding, and the
reading of one record after the change of one record.
-/

namespace Sys2Proof.Machine

variable (s : State)

/-! ### updEntry -/

@[simp] theorem State.updEntry_pending (e : EntryIx) (f : Entry → Entry) : (s.updEntry e f).pending = s.pending := rfl
@[simp] theorem State.updEntry_chains (e : EntryIx) (f : Entry → Entry) : (s.updEntry e f).chains = s.chains := rfl
@[simp] theorem State.updEntry_tokenCounter (e : EntryIx) (f : Entry → Entry) : (s.updEntry e f).tokenCounter = s.tokenCounter := rfl
@[simp] theorem State.updEntry_tokenLoaded (e : EntryIx) (f : Entry → Entry) : (s.updEntry e f).tokenLoaded = s.tokenLoaded := rfl
@[simp] theorem State.updEntry_freeEntryCount (e : EntryIx) (f : Entry → Entry) : (s.updEntry e f).freeEntryCount = s.freeEntryCount := rfl
@[simp] theorem State.updEntry_arbiterLast (e : EntryIx) (f : Entry → Entry) : (s.updEntry e f).arbiterLast = s.arbiterLast := rfl
@[simp] theorem State.updEntry_sweepLast (e : EntryIx) (f : Entry → Entry) : (s.updEntry e f).sweepLast = s.sweepLast := rfl
@[simp] theorem State.updEntry_claims (e : EntryIx) (f : Entry → Entry) : (s.updEntry e f).claims = s.claims := rfl
@[simp] theorem State.updEntry_freeList (e : EntryIx) (f : Entry → Entry) : (s.updEntry e f).freeList = s.freeList := rfl
@[simp] theorem State.updEntry_freeClaimCount (e : EntryIx) (f : Entry → Entry) : (s.updEntry e f).freeClaimCount = s.freeClaimCount := rfl
@[simp] theorem State.updEntry_sessions (e : EntryIx) (f : Entry → Entry) : (s.updEntry e f).sessions = s.sessions := rfl
@[simp] theorem State.updEntry_namespaces (e : EntryIx) (f : Entry → Entry) : (s.updEntry e f).namespaces = s.namespaces := rfl
@[simp] theorem State.updEntry_divider (e : EntryIx) (f : Entry → Entry) : (s.updEntry e f).divider = s.divider := rfl
@[simp] theorem State.updEntry_time (e : EntryIx) (f : Entry → Entry) : (s.updEntry e f).time = s.time := rfl
@[simp] theorem State.updEntry_deadlines (e : EntryIx) (f : Entry → Entry) : (s.updEntry e f).deadlines = s.deadlines := rfl
@[simp] theorem State.updEntry_expiries (e : EntryIx) (f : Entry → Entry) : (s.updEntry e f).expiries = s.expiries := rfl
@[simp] theorem State.updEntry_lines (e : EntryIx) (f : Entry → Entry) : (s.updEntry e f).lines = s.lines := rfl
@[simp] theorem State.updEntry_service (e : EntryIx) (f : Entry → Entry) : (s.updEntry e f).service = s.service := rfl
@[simp] theorem State.updEntry_mailbox (e : EntryIx) (f : Entry → Entry) : (s.updEntry e f).mailbox = s.mailbox := rfl
@[simp] theorem State.updEntry_commandCode (e : EntryIx) (f : Entry → Entry) : (s.updEntry e f).commandCode = s.commandCode := rfl
@[simp] theorem State.updEntry_longCommand (e : EntryIx) (f : Entry → Entry) : (s.updEntry e f).longCommand = s.longCommand := rfl
@[simp] theorem State.updEntry_resultCode (e : EntryIx) (f : Entry → Entry) : (s.updEntry e f).resultCode = s.resultCode := rfl
@[simp] theorem State.updEntry_params (e : EntryIx) (f : Entry → Entry) : (s.updEntry e f).params = s.params := rfl
@[simp] theorem State.updEntry_result (e : EntryIx) (f : Entry → Entry) : (s.updEntry e f).result = s.result := rfl
@[simp] theorem State.updEntry_spiWrite (e : EntryIx) (f : Entry → Entry) : (s.updEntry e f).spiWrite = s.spiWrite := rfl
@[simp] theorem State.updEntry_leaseMin (e : EntryIx) (f : Entry → Entry) : (s.updEntry e f).leaseMin = s.leaseMin := rfl
@[simp] theorem State.updEntry_leaseMax (e : EntryIx) (f : Entry → Entry) : (s.updEntry e f).leaseMax = s.leaseMax := rfl
@[simp] theorem State.updEntry_poolThreshold (e : EntryIx) (f : Entry → Entry) : (s.updEntry e f).poolThreshold = s.poolThreshold := rfl
@[simp] theorem State.updEntry_clearSweep (e : EntryIx) (f : Entry → Entry) : (s.updEntry e f).clearSweep = s.clearSweep := rfl
@[simp] theorem State.updEntry_clearSessions (e : EntryIx) (f : Entry → Entry) : (s.updEntry e f).clearSessions = s.clearSessions := rfl
@[simp] theorem State.updEntry_clearClaims (e : EntryIx) (f : Entry → Entry) : (s.updEntry e f).clearClaims = s.clearClaims := rfl
@[simp] theorem State.updEntry_clearEntries (e : EntryIx) (f : Entry → Entry) : (s.updEntry e f).clearEntries = s.clearEntries := rfl
@[simp] theorem State.updEntry_deviceCauses (e : EntryIx) (f : Entry → Entry) : (s.updEntry e f).deviceCauses = s.deviceCauses := rfl
@[simp] theorem State.updEntry_deviceMask (e : EntryIx) (f : Entry → Entry) : (s.updEntry e f).deviceMask = s.deviceMask := rfl
@[simp] theorem State.updEntry_counters (e : EntryIx) (f : Entry → Entry) : (s.updEntry e f).counters = s.counters := rfl
@[simp] theorem State.updEntry_claim (e : EntryIx) (f : Entry → Entry) (j : ClaimIx) : (s.updEntry e f).claim j = s.claim j := rfl
@[simp] theorem State.updEntry_session (e : EntryIx) (f : Entry → Entry) (j : SlotIx) : (s.updEntry e f).session j = s.session j := rfl
@[simp] theorem State.updEntry_ns (e : EntryIx) (f : Entry → Entry) (j : NsIx) : (s.updEntry e f).ns j = s.ns j := rfl
@[simp] theorem State.updEntry_line (e : EntryIx) (f : Entry → Entry) (j : LineIx) : (s.updEntry e f).line j = s.line j := rfl
@[simp] theorem State.updEntry_chain (e : EntryIx) (f : Entry → Entry) (j : BucketIx) : (s.updEntry e f).chain j = s.chain j := rfl

/-! ### updClaim -/

@[simp] theorem State.updClaim_pending (c : ClaimIx) (f : Claim → Claim) : (s.updClaim c f).pending = s.pending := rfl
@[simp] theorem State.updClaim_entries (c : ClaimIx) (f : Claim → Claim) : (s.updClaim c f).entries = s.entries := rfl
@[simp] theorem State.updClaim_chains (c : ClaimIx) (f : Claim → Claim) : (s.updClaim c f).chains = s.chains := rfl
@[simp] theorem State.updClaim_tokenCounter (c : ClaimIx) (f : Claim → Claim) : (s.updClaim c f).tokenCounter = s.tokenCounter := rfl
@[simp] theorem State.updClaim_tokenLoaded (c : ClaimIx) (f : Claim → Claim) : (s.updClaim c f).tokenLoaded = s.tokenLoaded := rfl
@[simp] theorem State.updClaim_freeEntryCount (c : ClaimIx) (f : Claim → Claim) : (s.updClaim c f).freeEntryCount = s.freeEntryCount := rfl
@[simp] theorem State.updClaim_arbiterLast (c : ClaimIx) (f : Claim → Claim) : (s.updClaim c f).arbiterLast = s.arbiterLast := rfl
@[simp] theorem State.updClaim_sweepLast (c : ClaimIx) (f : Claim → Claim) : (s.updClaim c f).sweepLast = s.sweepLast := rfl
@[simp] theorem State.updClaim_freeList (c : ClaimIx) (f : Claim → Claim) : (s.updClaim c f).freeList = s.freeList := rfl
@[simp] theorem State.updClaim_freeClaimCount (c : ClaimIx) (f : Claim → Claim) : (s.updClaim c f).freeClaimCount = s.freeClaimCount := rfl
@[simp] theorem State.updClaim_sessions (c : ClaimIx) (f : Claim → Claim) : (s.updClaim c f).sessions = s.sessions := rfl
@[simp] theorem State.updClaim_namespaces (c : ClaimIx) (f : Claim → Claim) : (s.updClaim c f).namespaces = s.namespaces := rfl
@[simp] theorem State.updClaim_divider (c : ClaimIx) (f : Claim → Claim) : (s.updClaim c f).divider = s.divider := rfl
@[simp] theorem State.updClaim_time (c : ClaimIx) (f : Claim → Claim) : (s.updClaim c f).time = s.time := rfl
@[simp] theorem State.updClaim_deadlines (c : ClaimIx) (f : Claim → Claim) : (s.updClaim c f).deadlines = s.deadlines := rfl
@[simp] theorem State.updClaim_expiries (c : ClaimIx) (f : Claim → Claim) : (s.updClaim c f).expiries = s.expiries := rfl
@[simp] theorem State.updClaim_lines (c : ClaimIx) (f : Claim → Claim) : (s.updClaim c f).lines = s.lines := rfl
@[simp] theorem State.updClaim_service (c : ClaimIx) (f : Claim → Claim) : (s.updClaim c f).service = s.service := rfl
@[simp] theorem State.updClaim_mailbox (c : ClaimIx) (f : Claim → Claim) : (s.updClaim c f).mailbox = s.mailbox := rfl
@[simp] theorem State.updClaim_commandCode (c : ClaimIx) (f : Claim → Claim) : (s.updClaim c f).commandCode = s.commandCode := rfl
@[simp] theorem State.updClaim_longCommand (c : ClaimIx) (f : Claim → Claim) : (s.updClaim c f).longCommand = s.longCommand := rfl
@[simp] theorem State.updClaim_resultCode (c : ClaimIx) (f : Claim → Claim) : (s.updClaim c f).resultCode = s.resultCode := rfl
@[simp] theorem State.updClaim_params (c : ClaimIx) (f : Claim → Claim) : (s.updClaim c f).params = s.params := rfl
@[simp] theorem State.updClaim_result (c : ClaimIx) (f : Claim → Claim) : (s.updClaim c f).result = s.result := rfl
@[simp] theorem State.updClaim_spiWrite (c : ClaimIx) (f : Claim → Claim) : (s.updClaim c f).spiWrite = s.spiWrite := rfl
@[simp] theorem State.updClaim_leaseMin (c : ClaimIx) (f : Claim → Claim) : (s.updClaim c f).leaseMin = s.leaseMin := rfl
@[simp] theorem State.updClaim_leaseMax (c : ClaimIx) (f : Claim → Claim) : (s.updClaim c f).leaseMax = s.leaseMax := rfl
@[simp] theorem State.updClaim_poolThreshold (c : ClaimIx) (f : Claim → Claim) : (s.updClaim c f).poolThreshold = s.poolThreshold := rfl
@[simp] theorem State.updClaim_clearSweep (c : ClaimIx) (f : Claim → Claim) : (s.updClaim c f).clearSweep = s.clearSweep := rfl
@[simp] theorem State.updClaim_clearSessions (c : ClaimIx) (f : Claim → Claim) : (s.updClaim c f).clearSessions = s.clearSessions := rfl
@[simp] theorem State.updClaim_clearClaims (c : ClaimIx) (f : Claim → Claim) : (s.updClaim c f).clearClaims = s.clearClaims := rfl
@[simp] theorem State.updClaim_clearEntries (c : ClaimIx) (f : Claim → Claim) : (s.updClaim c f).clearEntries = s.clearEntries := rfl
@[simp] theorem State.updClaim_deviceCauses (c : ClaimIx) (f : Claim → Claim) : (s.updClaim c f).deviceCauses = s.deviceCauses := rfl
@[simp] theorem State.updClaim_deviceMask (c : ClaimIx) (f : Claim → Claim) : (s.updClaim c f).deviceMask = s.deviceMask := rfl
@[simp] theorem State.updClaim_counters (c : ClaimIx) (f : Claim → Claim) : (s.updClaim c f).counters = s.counters := rfl
@[simp] theorem State.updClaim_entry (c : ClaimIx) (f : Claim → Claim) (j : EntryIx) : (s.updClaim c f).entry j = s.entry j := rfl
@[simp] theorem State.updClaim_session (c : ClaimIx) (f : Claim → Claim) (j : SlotIx) : (s.updClaim c f).session j = s.session j := rfl
@[simp] theorem State.updClaim_ns (c : ClaimIx) (f : Claim → Claim) (j : NsIx) : (s.updClaim c f).ns j = s.ns j := rfl
@[simp] theorem State.updClaim_line (c : ClaimIx) (f : Claim → Claim) (j : LineIx) : (s.updClaim c f).line j = s.line j := rfl
@[simp] theorem State.updClaim_chain (c : ClaimIx) (f : Claim → Claim) (j : BucketIx) : (s.updClaim c f).chain j = s.chain j := rfl

/-! ### updSession -/

@[simp] theorem State.updSession_pending (i : SlotIx) (f : Session → Session) : (s.updSession i f).pending = s.pending := rfl
@[simp] theorem State.updSession_entries (i : SlotIx) (f : Session → Session) : (s.updSession i f).entries = s.entries := rfl
@[simp] theorem State.updSession_chains (i : SlotIx) (f : Session → Session) : (s.updSession i f).chains = s.chains := rfl
@[simp] theorem State.updSession_tokenCounter (i : SlotIx) (f : Session → Session) : (s.updSession i f).tokenCounter = s.tokenCounter := rfl
@[simp] theorem State.updSession_tokenLoaded (i : SlotIx) (f : Session → Session) : (s.updSession i f).tokenLoaded = s.tokenLoaded := rfl
@[simp] theorem State.updSession_freeEntryCount (i : SlotIx) (f : Session → Session) : (s.updSession i f).freeEntryCount = s.freeEntryCount := rfl
@[simp] theorem State.updSession_arbiterLast (i : SlotIx) (f : Session → Session) : (s.updSession i f).arbiterLast = s.arbiterLast := rfl
@[simp] theorem State.updSession_sweepLast (i : SlotIx) (f : Session → Session) : (s.updSession i f).sweepLast = s.sweepLast := rfl
@[simp] theorem State.updSession_claims (i : SlotIx) (f : Session → Session) : (s.updSession i f).claims = s.claims := rfl
@[simp] theorem State.updSession_freeList (i : SlotIx) (f : Session → Session) : (s.updSession i f).freeList = s.freeList := rfl
@[simp] theorem State.updSession_freeClaimCount (i : SlotIx) (f : Session → Session) : (s.updSession i f).freeClaimCount = s.freeClaimCount := rfl
@[simp] theorem State.updSession_namespaces (i : SlotIx) (f : Session → Session) : (s.updSession i f).namespaces = s.namespaces := rfl
@[simp] theorem State.updSession_divider (i : SlotIx) (f : Session → Session) : (s.updSession i f).divider = s.divider := rfl
@[simp] theorem State.updSession_time (i : SlotIx) (f : Session → Session) : (s.updSession i f).time = s.time := rfl
@[simp] theorem State.updSession_deadlines (i : SlotIx) (f : Session → Session) : (s.updSession i f).deadlines = s.deadlines := rfl
@[simp] theorem State.updSession_expiries (i : SlotIx) (f : Session → Session) : (s.updSession i f).expiries = s.expiries := rfl
@[simp] theorem State.updSession_lines (i : SlotIx) (f : Session → Session) : (s.updSession i f).lines = s.lines := rfl
@[simp] theorem State.updSession_service (i : SlotIx) (f : Session → Session) : (s.updSession i f).service = s.service := rfl
@[simp] theorem State.updSession_mailbox (i : SlotIx) (f : Session → Session) : (s.updSession i f).mailbox = s.mailbox := rfl
@[simp] theorem State.updSession_commandCode (i : SlotIx) (f : Session → Session) : (s.updSession i f).commandCode = s.commandCode := rfl
@[simp] theorem State.updSession_longCommand (i : SlotIx) (f : Session → Session) : (s.updSession i f).longCommand = s.longCommand := rfl
@[simp] theorem State.updSession_resultCode (i : SlotIx) (f : Session → Session) : (s.updSession i f).resultCode = s.resultCode := rfl
@[simp] theorem State.updSession_params (i : SlotIx) (f : Session → Session) : (s.updSession i f).params = s.params := rfl
@[simp] theorem State.updSession_result (i : SlotIx) (f : Session → Session) : (s.updSession i f).result = s.result := rfl
@[simp] theorem State.updSession_spiWrite (i : SlotIx) (f : Session → Session) : (s.updSession i f).spiWrite = s.spiWrite := rfl
@[simp] theorem State.updSession_leaseMin (i : SlotIx) (f : Session → Session) : (s.updSession i f).leaseMin = s.leaseMin := rfl
@[simp] theorem State.updSession_leaseMax (i : SlotIx) (f : Session → Session) : (s.updSession i f).leaseMax = s.leaseMax := rfl
@[simp] theorem State.updSession_poolThreshold (i : SlotIx) (f : Session → Session) : (s.updSession i f).poolThreshold = s.poolThreshold := rfl
@[simp] theorem State.updSession_clearSweep (i : SlotIx) (f : Session → Session) : (s.updSession i f).clearSweep = s.clearSweep := rfl
@[simp] theorem State.updSession_clearSessions (i : SlotIx) (f : Session → Session) : (s.updSession i f).clearSessions = s.clearSessions := rfl
@[simp] theorem State.updSession_clearClaims (i : SlotIx) (f : Session → Session) : (s.updSession i f).clearClaims = s.clearClaims := rfl
@[simp] theorem State.updSession_clearEntries (i : SlotIx) (f : Session → Session) : (s.updSession i f).clearEntries = s.clearEntries := rfl
@[simp] theorem State.updSession_deviceCauses (i : SlotIx) (f : Session → Session) : (s.updSession i f).deviceCauses = s.deviceCauses := rfl
@[simp] theorem State.updSession_deviceMask (i : SlotIx) (f : Session → Session) : (s.updSession i f).deviceMask = s.deviceMask := rfl
@[simp] theorem State.updSession_counters (i : SlotIx) (f : Session → Session) : (s.updSession i f).counters = s.counters := rfl
@[simp] theorem State.updSession_entry (i : SlotIx) (f : Session → Session) (j : EntryIx) : (s.updSession i f).entry j = s.entry j := rfl
@[simp] theorem State.updSession_claim (i : SlotIx) (f : Session → Session) (j : ClaimIx) : (s.updSession i f).claim j = s.claim j := rfl
@[simp] theorem State.updSession_ns (i : SlotIx) (f : Session → Session) (j : NsIx) : (s.updSession i f).ns j = s.ns j := rfl
@[simp] theorem State.updSession_line (i : SlotIx) (f : Session → Session) (j : LineIx) : (s.updSession i f).line j = s.line j := rfl
@[simp] theorem State.updSession_chain (i : SlotIx) (f : Session → Session) (j : BucketIx) : (s.updSession i f).chain j = s.chain j := rfl

/-! ### updNs -/

@[simp] theorem State.updNs_pending (n : NsIx) (f : Namespace → Namespace) : (s.updNs n f).pending = s.pending := rfl
@[simp] theorem State.updNs_entries (n : NsIx) (f : Namespace → Namespace) : (s.updNs n f).entries = s.entries := rfl
@[simp] theorem State.updNs_chains (n : NsIx) (f : Namespace → Namespace) : (s.updNs n f).chains = s.chains := rfl
@[simp] theorem State.updNs_tokenCounter (n : NsIx) (f : Namespace → Namespace) : (s.updNs n f).tokenCounter = s.tokenCounter := rfl
@[simp] theorem State.updNs_tokenLoaded (n : NsIx) (f : Namespace → Namespace) : (s.updNs n f).tokenLoaded = s.tokenLoaded := rfl
@[simp] theorem State.updNs_freeEntryCount (n : NsIx) (f : Namespace → Namespace) : (s.updNs n f).freeEntryCount = s.freeEntryCount := rfl
@[simp] theorem State.updNs_arbiterLast (n : NsIx) (f : Namespace → Namespace) : (s.updNs n f).arbiterLast = s.arbiterLast := rfl
@[simp] theorem State.updNs_sweepLast (n : NsIx) (f : Namespace → Namespace) : (s.updNs n f).sweepLast = s.sweepLast := rfl
@[simp] theorem State.updNs_claims (n : NsIx) (f : Namespace → Namespace) : (s.updNs n f).claims = s.claims := rfl
@[simp] theorem State.updNs_freeList (n : NsIx) (f : Namespace → Namespace) : (s.updNs n f).freeList = s.freeList := rfl
@[simp] theorem State.updNs_freeClaimCount (n : NsIx) (f : Namespace → Namespace) : (s.updNs n f).freeClaimCount = s.freeClaimCount := rfl
@[simp] theorem State.updNs_sessions (n : NsIx) (f : Namespace → Namespace) : (s.updNs n f).sessions = s.sessions := rfl
@[simp] theorem State.updNs_divider (n : NsIx) (f : Namespace → Namespace) : (s.updNs n f).divider = s.divider := rfl
@[simp] theorem State.updNs_time (n : NsIx) (f : Namespace → Namespace) : (s.updNs n f).time = s.time := rfl
@[simp] theorem State.updNs_deadlines (n : NsIx) (f : Namespace → Namespace) : (s.updNs n f).deadlines = s.deadlines := rfl
@[simp] theorem State.updNs_expiries (n : NsIx) (f : Namespace → Namespace) : (s.updNs n f).expiries = s.expiries := rfl
@[simp] theorem State.updNs_lines (n : NsIx) (f : Namespace → Namespace) : (s.updNs n f).lines = s.lines := rfl
@[simp] theorem State.updNs_service (n : NsIx) (f : Namespace → Namespace) : (s.updNs n f).service = s.service := rfl
@[simp] theorem State.updNs_mailbox (n : NsIx) (f : Namespace → Namespace) : (s.updNs n f).mailbox = s.mailbox := rfl
@[simp] theorem State.updNs_commandCode (n : NsIx) (f : Namespace → Namespace) : (s.updNs n f).commandCode = s.commandCode := rfl
@[simp] theorem State.updNs_longCommand (n : NsIx) (f : Namespace → Namespace) : (s.updNs n f).longCommand = s.longCommand := rfl
@[simp] theorem State.updNs_resultCode (n : NsIx) (f : Namespace → Namespace) : (s.updNs n f).resultCode = s.resultCode := rfl
@[simp] theorem State.updNs_params (n : NsIx) (f : Namespace → Namespace) : (s.updNs n f).params = s.params := rfl
@[simp] theorem State.updNs_result (n : NsIx) (f : Namespace → Namespace) : (s.updNs n f).result = s.result := rfl
@[simp] theorem State.updNs_spiWrite (n : NsIx) (f : Namespace → Namespace) : (s.updNs n f).spiWrite = s.spiWrite := rfl
@[simp] theorem State.updNs_leaseMin (n : NsIx) (f : Namespace → Namespace) : (s.updNs n f).leaseMin = s.leaseMin := rfl
@[simp] theorem State.updNs_leaseMax (n : NsIx) (f : Namespace → Namespace) : (s.updNs n f).leaseMax = s.leaseMax := rfl
@[simp] theorem State.updNs_poolThreshold (n : NsIx) (f : Namespace → Namespace) : (s.updNs n f).poolThreshold = s.poolThreshold := rfl
@[simp] theorem State.updNs_clearSweep (n : NsIx) (f : Namespace → Namespace) : (s.updNs n f).clearSweep = s.clearSweep := rfl
@[simp] theorem State.updNs_clearSessions (n : NsIx) (f : Namespace → Namespace) : (s.updNs n f).clearSessions = s.clearSessions := rfl
@[simp] theorem State.updNs_clearClaims (n : NsIx) (f : Namespace → Namespace) : (s.updNs n f).clearClaims = s.clearClaims := rfl
@[simp] theorem State.updNs_clearEntries (n : NsIx) (f : Namespace → Namespace) : (s.updNs n f).clearEntries = s.clearEntries := rfl
@[simp] theorem State.updNs_deviceCauses (n : NsIx) (f : Namespace → Namespace) : (s.updNs n f).deviceCauses = s.deviceCauses := rfl
@[simp] theorem State.updNs_deviceMask (n : NsIx) (f : Namespace → Namespace) : (s.updNs n f).deviceMask = s.deviceMask := rfl
@[simp] theorem State.updNs_counters (n : NsIx) (f : Namespace → Namespace) : (s.updNs n f).counters = s.counters := rfl
@[simp] theorem State.updNs_entry (n : NsIx) (f : Namespace → Namespace) (j : EntryIx) : (s.updNs n f).entry j = s.entry j := rfl
@[simp] theorem State.updNs_claim (n : NsIx) (f : Namespace → Namespace) (j : ClaimIx) : (s.updNs n f).claim j = s.claim j := rfl
@[simp] theorem State.updNs_session (n : NsIx) (f : Namespace → Namespace) (j : SlotIx) : (s.updNs n f).session j = s.session j := rfl
@[simp] theorem State.updNs_line (n : NsIx) (f : Namespace → Namespace) (j : LineIx) : (s.updNs n f).line j = s.line j := rfl
@[simp] theorem State.updNs_chain (n : NsIx) (f : Namespace → Namespace) (j : BucketIx) : (s.updNs n f).chain j = s.chain j := rfl

/-! ### updLine -/

@[simp] theorem State.updLine_pending (l : LineIx) (f : Line → Line) : (s.updLine l f).pending = s.pending := rfl
@[simp] theorem State.updLine_entries (l : LineIx) (f : Line → Line) : (s.updLine l f).entries = s.entries := rfl
@[simp] theorem State.updLine_chains (l : LineIx) (f : Line → Line) : (s.updLine l f).chains = s.chains := rfl
@[simp] theorem State.updLine_tokenCounter (l : LineIx) (f : Line → Line) : (s.updLine l f).tokenCounter = s.tokenCounter := rfl
@[simp] theorem State.updLine_tokenLoaded (l : LineIx) (f : Line → Line) : (s.updLine l f).tokenLoaded = s.tokenLoaded := rfl
@[simp] theorem State.updLine_freeEntryCount (l : LineIx) (f : Line → Line) : (s.updLine l f).freeEntryCount = s.freeEntryCount := rfl
@[simp] theorem State.updLine_arbiterLast (l : LineIx) (f : Line → Line) : (s.updLine l f).arbiterLast = s.arbiterLast := rfl
@[simp] theorem State.updLine_sweepLast (l : LineIx) (f : Line → Line) : (s.updLine l f).sweepLast = s.sweepLast := rfl
@[simp] theorem State.updLine_claims (l : LineIx) (f : Line → Line) : (s.updLine l f).claims = s.claims := rfl
@[simp] theorem State.updLine_freeList (l : LineIx) (f : Line → Line) : (s.updLine l f).freeList = s.freeList := rfl
@[simp] theorem State.updLine_freeClaimCount (l : LineIx) (f : Line → Line) : (s.updLine l f).freeClaimCount = s.freeClaimCount := rfl
@[simp] theorem State.updLine_sessions (l : LineIx) (f : Line → Line) : (s.updLine l f).sessions = s.sessions := rfl
@[simp] theorem State.updLine_namespaces (l : LineIx) (f : Line → Line) : (s.updLine l f).namespaces = s.namespaces := rfl
@[simp] theorem State.updLine_divider (l : LineIx) (f : Line → Line) : (s.updLine l f).divider = s.divider := rfl
@[simp] theorem State.updLine_time (l : LineIx) (f : Line → Line) : (s.updLine l f).time = s.time := rfl
@[simp] theorem State.updLine_deadlines (l : LineIx) (f : Line → Line) : (s.updLine l f).deadlines = s.deadlines := rfl
@[simp] theorem State.updLine_expiries (l : LineIx) (f : Line → Line) : (s.updLine l f).expiries = s.expiries := rfl
@[simp] theorem State.updLine_service (l : LineIx) (f : Line → Line) : (s.updLine l f).service = s.service := rfl
@[simp] theorem State.updLine_mailbox (l : LineIx) (f : Line → Line) : (s.updLine l f).mailbox = s.mailbox := rfl
@[simp] theorem State.updLine_commandCode (l : LineIx) (f : Line → Line) : (s.updLine l f).commandCode = s.commandCode := rfl
@[simp] theorem State.updLine_longCommand (l : LineIx) (f : Line → Line) : (s.updLine l f).longCommand = s.longCommand := rfl
@[simp] theorem State.updLine_resultCode (l : LineIx) (f : Line → Line) : (s.updLine l f).resultCode = s.resultCode := rfl
@[simp] theorem State.updLine_params (l : LineIx) (f : Line → Line) : (s.updLine l f).params = s.params := rfl
@[simp] theorem State.updLine_result (l : LineIx) (f : Line → Line) : (s.updLine l f).result = s.result := rfl
@[simp] theorem State.updLine_spiWrite (l : LineIx) (f : Line → Line) : (s.updLine l f).spiWrite = s.spiWrite := rfl
@[simp] theorem State.updLine_leaseMin (l : LineIx) (f : Line → Line) : (s.updLine l f).leaseMin = s.leaseMin := rfl
@[simp] theorem State.updLine_leaseMax (l : LineIx) (f : Line → Line) : (s.updLine l f).leaseMax = s.leaseMax := rfl
@[simp] theorem State.updLine_poolThreshold (l : LineIx) (f : Line → Line) : (s.updLine l f).poolThreshold = s.poolThreshold := rfl
@[simp] theorem State.updLine_clearSweep (l : LineIx) (f : Line → Line) : (s.updLine l f).clearSweep = s.clearSweep := rfl
@[simp] theorem State.updLine_clearSessions (l : LineIx) (f : Line → Line) : (s.updLine l f).clearSessions = s.clearSessions := rfl
@[simp] theorem State.updLine_clearClaims (l : LineIx) (f : Line → Line) : (s.updLine l f).clearClaims = s.clearClaims := rfl
@[simp] theorem State.updLine_clearEntries (l : LineIx) (f : Line → Line) : (s.updLine l f).clearEntries = s.clearEntries := rfl
@[simp] theorem State.updLine_deviceCauses (l : LineIx) (f : Line → Line) : (s.updLine l f).deviceCauses = s.deviceCauses := rfl
@[simp] theorem State.updLine_deviceMask (l : LineIx) (f : Line → Line) : (s.updLine l f).deviceMask = s.deviceMask := rfl
@[simp] theorem State.updLine_counters (l : LineIx) (f : Line → Line) : (s.updLine l f).counters = s.counters := rfl
@[simp] theorem State.updLine_entry (l : LineIx) (f : Line → Line) (j : EntryIx) : (s.updLine l f).entry j = s.entry j := rfl
@[simp] theorem State.updLine_claim (l : LineIx) (f : Line → Line) (j : ClaimIx) : (s.updLine l f).claim j = s.claim j := rfl
@[simp] theorem State.updLine_session (l : LineIx) (f : Line → Line) (j : SlotIx) : (s.updLine l f).session j = s.session j := rfl
@[simp] theorem State.updLine_ns (l : LineIx) (f : Line → Line) (j : NsIx) : (s.updLine l f).ns j = s.ns j := rfl
@[simp] theorem State.updLine_chain (l : LineIx) (f : Line → Line) (j : BucketIx) : (s.updLine l f).chain j = s.chain j := rfl

/-! ### updChain -/

@[simp] theorem State.updChain_pending (b : BucketIx) (f : List EntryIx → List EntryIx) : (s.updChain b f).pending = s.pending := rfl
@[simp] theorem State.updChain_entries (b : BucketIx) (f : List EntryIx → List EntryIx) : (s.updChain b f).entries = s.entries := rfl
@[simp] theorem State.updChain_tokenCounter (b : BucketIx) (f : List EntryIx → List EntryIx) : (s.updChain b f).tokenCounter = s.tokenCounter := rfl
@[simp] theorem State.updChain_tokenLoaded (b : BucketIx) (f : List EntryIx → List EntryIx) : (s.updChain b f).tokenLoaded = s.tokenLoaded := rfl
@[simp] theorem State.updChain_freeEntryCount (b : BucketIx) (f : List EntryIx → List EntryIx) : (s.updChain b f).freeEntryCount = s.freeEntryCount := rfl
@[simp] theorem State.updChain_arbiterLast (b : BucketIx) (f : List EntryIx → List EntryIx) : (s.updChain b f).arbiterLast = s.arbiterLast := rfl
@[simp] theorem State.updChain_sweepLast (b : BucketIx) (f : List EntryIx → List EntryIx) : (s.updChain b f).sweepLast = s.sweepLast := rfl
@[simp] theorem State.updChain_claims (b : BucketIx) (f : List EntryIx → List EntryIx) : (s.updChain b f).claims = s.claims := rfl
@[simp] theorem State.updChain_freeList (b : BucketIx) (f : List EntryIx → List EntryIx) : (s.updChain b f).freeList = s.freeList := rfl
@[simp] theorem State.updChain_freeClaimCount (b : BucketIx) (f : List EntryIx → List EntryIx) : (s.updChain b f).freeClaimCount = s.freeClaimCount := rfl
@[simp] theorem State.updChain_sessions (b : BucketIx) (f : List EntryIx → List EntryIx) : (s.updChain b f).sessions = s.sessions := rfl
@[simp] theorem State.updChain_namespaces (b : BucketIx) (f : List EntryIx → List EntryIx) : (s.updChain b f).namespaces = s.namespaces := rfl
@[simp] theorem State.updChain_divider (b : BucketIx) (f : List EntryIx → List EntryIx) : (s.updChain b f).divider = s.divider := rfl
@[simp] theorem State.updChain_time (b : BucketIx) (f : List EntryIx → List EntryIx) : (s.updChain b f).time = s.time := rfl
@[simp] theorem State.updChain_deadlines (b : BucketIx) (f : List EntryIx → List EntryIx) : (s.updChain b f).deadlines = s.deadlines := rfl
@[simp] theorem State.updChain_expiries (b : BucketIx) (f : List EntryIx → List EntryIx) : (s.updChain b f).expiries = s.expiries := rfl
@[simp] theorem State.updChain_lines (b : BucketIx) (f : List EntryIx → List EntryIx) : (s.updChain b f).lines = s.lines := rfl
@[simp] theorem State.updChain_service (b : BucketIx) (f : List EntryIx → List EntryIx) : (s.updChain b f).service = s.service := rfl
@[simp] theorem State.updChain_mailbox (b : BucketIx) (f : List EntryIx → List EntryIx) : (s.updChain b f).mailbox = s.mailbox := rfl
@[simp] theorem State.updChain_commandCode (b : BucketIx) (f : List EntryIx → List EntryIx) : (s.updChain b f).commandCode = s.commandCode := rfl
@[simp] theorem State.updChain_longCommand (b : BucketIx) (f : List EntryIx → List EntryIx) : (s.updChain b f).longCommand = s.longCommand := rfl
@[simp] theorem State.updChain_resultCode (b : BucketIx) (f : List EntryIx → List EntryIx) : (s.updChain b f).resultCode = s.resultCode := rfl
@[simp] theorem State.updChain_params (b : BucketIx) (f : List EntryIx → List EntryIx) : (s.updChain b f).params = s.params := rfl
@[simp] theorem State.updChain_result (b : BucketIx) (f : List EntryIx → List EntryIx) : (s.updChain b f).result = s.result := rfl
@[simp] theorem State.updChain_spiWrite (b : BucketIx) (f : List EntryIx → List EntryIx) : (s.updChain b f).spiWrite = s.spiWrite := rfl
@[simp] theorem State.updChain_leaseMin (b : BucketIx) (f : List EntryIx → List EntryIx) : (s.updChain b f).leaseMin = s.leaseMin := rfl
@[simp] theorem State.updChain_leaseMax (b : BucketIx) (f : List EntryIx → List EntryIx) : (s.updChain b f).leaseMax = s.leaseMax := rfl
@[simp] theorem State.updChain_poolThreshold (b : BucketIx) (f : List EntryIx → List EntryIx) : (s.updChain b f).poolThreshold = s.poolThreshold := rfl
@[simp] theorem State.updChain_clearSweep (b : BucketIx) (f : List EntryIx → List EntryIx) : (s.updChain b f).clearSweep = s.clearSweep := rfl
@[simp] theorem State.updChain_clearSessions (b : BucketIx) (f : List EntryIx → List EntryIx) : (s.updChain b f).clearSessions = s.clearSessions := rfl
@[simp] theorem State.updChain_clearClaims (b : BucketIx) (f : List EntryIx → List EntryIx) : (s.updChain b f).clearClaims = s.clearClaims := rfl
@[simp] theorem State.updChain_clearEntries (b : BucketIx) (f : List EntryIx → List EntryIx) : (s.updChain b f).clearEntries = s.clearEntries := rfl
@[simp] theorem State.updChain_deviceCauses (b : BucketIx) (f : List EntryIx → List EntryIx) : (s.updChain b f).deviceCauses = s.deviceCauses := rfl
@[simp] theorem State.updChain_deviceMask (b : BucketIx) (f : List EntryIx → List EntryIx) : (s.updChain b f).deviceMask = s.deviceMask := rfl
@[simp] theorem State.updChain_counters (b : BucketIx) (f : List EntryIx → List EntryIx) : (s.updChain b f).counters = s.counters := rfl
@[simp] theorem State.updChain_entry (b : BucketIx) (f : List EntryIx → List EntryIx) (j : EntryIx) : (s.updChain b f).entry j = s.entry j := rfl
@[simp] theorem State.updChain_claim (b : BucketIx) (f : List EntryIx → List EntryIx) (j : ClaimIx) : (s.updChain b f).claim j = s.claim j := rfl
@[simp] theorem State.updChain_session (b : BucketIx) (f : List EntryIx → List EntryIx) (j : SlotIx) : (s.updChain b f).session j = s.session j := rfl
@[simp] theorem State.updChain_ns (b : BucketIx) (f : List EntryIx → List EntryIx) (j : NsIx) : (s.updChain b f).ns j = s.ns j := rfl
@[simp] theorem State.updChain_line (b : BucketIx) (f : List EntryIx → List EntryIx) (j : LineIx) : (s.updChain b f).line j = s.line j := rfl

/-! ### raise -/

@[simp] theorem State.raise_pending (k : DeviceCause) : (s.raise k).pending = s.pending := rfl
@[simp] theorem State.raise_entries (k : DeviceCause) : (s.raise k).entries = s.entries := rfl
@[simp] theorem State.raise_chains (k : DeviceCause) : (s.raise k).chains = s.chains := rfl
@[simp] theorem State.raise_tokenCounter (k : DeviceCause) : (s.raise k).tokenCounter = s.tokenCounter := rfl
@[simp] theorem State.raise_tokenLoaded (k : DeviceCause) : (s.raise k).tokenLoaded = s.tokenLoaded := rfl
@[simp] theorem State.raise_freeEntryCount (k : DeviceCause) : (s.raise k).freeEntryCount = s.freeEntryCount := rfl
@[simp] theorem State.raise_arbiterLast (k : DeviceCause) : (s.raise k).arbiterLast = s.arbiterLast := rfl
@[simp] theorem State.raise_sweepLast (k : DeviceCause) : (s.raise k).sweepLast = s.sweepLast := rfl
@[simp] theorem State.raise_claims (k : DeviceCause) : (s.raise k).claims = s.claims := rfl
@[simp] theorem State.raise_freeList (k : DeviceCause) : (s.raise k).freeList = s.freeList := rfl
@[simp] theorem State.raise_freeClaimCount (k : DeviceCause) : (s.raise k).freeClaimCount = s.freeClaimCount := rfl
@[simp] theorem State.raise_sessions (k : DeviceCause) : (s.raise k).sessions = s.sessions := rfl
@[simp] theorem State.raise_namespaces (k : DeviceCause) : (s.raise k).namespaces = s.namespaces := rfl
@[simp] theorem State.raise_divider (k : DeviceCause) : (s.raise k).divider = s.divider := rfl
@[simp] theorem State.raise_time (k : DeviceCause) : (s.raise k).time = s.time := rfl
@[simp] theorem State.raise_deadlines (k : DeviceCause) : (s.raise k).deadlines = s.deadlines := rfl
@[simp] theorem State.raise_expiries (k : DeviceCause) : (s.raise k).expiries = s.expiries := rfl
@[simp] theorem State.raise_lines (k : DeviceCause) : (s.raise k).lines = s.lines := rfl
@[simp] theorem State.raise_service (k : DeviceCause) : (s.raise k).service = s.service := rfl
@[simp] theorem State.raise_mailbox (k : DeviceCause) : (s.raise k).mailbox = s.mailbox := rfl
@[simp] theorem State.raise_commandCode (k : DeviceCause) : (s.raise k).commandCode = s.commandCode := rfl
@[simp] theorem State.raise_longCommand (k : DeviceCause) : (s.raise k).longCommand = s.longCommand := rfl
@[simp] theorem State.raise_resultCode (k : DeviceCause) : (s.raise k).resultCode = s.resultCode := rfl
@[simp] theorem State.raise_params (k : DeviceCause) : (s.raise k).params = s.params := rfl
@[simp] theorem State.raise_result (k : DeviceCause) : (s.raise k).result = s.result := rfl
@[simp] theorem State.raise_spiWrite (k : DeviceCause) : (s.raise k).spiWrite = s.spiWrite := rfl
@[simp] theorem State.raise_leaseMin (k : DeviceCause) : (s.raise k).leaseMin = s.leaseMin := rfl
@[simp] theorem State.raise_leaseMax (k : DeviceCause) : (s.raise k).leaseMax = s.leaseMax := rfl
@[simp] theorem State.raise_poolThreshold (k : DeviceCause) : (s.raise k).poolThreshold = s.poolThreshold := rfl
@[simp] theorem State.raise_clearSweep (k : DeviceCause) : (s.raise k).clearSweep = s.clearSweep := rfl
@[simp] theorem State.raise_clearSessions (k : DeviceCause) : (s.raise k).clearSessions = s.clearSessions := rfl
@[simp] theorem State.raise_clearClaims (k : DeviceCause) : (s.raise k).clearClaims = s.clearClaims := rfl
@[simp] theorem State.raise_clearEntries (k : DeviceCause) : (s.raise k).clearEntries = s.clearEntries := rfl
@[simp] theorem State.raise_deviceMask (k : DeviceCause) : (s.raise k).deviceMask = s.deviceMask := rfl
@[simp] theorem State.raise_counters (k : DeviceCause) : (s.raise k).counters = s.counters := rfl
@[simp] theorem State.raise_entry (k : DeviceCause) (j : EntryIx) : (s.raise k).entry j = s.entry j := rfl
@[simp] theorem State.raise_claim (k : DeviceCause) (j : ClaimIx) : (s.raise k).claim j = s.claim j := rfl
@[simp] theorem State.raise_session (k : DeviceCause) (j : SlotIx) : (s.raise k).session j = s.session j := rfl
@[simp] theorem State.raise_ns (k : DeviceCause) (j : NsIx) : (s.raise k).ns j = s.ns j := rfl
@[simp] theorem State.raise_line (k : DeviceCause) (j : LineIx) : (s.raise k).line j = s.line j := rfl
@[simp] theorem State.raise_chain (k : DeviceCause) (j : BucketIx) : (s.raise k).chain j = s.chain j := rfl

/-! ### countGrant -/

@[simp] theorem State.countGrant_pending : (s.countGrant).pending = s.pending := rfl
@[simp] theorem State.countGrant_entries : (s.countGrant).entries = s.entries := rfl
@[simp] theorem State.countGrant_chains : (s.countGrant).chains = s.chains := rfl
@[simp] theorem State.countGrant_tokenCounter : (s.countGrant).tokenCounter = s.tokenCounter := rfl
@[simp] theorem State.countGrant_tokenLoaded : (s.countGrant).tokenLoaded = s.tokenLoaded := rfl
@[simp] theorem State.countGrant_freeEntryCount : (s.countGrant).freeEntryCount = s.freeEntryCount := rfl
@[simp] theorem State.countGrant_arbiterLast : (s.countGrant).arbiterLast = s.arbiterLast := rfl
@[simp] theorem State.countGrant_sweepLast : (s.countGrant).sweepLast = s.sweepLast := rfl
@[simp] theorem State.countGrant_claims : (s.countGrant).claims = s.claims := rfl
@[simp] theorem State.countGrant_freeList : (s.countGrant).freeList = s.freeList := rfl
@[simp] theorem State.countGrant_freeClaimCount : (s.countGrant).freeClaimCount = s.freeClaimCount := rfl
@[simp] theorem State.countGrant_sessions : (s.countGrant).sessions = s.sessions := rfl
@[simp] theorem State.countGrant_namespaces : (s.countGrant).namespaces = s.namespaces := rfl
@[simp] theorem State.countGrant_divider : (s.countGrant).divider = s.divider := rfl
@[simp] theorem State.countGrant_time : (s.countGrant).time = s.time := rfl
@[simp] theorem State.countGrant_deadlines : (s.countGrant).deadlines = s.deadlines := rfl
@[simp] theorem State.countGrant_expiries : (s.countGrant).expiries = s.expiries := rfl
@[simp] theorem State.countGrant_lines : (s.countGrant).lines = s.lines := rfl
@[simp] theorem State.countGrant_service : (s.countGrant).service = s.service := rfl
@[simp] theorem State.countGrant_mailbox : (s.countGrant).mailbox = s.mailbox := rfl
@[simp] theorem State.countGrant_commandCode : (s.countGrant).commandCode = s.commandCode := rfl
@[simp] theorem State.countGrant_longCommand : (s.countGrant).longCommand = s.longCommand := rfl
@[simp] theorem State.countGrant_resultCode : (s.countGrant).resultCode = s.resultCode := rfl
@[simp] theorem State.countGrant_params : (s.countGrant).params = s.params := rfl
@[simp] theorem State.countGrant_result : (s.countGrant).result = s.result := rfl
@[simp] theorem State.countGrant_spiWrite : (s.countGrant).spiWrite = s.spiWrite := rfl
@[simp] theorem State.countGrant_leaseMin : (s.countGrant).leaseMin = s.leaseMin := rfl
@[simp] theorem State.countGrant_leaseMax : (s.countGrant).leaseMax = s.leaseMax := rfl
@[simp] theorem State.countGrant_poolThreshold : (s.countGrant).poolThreshold = s.poolThreshold := rfl
@[simp] theorem State.countGrant_clearSweep : (s.countGrant).clearSweep = s.clearSweep := rfl
@[simp] theorem State.countGrant_clearSessions : (s.countGrant).clearSessions = s.clearSessions := rfl
@[simp] theorem State.countGrant_clearClaims : (s.countGrant).clearClaims = s.clearClaims := rfl
@[simp] theorem State.countGrant_clearEntries : (s.countGrant).clearEntries = s.clearEntries := rfl
@[simp] theorem State.countGrant_deviceCauses : (s.countGrant).deviceCauses = s.deviceCauses := rfl
@[simp] theorem State.countGrant_deviceMask : (s.countGrant).deviceMask = s.deviceMask := rfl
@[simp] theorem State.countGrant_entry (j : EntryIx) : (s.countGrant).entry j = s.entry j := rfl
@[simp] theorem State.countGrant_claim (j : ClaimIx) : (s.countGrant).claim j = s.claim j := rfl
@[simp] theorem State.countGrant_session (j : SlotIx) : (s.countGrant).session j = s.session j := rfl
@[simp] theorem State.countGrant_ns (j : NsIx) : (s.countGrant).ns j = s.ns j := rfl
@[simp] theorem State.countGrant_line (j : LineIx) : (s.countGrant).line j = s.line j := rfl
@[simp] theorem State.countGrant_chain (j : BucketIx) : (s.countGrant).chain j = s.chain j := rfl

/-! ### countRefusal -/

@[simp] theorem State.countRefusal_pending : (s.countRefusal).pending = s.pending := rfl
@[simp] theorem State.countRefusal_entries : (s.countRefusal).entries = s.entries := rfl
@[simp] theorem State.countRefusal_chains : (s.countRefusal).chains = s.chains := rfl
@[simp] theorem State.countRefusal_tokenCounter : (s.countRefusal).tokenCounter = s.tokenCounter := rfl
@[simp] theorem State.countRefusal_tokenLoaded : (s.countRefusal).tokenLoaded = s.tokenLoaded := rfl
@[simp] theorem State.countRefusal_freeEntryCount : (s.countRefusal).freeEntryCount = s.freeEntryCount := rfl
@[simp] theorem State.countRefusal_arbiterLast : (s.countRefusal).arbiterLast = s.arbiterLast := rfl
@[simp] theorem State.countRefusal_sweepLast : (s.countRefusal).sweepLast = s.sweepLast := rfl
@[simp] theorem State.countRefusal_claims : (s.countRefusal).claims = s.claims := rfl
@[simp] theorem State.countRefusal_freeList : (s.countRefusal).freeList = s.freeList := rfl
@[simp] theorem State.countRefusal_freeClaimCount : (s.countRefusal).freeClaimCount = s.freeClaimCount := rfl
@[simp] theorem State.countRefusal_sessions : (s.countRefusal).sessions = s.sessions := rfl
@[simp] theorem State.countRefusal_namespaces : (s.countRefusal).namespaces = s.namespaces := rfl
@[simp] theorem State.countRefusal_divider : (s.countRefusal).divider = s.divider := rfl
@[simp] theorem State.countRefusal_time : (s.countRefusal).time = s.time := rfl
@[simp] theorem State.countRefusal_deadlines : (s.countRefusal).deadlines = s.deadlines := rfl
@[simp] theorem State.countRefusal_expiries : (s.countRefusal).expiries = s.expiries := rfl
@[simp] theorem State.countRefusal_lines : (s.countRefusal).lines = s.lines := rfl
@[simp] theorem State.countRefusal_service : (s.countRefusal).service = s.service := rfl
@[simp] theorem State.countRefusal_mailbox : (s.countRefusal).mailbox = s.mailbox := rfl
@[simp] theorem State.countRefusal_commandCode : (s.countRefusal).commandCode = s.commandCode := rfl
@[simp] theorem State.countRefusal_longCommand : (s.countRefusal).longCommand = s.longCommand := rfl
@[simp] theorem State.countRefusal_resultCode : (s.countRefusal).resultCode = s.resultCode := rfl
@[simp] theorem State.countRefusal_params : (s.countRefusal).params = s.params := rfl
@[simp] theorem State.countRefusal_result : (s.countRefusal).result = s.result := rfl
@[simp] theorem State.countRefusal_spiWrite : (s.countRefusal).spiWrite = s.spiWrite := rfl
@[simp] theorem State.countRefusal_leaseMin : (s.countRefusal).leaseMin = s.leaseMin := rfl
@[simp] theorem State.countRefusal_leaseMax : (s.countRefusal).leaseMax = s.leaseMax := rfl
@[simp] theorem State.countRefusal_poolThreshold : (s.countRefusal).poolThreshold = s.poolThreshold := rfl
@[simp] theorem State.countRefusal_clearSweep : (s.countRefusal).clearSweep = s.clearSweep := rfl
@[simp] theorem State.countRefusal_clearSessions : (s.countRefusal).clearSessions = s.clearSessions := rfl
@[simp] theorem State.countRefusal_clearClaims : (s.countRefusal).clearClaims = s.clearClaims := rfl
@[simp] theorem State.countRefusal_clearEntries : (s.countRefusal).clearEntries = s.clearEntries := rfl
@[simp] theorem State.countRefusal_deviceCauses : (s.countRefusal).deviceCauses = s.deviceCauses := rfl
@[simp] theorem State.countRefusal_deviceMask : (s.countRefusal).deviceMask = s.deviceMask := rfl
@[simp] theorem State.countRefusal_entry (j : EntryIx) : (s.countRefusal).entry j = s.entry j := rfl
@[simp] theorem State.countRefusal_claim (j : ClaimIx) : (s.countRefusal).claim j = s.claim j := rfl
@[simp] theorem State.countRefusal_session (j : SlotIx) : (s.countRefusal).session j = s.session j := rfl
@[simp] theorem State.countRefusal_ns (j : NsIx) : (s.countRefusal).ns j = s.ns j := rfl
@[simp] theorem State.countRefusal_line (j : LineIx) : (s.countRefusal).line j = s.line j := rfl
@[simp] theorem State.countRefusal_chain (j : BucketIx) : (s.countRefusal).chain j = s.chain j := rfl

/-! ### countLeaseExpiry -/

@[simp] theorem State.countLeaseExpiry_pending : (s.countLeaseExpiry).pending = s.pending := rfl
@[simp] theorem State.countLeaseExpiry_entries : (s.countLeaseExpiry).entries = s.entries := rfl
@[simp] theorem State.countLeaseExpiry_chains : (s.countLeaseExpiry).chains = s.chains := rfl
@[simp] theorem State.countLeaseExpiry_tokenCounter : (s.countLeaseExpiry).tokenCounter = s.tokenCounter := rfl
@[simp] theorem State.countLeaseExpiry_tokenLoaded : (s.countLeaseExpiry).tokenLoaded = s.tokenLoaded := rfl
@[simp] theorem State.countLeaseExpiry_freeEntryCount : (s.countLeaseExpiry).freeEntryCount = s.freeEntryCount := rfl
@[simp] theorem State.countLeaseExpiry_arbiterLast : (s.countLeaseExpiry).arbiterLast = s.arbiterLast := rfl
@[simp] theorem State.countLeaseExpiry_sweepLast : (s.countLeaseExpiry).sweepLast = s.sweepLast := rfl
@[simp] theorem State.countLeaseExpiry_claims : (s.countLeaseExpiry).claims = s.claims := rfl
@[simp] theorem State.countLeaseExpiry_freeList : (s.countLeaseExpiry).freeList = s.freeList := rfl
@[simp] theorem State.countLeaseExpiry_freeClaimCount : (s.countLeaseExpiry).freeClaimCount = s.freeClaimCount := rfl
@[simp] theorem State.countLeaseExpiry_sessions : (s.countLeaseExpiry).sessions = s.sessions := rfl
@[simp] theorem State.countLeaseExpiry_namespaces : (s.countLeaseExpiry).namespaces = s.namespaces := rfl
@[simp] theorem State.countLeaseExpiry_divider : (s.countLeaseExpiry).divider = s.divider := rfl
@[simp] theorem State.countLeaseExpiry_time : (s.countLeaseExpiry).time = s.time := rfl
@[simp] theorem State.countLeaseExpiry_deadlines : (s.countLeaseExpiry).deadlines = s.deadlines := rfl
@[simp] theorem State.countLeaseExpiry_expiries : (s.countLeaseExpiry).expiries = s.expiries := rfl
@[simp] theorem State.countLeaseExpiry_lines : (s.countLeaseExpiry).lines = s.lines := rfl
@[simp] theorem State.countLeaseExpiry_service : (s.countLeaseExpiry).service = s.service := rfl
@[simp] theorem State.countLeaseExpiry_mailbox : (s.countLeaseExpiry).mailbox = s.mailbox := rfl
@[simp] theorem State.countLeaseExpiry_commandCode : (s.countLeaseExpiry).commandCode = s.commandCode := rfl
@[simp] theorem State.countLeaseExpiry_longCommand : (s.countLeaseExpiry).longCommand = s.longCommand := rfl
@[simp] theorem State.countLeaseExpiry_resultCode : (s.countLeaseExpiry).resultCode = s.resultCode := rfl
@[simp] theorem State.countLeaseExpiry_params : (s.countLeaseExpiry).params = s.params := rfl
@[simp] theorem State.countLeaseExpiry_result : (s.countLeaseExpiry).result = s.result := rfl
@[simp] theorem State.countLeaseExpiry_spiWrite : (s.countLeaseExpiry).spiWrite = s.spiWrite := rfl
@[simp] theorem State.countLeaseExpiry_leaseMin : (s.countLeaseExpiry).leaseMin = s.leaseMin := rfl
@[simp] theorem State.countLeaseExpiry_leaseMax : (s.countLeaseExpiry).leaseMax = s.leaseMax := rfl
@[simp] theorem State.countLeaseExpiry_poolThreshold : (s.countLeaseExpiry).poolThreshold = s.poolThreshold := rfl
@[simp] theorem State.countLeaseExpiry_clearSweep : (s.countLeaseExpiry).clearSweep = s.clearSweep := rfl
@[simp] theorem State.countLeaseExpiry_clearSessions : (s.countLeaseExpiry).clearSessions = s.clearSessions := rfl
@[simp] theorem State.countLeaseExpiry_clearClaims : (s.countLeaseExpiry).clearClaims = s.clearClaims := rfl
@[simp] theorem State.countLeaseExpiry_clearEntries : (s.countLeaseExpiry).clearEntries = s.clearEntries := rfl
@[simp] theorem State.countLeaseExpiry_deviceCauses : (s.countLeaseExpiry).deviceCauses = s.deviceCauses := rfl
@[simp] theorem State.countLeaseExpiry_deviceMask : (s.countLeaseExpiry).deviceMask = s.deviceMask := rfl
@[simp] theorem State.countLeaseExpiry_entry (j : EntryIx) : (s.countLeaseExpiry).entry j = s.entry j := rfl
@[simp] theorem State.countLeaseExpiry_claim (j : ClaimIx) : (s.countLeaseExpiry).claim j = s.claim j := rfl
@[simp] theorem State.countLeaseExpiry_session (j : SlotIx) : (s.countLeaseExpiry).session j = s.session j := rfl
@[simp] theorem State.countLeaseExpiry_ns (j : NsIx) : (s.countLeaseExpiry).ns j = s.ns j := rfl
@[simp] theorem State.countLeaseExpiry_line (j : LineIx) : (s.countLeaseExpiry).line j = s.line j := rfl
@[simp] theorem State.countLeaseExpiry_chain (j : BucketIx) : (s.countLeaseExpiry).chain j = s.chain j := rfl

/-! ### countWaitExpiry -/

@[simp] theorem State.countWaitExpiry_pending : (s.countWaitExpiry).pending = s.pending := rfl
@[simp] theorem State.countWaitExpiry_entries : (s.countWaitExpiry).entries = s.entries := rfl
@[simp] theorem State.countWaitExpiry_chains : (s.countWaitExpiry).chains = s.chains := rfl
@[simp] theorem State.countWaitExpiry_tokenCounter : (s.countWaitExpiry).tokenCounter = s.tokenCounter := rfl
@[simp] theorem State.countWaitExpiry_tokenLoaded : (s.countWaitExpiry).tokenLoaded = s.tokenLoaded := rfl
@[simp] theorem State.countWaitExpiry_freeEntryCount : (s.countWaitExpiry).freeEntryCount = s.freeEntryCount := rfl
@[simp] theorem State.countWaitExpiry_arbiterLast : (s.countWaitExpiry).arbiterLast = s.arbiterLast := rfl
@[simp] theorem State.countWaitExpiry_sweepLast : (s.countWaitExpiry).sweepLast = s.sweepLast := rfl
@[simp] theorem State.countWaitExpiry_claims : (s.countWaitExpiry).claims = s.claims := rfl
@[simp] theorem State.countWaitExpiry_freeList : (s.countWaitExpiry).freeList = s.freeList := rfl
@[simp] theorem State.countWaitExpiry_freeClaimCount : (s.countWaitExpiry).freeClaimCount = s.freeClaimCount := rfl
@[simp] theorem State.countWaitExpiry_sessions : (s.countWaitExpiry).sessions = s.sessions := rfl
@[simp] theorem State.countWaitExpiry_namespaces : (s.countWaitExpiry).namespaces = s.namespaces := rfl
@[simp] theorem State.countWaitExpiry_divider : (s.countWaitExpiry).divider = s.divider := rfl
@[simp] theorem State.countWaitExpiry_time : (s.countWaitExpiry).time = s.time := rfl
@[simp] theorem State.countWaitExpiry_deadlines : (s.countWaitExpiry).deadlines = s.deadlines := rfl
@[simp] theorem State.countWaitExpiry_expiries : (s.countWaitExpiry).expiries = s.expiries := rfl
@[simp] theorem State.countWaitExpiry_lines : (s.countWaitExpiry).lines = s.lines := rfl
@[simp] theorem State.countWaitExpiry_service : (s.countWaitExpiry).service = s.service := rfl
@[simp] theorem State.countWaitExpiry_mailbox : (s.countWaitExpiry).mailbox = s.mailbox := rfl
@[simp] theorem State.countWaitExpiry_commandCode : (s.countWaitExpiry).commandCode = s.commandCode := rfl
@[simp] theorem State.countWaitExpiry_longCommand : (s.countWaitExpiry).longCommand = s.longCommand := rfl
@[simp] theorem State.countWaitExpiry_resultCode : (s.countWaitExpiry).resultCode = s.resultCode := rfl
@[simp] theorem State.countWaitExpiry_params : (s.countWaitExpiry).params = s.params := rfl
@[simp] theorem State.countWaitExpiry_result : (s.countWaitExpiry).result = s.result := rfl
@[simp] theorem State.countWaitExpiry_spiWrite : (s.countWaitExpiry).spiWrite = s.spiWrite := rfl
@[simp] theorem State.countWaitExpiry_leaseMin : (s.countWaitExpiry).leaseMin = s.leaseMin := rfl
@[simp] theorem State.countWaitExpiry_leaseMax : (s.countWaitExpiry).leaseMax = s.leaseMax := rfl
@[simp] theorem State.countWaitExpiry_poolThreshold : (s.countWaitExpiry).poolThreshold = s.poolThreshold := rfl
@[simp] theorem State.countWaitExpiry_clearSweep : (s.countWaitExpiry).clearSweep = s.clearSweep := rfl
@[simp] theorem State.countWaitExpiry_clearSessions : (s.countWaitExpiry).clearSessions = s.clearSessions := rfl
@[simp] theorem State.countWaitExpiry_clearClaims : (s.countWaitExpiry).clearClaims = s.clearClaims := rfl
@[simp] theorem State.countWaitExpiry_clearEntries : (s.countWaitExpiry).clearEntries = s.clearEntries := rfl
@[simp] theorem State.countWaitExpiry_deviceCauses : (s.countWaitExpiry).deviceCauses = s.deviceCauses := rfl
@[simp] theorem State.countWaitExpiry_deviceMask : (s.countWaitExpiry).deviceMask = s.deviceMask := rfl
@[simp] theorem State.countWaitExpiry_entry (j : EntryIx) : (s.countWaitExpiry).entry j = s.entry j := rfl
@[simp] theorem State.countWaitExpiry_claim (j : ClaimIx) : (s.countWaitExpiry).claim j = s.claim j := rfl
@[simp] theorem State.countWaitExpiry_session (j : SlotIx) : (s.countWaitExpiry).session j = s.session j := rfl
@[simp] theorem State.countWaitExpiry_ns (j : NsIx) : (s.countWaitExpiry).ns j = s.ns j := rfl
@[simp] theorem State.countWaitExpiry_line (j : LineIx) : (s.countWaitExpiry).line j = s.line j := rfl
@[simp] theorem State.countWaitExpiry_chain (j : BucketIx) : (s.countWaitExpiry).chain j = s.chain j := rfl

/-! ### countRevoke -/

@[simp] theorem State.countRevoke_pending : (s.countRevoke).pending = s.pending := rfl
@[simp] theorem State.countRevoke_entries : (s.countRevoke).entries = s.entries := rfl
@[simp] theorem State.countRevoke_chains : (s.countRevoke).chains = s.chains := rfl
@[simp] theorem State.countRevoke_tokenCounter : (s.countRevoke).tokenCounter = s.tokenCounter := rfl
@[simp] theorem State.countRevoke_tokenLoaded : (s.countRevoke).tokenLoaded = s.tokenLoaded := rfl
@[simp] theorem State.countRevoke_freeEntryCount : (s.countRevoke).freeEntryCount = s.freeEntryCount := rfl
@[simp] theorem State.countRevoke_arbiterLast : (s.countRevoke).arbiterLast = s.arbiterLast := rfl
@[simp] theorem State.countRevoke_sweepLast : (s.countRevoke).sweepLast = s.sweepLast := rfl
@[simp] theorem State.countRevoke_claims : (s.countRevoke).claims = s.claims := rfl
@[simp] theorem State.countRevoke_freeList : (s.countRevoke).freeList = s.freeList := rfl
@[simp] theorem State.countRevoke_freeClaimCount : (s.countRevoke).freeClaimCount = s.freeClaimCount := rfl
@[simp] theorem State.countRevoke_sessions : (s.countRevoke).sessions = s.sessions := rfl
@[simp] theorem State.countRevoke_namespaces : (s.countRevoke).namespaces = s.namespaces := rfl
@[simp] theorem State.countRevoke_divider : (s.countRevoke).divider = s.divider := rfl
@[simp] theorem State.countRevoke_time : (s.countRevoke).time = s.time := rfl
@[simp] theorem State.countRevoke_deadlines : (s.countRevoke).deadlines = s.deadlines := rfl
@[simp] theorem State.countRevoke_expiries : (s.countRevoke).expiries = s.expiries := rfl
@[simp] theorem State.countRevoke_lines : (s.countRevoke).lines = s.lines := rfl
@[simp] theorem State.countRevoke_service : (s.countRevoke).service = s.service := rfl
@[simp] theorem State.countRevoke_mailbox : (s.countRevoke).mailbox = s.mailbox := rfl
@[simp] theorem State.countRevoke_commandCode : (s.countRevoke).commandCode = s.commandCode := rfl
@[simp] theorem State.countRevoke_longCommand : (s.countRevoke).longCommand = s.longCommand := rfl
@[simp] theorem State.countRevoke_resultCode : (s.countRevoke).resultCode = s.resultCode := rfl
@[simp] theorem State.countRevoke_params : (s.countRevoke).params = s.params := rfl
@[simp] theorem State.countRevoke_result : (s.countRevoke).result = s.result := rfl
@[simp] theorem State.countRevoke_spiWrite : (s.countRevoke).spiWrite = s.spiWrite := rfl
@[simp] theorem State.countRevoke_leaseMin : (s.countRevoke).leaseMin = s.leaseMin := rfl
@[simp] theorem State.countRevoke_leaseMax : (s.countRevoke).leaseMax = s.leaseMax := rfl
@[simp] theorem State.countRevoke_poolThreshold : (s.countRevoke).poolThreshold = s.poolThreshold := rfl
@[simp] theorem State.countRevoke_clearSweep : (s.countRevoke).clearSweep = s.clearSweep := rfl
@[simp] theorem State.countRevoke_clearSessions : (s.countRevoke).clearSessions = s.clearSessions := rfl
@[simp] theorem State.countRevoke_clearClaims : (s.countRevoke).clearClaims = s.clearClaims := rfl
@[simp] theorem State.countRevoke_clearEntries : (s.countRevoke).clearEntries = s.clearEntries := rfl
@[simp] theorem State.countRevoke_deviceCauses : (s.countRevoke).deviceCauses = s.deviceCauses := rfl
@[simp] theorem State.countRevoke_deviceMask : (s.countRevoke).deviceMask = s.deviceMask := rfl
@[simp] theorem State.countRevoke_entry (j : EntryIx) : (s.countRevoke).entry j = s.entry j := rfl
@[simp] theorem State.countRevoke_claim (j : ClaimIx) : (s.countRevoke).claim j = s.claim j := rfl
@[simp] theorem State.countRevoke_session (j : SlotIx) : (s.countRevoke).session j = s.session j := rfl
@[simp] theorem State.countRevoke_ns (j : NsIx) : (s.countRevoke).ns j = s.ns j := rfl
@[simp] theorem State.countRevoke_line (j : LineIx) : (s.countRevoke).line j = s.line j := rfl
@[simp] theorem State.countRevoke_chain (j : BucketIx) : (s.countRevoke).chain j = s.chain j := rfl

/-! ### served -/

@[simp] theorem State.served_pending (p : SourceIx) : (s.served p).pending = s.pending := rfl
@[simp] theorem State.served_entries (p : SourceIx) : (s.served p).entries = s.entries := rfl
@[simp] theorem State.served_chains (p : SourceIx) : (s.served p).chains = s.chains := rfl
@[simp] theorem State.served_tokenCounter (p : SourceIx) : (s.served p).tokenCounter = s.tokenCounter := rfl
@[simp] theorem State.served_tokenLoaded (p : SourceIx) : (s.served p).tokenLoaded = s.tokenLoaded := rfl
@[simp] theorem State.served_freeEntryCount (p : SourceIx) : (s.served p).freeEntryCount = s.freeEntryCount := rfl
@[simp] theorem State.served_sweepLast (p : SourceIx) : (s.served p).sweepLast = s.sweepLast := rfl
@[simp] theorem State.served_claims (p : SourceIx) : (s.served p).claims = s.claims := rfl
@[simp] theorem State.served_freeList (p : SourceIx) : (s.served p).freeList = s.freeList := rfl
@[simp] theorem State.served_freeClaimCount (p : SourceIx) : (s.served p).freeClaimCount = s.freeClaimCount := rfl
@[simp] theorem State.served_sessions (p : SourceIx) : (s.served p).sessions = s.sessions := rfl
@[simp] theorem State.served_namespaces (p : SourceIx) : (s.served p).namespaces = s.namespaces := rfl
@[simp] theorem State.served_divider (p : SourceIx) : (s.served p).divider = s.divider := rfl
@[simp] theorem State.served_time (p : SourceIx) : (s.served p).time = s.time := rfl
@[simp] theorem State.served_deadlines (p : SourceIx) : (s.served p).deadlines = s.deadlines := rfl
@[simp] theorem State.served_expiries (p : SourceIx) : (s.served p).expiries = s.expiries := rfl
@[simp] theorem State.served_lines (p : SourceIx) : (s.served p).lines = s.lines := rfl
@[simp] theorem State.served_service (p : SourceIx) : (s.served p).service = s.service := rfl
@[simp] theorem State.served_mailbox (p : SourceIx) : (s.served p).mailbox = s.mailbox := rfl
@[simp] theorem State.served_commandCode (p : SourceIx) : (s.served p).commandCode = s.commandCode := rfl
@[simp] theorem State.served_longCommand (p : SourceIx) : (s.served p).longCommand = s.longCommand := rfl
@[simp] theorem State.served_resultCode (p : SourceIx) : (s.served p).resultCode = s.resultCode := rfl
@[simp] theorem State.served_params (p : SourceIx) : (s.served p).params = s.params := rfl
@[simp] theorem State.served_result (p : SourceIx) : (s.served p).result = s.result := rfl
@[simp] theorem State.served_spiWrite (p : SourceIx) : (s.served p).spiWrite = s.spiWrite := rfl
@[simp] theorem State.served_leaseMin (p : SourceIx) : (s.served p).leaseMin = s.leaseMin := rfl
@[simp] theorem State.served_leaseMax (p : SourceIx) : (s.served p).leaseMax = s.leaseMax := rfl
@[simp] theorem State.served_poolThreshold (p : SourceIx) : (s.served p).poolThreshold = s.poolThreshold := rfl
@[simp] theorem State.served_clearSweep (p : SourceIx) : (s.served p).clearSweep = s.clearSweep := rfl
@[simp] theorem State.served_clearSessions (p : SourceIx) : (s.served p).clearSessions = s.clearSessions := rfl
@[simp] theorem State.served_clearClaims (p : SourceIx) : (s.served p).clearClaims = s.clearClaims := rfl
@[simp] theorem State.served_clearEntries (p : SourceIx) : (s.served p).clearEntries = s.clearEntries := rfl
@[simp] theorem State.served_deviceCauses (p : SourceIx) : (s.served p).deviceCauses = s.deviceCauses := rfl
@[simp] theorem State.served_deviceMask (p : SourceIx) : (s.served p).deviceMask = s.deviceMask := rfl
@[simp] theorem State.served_counters (p : SourceIx) : (s.served p).counters = s.counters := rfl
@[simp] theorem State.served_entry (p : SourceIx) (j : EntryIx) : (s.served p).entry j = s.entry j := rfl
@[simp] theorem State.served_claim (p : SourceIx) (j : ClaimIx) : (s.served p).claim j = s.claim j := rfl
@[simp] theorem State.served_session (p : SourceIx) (j : SlotIx) : (s.served p).session j = s.session j := rfl
@[simp] theorem State.served_ns (p : SourceIx) (j : NsIx) : (s.served p).ns j = s.ns j := rfl
@[simp] theorem State.served_line (p : SourceIx) (j : LineIx) : (s.served p).line j = s.line j := rfl
@[simp] theorem State.served_chain (p : SourceIx) (j : BucketIx) : (s.served p).chain j = s.chain j := rfl

/-! ### servedSweep -/

@[simp] theorem State.servedSweep_pending (p : SweepIx) : (s.servedSweep p).pending = s.pending := rfl
@[simp] theorem State.servedSweep_entries (p : SweepIx) : (s.servedSweep p).entries = s.entries := rfl
@[simp] theorem State.servedSweep_chains (p : SweepIx) : (s.servedSweep p).chains = s.chains := rfl
@[simp] theorem State.servedSweep_tokenCounter (p : SweepIx) : (s.servedSweep p).tokenCounter = s.tokenCounter := rfl
@[simp] theorem State.servedSweep_tokenLoaded (p : SweepIx) : (s.servedSweep p).tokenLoaded = s.tokenLoaded := rfl
@[simp] theorem State.servedSweep_freeEntryCount (p : SweepIx) : (s.servedSweep p).freeEntryCount = s.freeEntryCount := rfl
@[simp] theorem State.servedSweep_claims (p : SweepIx) : (s.servedSweep p).claims = s.claims := rfl
@[simp] theorem State.servedSweep_freeList (p : SweepIx) : (s.servedSweep p).freeList = s.freeList := rfl
@[simp] theorem State.servedSweep_freeClaimCount (p : SweepIx) : (s.servedSweep p).freeClaimCount = s.freeClaimCount := rfl
@[simp] theorem State.servedSweep_sessions (p : SweepIx) : (s.servedSweep p).sessions = s.sessions := rfl
@[simp] theorem State.servedSweep_namespaces (p : SweepIx) : (s.servedSweep p).namespaces = s.namespaces := rfl
@[simp] theorem State.servedSweep_divider (p : SweepIx) : (s.servedSweep p).divider = s.divider := rfl
@[simp] theorem State.servedSweep_time (p : SweepIx) : (s.servedSweep p).time = s.time := rfl
@[simp] theorem State.servedSweep_deadlines (p : SweepIx) : (s.servedSweep p).deadlines = s.deadlines := rfl
@[simp] theorem State.servedSweep_expiries (p : SweepIx) : (s.servedSweep p).expiries = s.expiries := rfl
@[simp] theorem State.servedSweep_lines (p : SweepIx) : (s.servedSweep p).lines = s.lines := rfl
@[simp] theorem State.servedSweep_service (p : SweepIx) : (s.servedSweep p).service = s.service := rfl
@[simp] theorem State.servedSweep_mailbox (p : SweepIx) : (s.servedSweep p).mailbox = s.mailbox := rfl
@[simp] theorem State.servedSweep_commandCode (p : SweepIx) : (s.servedSweep p).commandCode = s.commandCode := rfl
@[simp] theorem State.servedSweep_longCommand (p : SweepIx) : (s.servedSweep p).longCommand = s.longCommand := rfl
@[simp] theorem State.servedSweep_resultCode (p : SweepIx) : (s.servedSweep p).resultCode = s.resultCode := rfl
@[simp] theorem State.servedSweep_params (p : SweepIx) : (s.servedSweep p).params = s.params := rfl
@[simp] theorem State.servedSweep_result (p : SweepIx) : (s.servedSweep p).result = s.result := rfl
@[simp] theorem State.servedSweep_spiWrite (p : SweepIx) : (s.servedSweep p).spiWrite = s.spiWrite := rfl
@[simp] theorem State.servedSweep_leaseMin (p : SweepIx) : (s.servedSweep p).leaseMin = s.leaseMin := rfl
@[simp] theorem State.servedSweep_leaseMax (p : SweepIx) : (s.servedSweep p).leaseMax = s.leaseMax := rfl
@[simp] theorem State.servedSweep_poolThreshold (p : SweepIx) : (s.servedSweep p).poolThreshold = s.poolThreshold := rfl
@[simp] theorem State.servedSweep_clearSweep (p : SweepIx) : (s.servedSweep p).clearSweep = s.clearSweep := rfl
@[simp] theorem State.servedSweep_clearSessions (p : SweepIx) : (s.servedSweep p).clearSessions = s.clearSessions := rfl
@[simp] theorem State.servedSweep_clearClaims (p : SweepIx) : (s.servedSweep p).clearClaims = s.clearClaims := rfl
@[simp] theorem State.servedSweep_clearEntries (p : SweepIx) : (s.servedSweep p).clearEntries = s.clearEntries := rfl
@[simp] theorem State.servedSweep_deviceCauses (p : SweepIx) : (s.servedSweep p).deviceCauses = s.deviceCauses := rfl
@[simp] theorem State.servedSweep_deviceMask (p : SweepIx) : (s.servedSweep p).deviceMask = s.deviceMask := rfl
@[simp] theorem State.servedSweep_counters (p : SweepIx) : (s.servedSweep p).counters = s.counters := rfl
@[simp] theorem State.servedSweep_entry (p : SweepIx) (j : EntryIx) : (s.servedSweep p).entry j = s.entry j := rfl
@[simp] theorem State.servedSweep_claim (p : SweepIx) (j : ClaimIx) : (s.servedSweep p).claim j = s.claim j := rfl
@[simp] theorem State.servedSweep_session (p : SweepIx) (j : SlotIx) : (s.servedSweep p).session j = s.session j := rfl
@[simp] theorem State.servedSweep_ns (p : SweepIx) (j : NsIx) : (s.servedSweep p).ns j = s.ns j := rfl
@[simp] theorem State.servedSweep_line (p : SweepIx) (j : LineIx) : (s.servedSweep p).line j = s.line j := rfl
@[simp] theorem State.servedSweep_chain (p : SweepIx) (j : BucketIx) : (s.servedSweep p).chain j = s.chain j := rfl

/-! ### insertDeadline -/

@[simp] theorem State.insertDeadline_pending (d : Deadline) : (s.insertDeadline d).pending = s.pending := rfl
@[simp] theorem State.insertDeadline_entries (d : Deadline) : (s.insertDeadline d).entries = s.entries := rfl
@[simp] theorem State.insertDeadline_chains (d : Deadline) : (s.insertDeadline d).chains = s.chains := rfl
@[simp] theorem State.insertDeadline_tokenCounter (d : Deadline) : (s.insertDeadline d).tokenCounter = s.tokenCounter := rfl
@[simp] theorem State.insertDeadline_tokenLoaded (d : Deadline) : (s.insertDeadline d).tokenLoaded = s.tokenLoaded := rfl
@[simp] theorem State.insertDeadline_freeEntryCount (d : Deadline) : (s.insertDeadline d).freeEntryCount = s.freeEntryCount := rfl
@[simp] theorem State.insertDeadline_arbiterLast (d : Deadline) : (s.insertDeadline d).arbiterLast = s.arbiterLast := rfl
@[simp] theorem State.insertDeadline_sweepLast (d : Deadline) : (s.insertDeadline d).sweepLast = s.sweepLast := rfl
@[simp] theorem State.insertDeadline_claims (d : Deadline) : (s.insertDeadline d).claims = s.claims := rfl
@[simp] theorem State.insertDeadline_freeList (d : Deadline) : (s.insertDeadline d).freeList = s.freeList := rfl
@[simp] theorem State.insertDeadline_freeClaimCount (d : Deadline) : (s.insertDeadline d).freeClaimCount = s.freeClaimCount := rfl
@[simp] theorem State.insertDeadline_sessions (d : Deadline) : (s.insertDeadline d).sessions = s.sessions := rfl
@[simp] theorem State.insertDeadline_namespaces (d : Deadline) : (s.insertDeadline d).namespaces = s.namespaces := rfl
@[simp] theorem State.insertDeadline_divider (d : Deadline) : (s.insertDeadline d).divider = s.divider := rfl
@[simp] theorem State.insertDeadline_time (d : Deadline) : (s.insertDeadline d).time = s.time := rfl
@[simp] theorem State.insertDeadline_expiries (d : Deadline) : (s.insertDeadline d).expiries = s.expiries := rfl
@[simp] theorem State.insertDeadline_lines (d : Deadline) : (s.insertDeadline d).lines = s.lines := rfl
@[simp] theorem State.insertDeadline_service (d : Deadline) : (s.insertDeadline d).service = s.service := rfl
@[simp] theorem State.insertDeadline_mailbox (d : Deadline) : (s.insertDeadline d).mailbox = s.mailbox := rfl
@[simp] theorem State.insertDeadline_commandCode (d : Deadline) : (s.insertDeadline d).commandCode = s.commandCode := rfl
@[simp] theorem State.insertDeadline_longCommand (d : Deadline) : (s.insertDeadline d).longCommand = s.longCommand := rfl
@[simp] theorem State.insertDeadline_resultCode (d : Deadline) : (s.insertDeadline d).resultCode = s.resultCode := rfl
@[simp] theorem State.insertDeadline_params (d : Deadline) : (s.insertDeadline d).params = s.params := rfl
@[simp] theorem State.insertDeadline_result (d : Deadline) : (s.insertDeadline d).result = s.result := rfl
@[simp] theorem State.insertDeadline_spiWrite (d : Deadline) : (s.insertDeadline d).spiWrite = s.spiWrite := rfl
@[simp] theorem State.insertDeadline_leaseMin (d : Deadline) : (s.insertDeadline d).leaseMin = s.leaseMin := rfl
@[simp] theorem State.insertDeadline_leaseMax (d : Deadline) : (s.insertDeadline d).leaseMax = s.leaseMax := rfl
@[simp] theorem State.insertDeadline_poolThreshold (d : Deadline) : (s.insertDeadline d).poolThreshold = s.poolThreshold := rfl
@[simp] theorem State.insertDeadline_clearSweep (d : Deadline) : (s.insertDeadline d).clearSweep = s.clearSweep := rfl
@[simp] theorem State.insertDeadline_clearSessions (d : Deadline) : (s.insertDeadline d).clearSessions = s.clearSessions := rfl
@[simp] theorem State.insertDeadline_clearClaims (d : Deadline) : (s.insertDeadline d).clearClaims = s.clearClaims := rfl
@[simp] theorem State.insertDeadline_clearEntries (d : Deadline) : (s.insertDeadline d).clearEntries = s.clearEntries := rfl
@[simp] theorem State.insertDeadline_deviceCauses (d : Deadline) : (s.insertDeadline d).deviceCauses = s.deviceCauses := rfl
@[simp] theorem State.insertDeadline_deviceMask (d : Deadline) : (s.insertDeadline d).deviceMask = s.deviceMask := rfl
@[simp] theorem State.insertDeadline_counters (d : Deadline) : (s.insertDeadline d).counters = s.counters := rfl
@[simp] theorem State.insertDeadline_entry (d : Deadline) (j : EntryIx) : (s.insertDeadline d).entry j = s.entry j := rfl
@[simp] theorem State.insertDeadline_claim (d : Deadline) (j : ClaimIx) : (s.insertDeadline d).claim j = s.claim j := rfl
@[simp] theorem State.insertDeadline_session (d : Deadline) (j : SlotIx) : (s.insertDeadline d).session j = s.session j := rfl
@[simp] theorem State.insertDeadline_ns (d : Deadline) (j : NsIx) : (s.insertDeadline d).ns j = s.ns j := rfl
@[simp] theorem State.insertDeadline_line (d : Deadline) (j : LineIx) : (s.insertDeadline d).line j = s.line j := rfl
@[simp] theorem State.insertDeadline_chain (d : Deadline) (j : BucketIx) : (s.insertDeadline d).chain j = s.chain j := rfl

/-! ### dropLease -/

@[simp] theorem State.dropLease_pending (i : SlotIx) : (s.dropLease i).pending = s.pending := rfl
@[simp] theorem State.dropLease_entries (i : SlotIx) : (s.dropLease i).entries = s.entries := rfl
@[simp] theorem State.dropLease_chains (i : SlotIx) : (s.dropLease i).chains = s.chains := rfl
@[simp] theorem State.dropLease_tokenCounter (i : SlotIx) : (s.dropLease i).tokenCounter = s.tokenCounter := rfl
@[simp] theorem State.dropLease_tokenLoaded (i : SlotIx) : (s.dropLease i).tokenLoaded = s.tokenLoaded := rfl
@[simp] theorem State.dropLease_freeEntryCount (i : SlotIx) : (s.dropLease i).freeEntryCount = s.freeEntryCount := rfl
@[simp] theorem State.dropLease_arbiterLast (i : SlotIx) : (s.dropLease i).arbiterLast = s.arbiterLast := rfl
@[simp] theorem State.dropLease_sweepLast (i : SlotIx) : (s.dropLease i).sweepLast = s.sweepLast := rfl
@[simp] theorem State.dropLease_claims (i : SlotIx) : (s.dropLease i).claims = s.claims := rfl
@[simp] theorem State.dropLease_freeList (i : SlotIx) : (s.dropLease i).freeList = s.freeList := rfl
@[simp] theorem State.dropLease_freeClaimCount (i : SlotIx) : (s.dropLease i).freeClaimCount = s.freeClaimCount := rfl
@[simp] theorem State.dropLease_sessions (i : SlotIx) : (s.dropLease i).sessions = s.sessions := rfl
@[simp] theorem State.dropLease_namespaces (i : SlotIx) : (s.dropLease i).namespaces = s.namespaces := rfl
@[simp] theorem State.dropLease_divider (i : SlotIx) : (s.dropLease i).divider = s.divider := rfl
@[simp] theorem State.dropLease_time (i : SlotIx) : (s.dropLease i).time = s.time := rfl
@[simp] theorem State.dropLease_expiries (i : SlotIx) : (s.dropLease i).expiries = s.expiries := rfl
@[simp] theorem State.dropLease_lines (i : SlotIx) : (s.dropLease i).lines = s.lines := rfl
@[simp] theorem State.dropLease_service (i : SlotIx) : (s.dropLease i).service = s.service := rfl
@[simp] theorem State.dropLease_mailbox (i : SlotIx) : (s.dropLease i).mailbox = s.mailbox := rfl
@[simp] theorem State.dropLease_commandCode (i : SlotIx) : (s.dropLease i).commandCode = s.commandCode := rfl
@[simp] theorem State.dropLease_longCommand (i : SlotIx) : (s.dropLease i).longCommand = s.longCommand := rfl
@[simp] theorem State.dropLease_resultCode (i : SlotIx) : (s.dropLease i).resultCode = s.resultCode := rfl
@[simp] theorem State.dropLease_params (i : SlotIx) : (s.dropLease i).params = s.params := rfl
@[simp] theorem State.dropLease_result (i : SlotIx) : (s.dropLease i).result = s.result := rfl
@[simp] theorem State.dropLease_spiWrite (i : SlotIx) : (s.dropLease i).spiWrite = s.spiWrite := rfl
@[simp] theorem State.dropLease_leaseMin (i : SlotIx) : (s.dropLease i).leaseMin = s.leaseMin := rfl
@[simp] theorem State.dropLease_leaseMax (i : SlotIx) : (s.dropLease i).leaseMax = s.leaseMax := rfl
@[simp] theorem State.dropLease_poolThreshold (i : SlotIx) : (s.dropLease i).poolThreshold = s.poolThreshold := rfl
@[simp] theorem State.dropLease_clearSweep (i : SlotIx) : (s.dropLease i).clearSweep = s.clearSweep := rfl
@[simp] theorem State.dropLease_clearSessions (i : SlotIx) : (s.dropLease i).clearSessions = s.clearSessions := rfl
@[simp] theorem State.dropLease_clearClaims (i : SlotIx) : (s.dropLease i).clearClaims = s.clearClaims := rfl
@[simp] theorem State.dropLease_clearEntries (i : SlotIx) : (s.dropLease i).clearEntries = s.clearEntries := rfl
@[simp] theorem State.dropLease_deviceCauses (i : SlotIx) : (s.dropLease i).deviceCauses = s.deviceCauses := rfl
@[simp] theorem State.dropLease_deviceMask (i : SlotIx) : (s.dropLease i).deviceMask = s.deviceMask := rfl
@[simp] theorem State.dropLease_counters (i : SlotIx) : (s.dropLease i).counters = s.counters := rfl
@[simp] theorem State.dropLease_entry (i : SlotIx) (j : EntryIx) : (s.dropLease i).entry j = s.entry j := rfl
@[simp] theorem State.dropLease_claim (i : SlotIx) (j : ClaimIx) : (s.dropLease i).claim j = s.claim j := rfl
@[simp] theorem State.dropLease_session (i : SlotIx) (j : SlotIx) : (s.dropLease i).session j = s.session j := rfl
@[simp] theorem State.dropLease_ns (i : SlotIx) (j : NsIx) : (s.dropLease i).ns j = s.ns j := rfl
@[simp] theorem State.dropLease_line (i : SlotIx) (j : LineIx) : (s.dropLease i).line j = s.line j := rfl
@[simp] theorem State.dropLease_chain (i : SlotIx) (j : BucketIx) : (s.dropLease i).chain j = s.chain j := rfl

/-! ### dropWait -/

@[simp] theorem State.dropWait_pending (c : ClaimIx) : (s.dropWait c).pending = s.pending := rfl
@[simp] theorem State.dropWait_entries (c : ClaimIx) : (s.dropWait c).entries = s.entries := rfl
@[simp] theorem State.dropWait_chains (c : ClaimIx) : (s.dropWait c).chains = s.chains := rfl
@[simp] theorem State.dropWait_tokenCounter (c : ClaimIx) : (s.dropWait c).tokenCounter = s.tokenCounter := rfl
@[simp] theorem State.dropWait_tokenLoaded (c : ClaimIx) : (s.dropWait c).tokenLoaded = s.tokenLoaded := rfl
@[simp] theorem State.dropWait_freeEntryCount (c : ClaimIx) : (s.dropWait c).freeEntryCount = s.freeEntryCount := rfl
@[simp] theorem State.dropWait_arbiterLast (c : ClaimIx) : (s.dropWait c).arbiterLast = s.arbiterLast := rfl
@[simp] theorem State.dropWait_sweepLast (c : ClaimIx) : (s.dropWait c).sweepLast = s.sweepLast := rfl
@[simp] theorem State.dropWait_claims (c : ClaimIx) : (s.dropWait c).claims = s.claims := rfl
@[simp] theorem State.dropWait_freeList (c : ClaimIx) : (s.dropWait c).freeList = s.freeList := rfl
@[simp] theorem State.dropWait_freeClaimCount (c : ClaimIx) : (s.dropWait c).freeClaimCount = s.freeClaimCount := rfl
@[simp] theorem State.dropWait_sessions (c : ClaimIx) : (s.dropWait c).sessions = s.sessions := rfl
@[simp] theorem State.dropWait_namespaces (c : ClaimIx) : (s.dropWait c).namespaces = s.namespaces := rfl
@[simp] theorem State.dropWait_divider (c : ClaimIx) : (s.dropWait c).divider = s.divider := rfl
@[simp] theorem State.dropWait_time (c : ClaimIx) : (s.dropWait c).time = s.time := rfl
@[simp] theorem State.dropWait_expiries (c : ClaimIx) : (s.dropWait c).expiries = s.expiries := rfl
@[simp] theorem State.dropWait_lines (c : ClaimIx) : (s.dropWait c).lines = s.lines := rfl
@[simp] theorem State.dropWait_service (c : ClaimIx) : (s.dropWait c).service = s.service := rfl
@[simp] theorem State.dropWait_mailbox (c : ClaimIx) : (s.dropWait c).mailbox = s.mailbox := rfl
@[simp] theorem State.dropWait_commandCode (c : ClaimIx) : (s.dropWait c).commandCode = s.commandCode := rfl
@[simp] theorem State.dropWait_longCommand (c : ClaimIx) : (s.dropWait c).longCommand = s.longCommand := rfl
@[simp] theorem State.dropWait_resultCode (c : ClaimIx) : (s.dropWait c).resultCode = s.resultCode := rfl
@[simp] theorem State.dropWait_params (c : ClaimIx) : (s.dropWait c).params = s.params := rfl
@[simp] theorem State.dropWait_result (c : ClaimIx) : (s.dropWait c).result = s.result := rfl
@[simp] theorem State.dropWait_spiWrite (c : ClaimIx) : (s.dropWait c).spiWrite = s.spiWrite := rfl
@[simp] theorem State.dropWait_leaseMin (c : ClaimIx) : (s.dropWait c).leaseMin = s.leaseMin := rfl
@[simp] theorem State.dropWait_leaseMax (c : ClaimIx) : (s.dropWait c).leaseMax = s.leaseMax := rfl
@[simp] theorem State.dropWait_poolThreshold (c : ClaimIx) : (s.dropWait c).poolThreshold = s.poolThreshold := rfl
@[simp] theorem State.dropWait_clearSweep (c : ClaimIx) : (s.dropWait c).clearSweep = s.clearSweep := rfl
@[simp] theorem State.dropWait_clearSessions (c : ClaimIx) : (s.dropWait c).clearSessions = s.clearSessions := rfl
@[simp] theorem State.dropWait_clearClaims (c : ClaimIx) : (s.dropWait c).clearClaims = s.clearClaims := rfl
@[simp] theorem State.dropWait_clearEntries (c : ClaimIx) : (s.dropWait c).clearEntries = s.clearEntries := rfl
@[simp] theorem State.dropWait_deviceCauses (c : ClaimIx) : (s.dropWait c).deviceCauses = s.deviceCauses := rfl
@[simp] theorem State.dropWait_deviceMask (c : ClaimIx) : (s.dropWait c).deviceMask = s.deviceMask := rfl
@[simp] theorem State.dropWait_counters (c : ClaimIx) : (s.dropWait c).counters = s.counters := rfl
@[simp] theorem State.dropWait_entry (c : ClaimIx) (j : EntryIx) : (s.dropWait c).entry j = s.entry j := rfl
@[simp] theorem State.dropWait_claim (c : ClaimIx) (j : ClaimIx) : (s.dropWait c).claim j = s.claim j := rfl
@[simp] theorem State.dropWait_session (c : ClaimIx) (j : SlotIx) : (s.dropWait c).session j = s.session j := rfl
@[simp] theorem State.dropWait_ns (c : ClaimIx) (j : NsIx) : (s.dropWait c).ns j = s.ns j := rfl
@[simp] theorem State.dropWait_line (c : ClaimIx) (j : LineIx) : (s.dropWait c).line j = s.line j := rfl
@[simp] theorem State.dropWait_chain (c : ClaimIx) (j : BucketIx) : (s.dropWait c).chain j = s.chain j := rfl

/-! ### writeDeviceCauses -/

@[simp] theorem State.writeDeviceCauses_pending (b : Byte) : (s.writeDeviceCauses b).pending = s.pending := rfl
@[simp] theorem State.writeDeviceCauses_entries (b : Byte) : (s.writeDeviceCauses b).entries = s.entries := rfl
@[simp] theorem State.writeDeviceCauses_chains (b : Byte) : (s.writeDeviceCauses b).chains = s.chains := rfl
@[simp] theorem State.writeDeviceCauses_tokenCounter (b : Byte) : (s.writeDeviceCauses b).tokenCounter = s.tokenCounter := rfl
@[simp] theorem State.writeDeviceCauses_tokenLoaded (b : Byte) : (s.writeDeviceCauses b).tokenLoaded = s.tokenLoaded := rfl
@[simp] theorem State.writeDeviceCauses_freeEntryCount (b : Byte) : (s.writeDeviceCauses b).freeEntryCount = s.freeEntryCount := rfl
@[simp] theorem State.writeDeviceCauses_arbiterLast (b : Byte) : (s.writeDeviceCauses b).arbiterLast = s.arbiterLast := rfl
@[simp] theorem State.writeDeviceCauses_sweepLast (b : Byte) : (s.writeDeviceCauses b).sweepLast = s.sweepLast := rfl
@[simp] theorem State.writeDeviceCauses_claims (b : Byte) : (s.writeDeviceCauses b).claims = s.claims := rfl
@[simp] theorem State.writeDeviceCauses_freeList (b : Byte) : (s.writeDeviceCauses b).freeList = s.freeList := rfl
@[simp] theorem State.writeDeviceCauses_freeClaimCount (b : Byte) : (s.writeDeviceCauses b).freeClaimCount = s.freeClaimCount := rfl
@[simp] theorem State.writeDeviceCauses_sessions (b : Byte) : (s.writeDeviceCauses b).sessions = s.sessions := rfl
@[simp] theorem State.writeDeviceCauses_namespaces (b : Byte) : (s.writeDeviceCauses b).namespaces = s.namespaces := rfl
@[simp] theorem State.writeDeviceCauses_divider (b : Byte) : (s.writeDeviceCauses b).divider = s.divider := rfl
@[simp] theorem State.writeDeviceCauses_time (b : Byte) : (s.writeDeviceCauses b).time = s.time := rfl
@[simp] theorem State.writeDeviceCauses_deadlines (b : Byte) : (s.writeDeviceCauses b).deadlines = s.deadlines := rfl
@[simp] theorem State.writeDeviceCauses_expiries (b : Byte) : (s.writeDeviceCauses b).expiries = s.expiries := rfl
@[simp] theorem State.writeDeviceCauses_lines (b : Byte) : (s.writeDeviceCauses b).lines = s.lines := rfl
@[simp] theorem State.writeDeviceCauses_service (b : Byte) : (s.writeDeviceCauses b).service = s.service := rfl
@[simp] theorem State.writeDeviceCauses_mailbox (b : Byte) : (s.writeDeviceCauses b).mailbox = s.mailbox := rfl
@[simp] theorem State.writeDeviceCauses_commandCode (b : Byte) : (s.writeDeviceCauses b).commandCode = s.commandCode := rfl
@[simp] theorem State.writeDeviceCauses_longCommand (b : Byte) : (s.writeDeviceCauses b).longCommand = s.longCommand := rfl
@[simp] theorem State.writeDeviceCauses_resultCode (b : Byte) : (s.writeDeviceCauses b).resultCode = s.resultCode := rfl
@[simp] theorem State.writeDeviceCauses_params (b : Byte) : (s.writeDeviceCauses b).params = s.params := rfl
@[simp] theorem State.writeDeviceCauses_result (b : Byte) : (s.writeDeviceCauses b).result = s.result := rfl
@[simp] theorem State.writeDeviceCauses_spiWrite (b : Byte) : (s.writeDeviceCauses b).spiWrite = s.spiWrite := rfl
@[simp] theorem State.writeDeviceCauses_leaseMin (b : Byte) : (s.writeDeviceCauses b).leaseMin = s.leaseMin := rfl
@[simp] theorem State.writeDeviceCauses_leaseMax (b : Byte) : (s.writeDeviceCauses b).leaseMax = s.leaseMax := rfl
@[simp] theorem State.writeDeviceCauses_poolThreshold (b : Byte) : (s.writeDeviceCauses b).poolThreshold = s.poolThreshold := rfl
@[simp] theorem State.writeDeviceCauses_clearSweep (b : Byte) : (s.writeDeviceCauses b).clearSweep = s.clearSweep := rfl
@[simp] theorem State.writeDeviceCauses_clearSessions (b : Byte) : (s.writeDeviceCauses b).clearSessions = s.clearSessions := rfl
@[simp] theorem State.writeDeviceCauses_clearClaims (b : Byte) : (s.writeDeviceCauses b).clearClaims = s.clearClaims := rfl
@[simp] theorem State.writeDeviceCauses_clearEntries (b : Byte) : (s.writeDeviceCauses b).clearEntries = s.clearEntries := rfl
@[simp] theorem State.writeDeviceCauses_deviceMask (b : Byte) : (s.writeDeviceCauses b).deviceMask = s.deviceMask := rfl
@[simp] theorem State.writeDeviceCauses_counters (b : Byte) : (s.writeDeviceCauses b).counters = s.counters := rfl
@[simp] theorem State.writeDeviceCauses_entry (b : Byte) (j : EntryIx) : (s.writeDeviceCauses b).entry j = s.entry j := rfl
@[simp] theorem State.writeDeviceCauses_claim (b : Byte) (j : ClaimIx) : (s.writeDeviceCauses b).claim j = s.claim j := rfl
@[simp] theorem State.writeDeviceCauses_session (b : Byte) (j : SlotIx) : (s.writeDeviceCauses b).session j = s.session j := rfl
@[simp] theorem State.writeDeviceCauses_ns (b : Byte) (j : NsIx) : (s.writeDeviceCauses b).ns j = s.ns j := rfl
@[simp] theorem State.writeDeviceCauses_line (b : Byte) (j : LineIx) : (s.writeDeviceCauses b).line j = s.line j := rfl
@[simp] theorem State.writeDeviceCauses_chain (b : Byte) (j : BucketIx) : (s.writeDeviceCauses b).chain j = s.chain j := rfl

/-! ### writeDeviceMask -/

@[simp] theorem State.writeDeviceMask_pending (b : Byte) : (s.writeDeviceMask b).pending = s.pending := rfl
@[simp] theorem State.writeDeviceMask_entries (b : Byte) : (s.writeDeviceMask b).entries = s.entries := rfl
@[simp] theorem State.writeDeviceMask_chains (b : Byte) : (s.writeDeviceMask b).chains = s.chains := rfl
@[simp] theorem State.writeDeviceMask_tokenCounter (b : Byte) : (s.writeDeviceMask b).tokenCounter = s.tokenCounter := rfl
@[simp] theorem State.writeDeviceMask_tokenLoaded (b : Byte) : (s.writeDeviceMask b).tokenLoaded = s.tokenLoaded := rfl
@[simp] theorem State.writeDeviceMask_freeEntryCount (b : Byte) : (s.writeDeviceMask b).freeEntryCount = s.freeEntryCount := rfl
@[simp] theorem State.writeDeviceMask_arbiterLast (b : Byte) : (s.writeDeviceMask b).arbiterLast = s.arbiterLast := rfl
@[simp] theorem State.writeDeviceMask_sweepLast (b : Byte) : (s.writeDeviceMask b).sweepLast = s.sweepLast := rfl
@[simp] theorem State.writeDeviceMask_claims (b : Byte) : (s.writeDeviceMask b).claims = s.claims := rfl
@[simp] theorem State.writeDeviceMask_freeList (b : Byte) : (s.writeDeviceMask b).freeList = s.freeList := rfl
@[simp] theorem State.writeDeviceMask_freeClaimCount (b : Byte) : (s.writeDeviceMask b).freeClaimCount = s.freeClaimCount := rfl
@[simp] theorem State.writeDeviceMask_sessions (b : Byte) : (s.writeDeviceMask b).sessions = s.sessions := rfl
@[simp] theorem State.writeDeviceMask_namespaces (b : Byte) : (s.writeDeviceMask b).namespaces = s.namespaces := rfl
@[simp] theorem State.writeDeviceMask_divider (b : Byte) : (s.writeDeviceMask b).divider = s.divider := rfl
@[simp] theorem State.writeDeviceMask_time (b : Byte) : (s.writeDeviceMask b).time = s.time := rfl
@[simp] theorem State.writeDeviceMask_deadlines (b : Byte) : (s.writeDeviceMask b).deadlines = s.deadlines := rfl
@[simp] theorem State.writeDeviceMask_expiries (b : Byte) : (s.writeDeviceMask b).expiries = s.expiries := rfl
@[simp] theorem State.writeDeviceMask_lines (b : Byte) : (s.writeDeviceMask b).lines = s.lines := rfl
@[simp] theorem State.writeDeviceMask_service (b : Byte) : (s.writeDeviceMask b).service = s.service := rfl
@[simp] theorem State.writeDeviceMask_mailbox (b : Byte) : (s.writeDeviceMask b).mailbox = s.mailbox := rfl
@[simp] theorem State.writeDeviceMask_commandCode (b : Byte) : (s.writeDeviceMask b).commandCode = s.commandCode := rfl
@[simp] theorem State.writeDeviceMask_longCommand (b : Byte) : (s.writeDeviceMask b).longCommand = s.longCommand := rfl
@[simp] theorem State.writeDeviceMask_resultCode (b : Byte) : (s.writeDeviceMask b).resultCode = s.resultCode := rfl
@[simp] theorem State.writeDeviceMask_params (b : Byte) : (s.writeDeviceMask b).params = s.params := rfl
@[simp] theorem State.writeDeviceMask_result (b : Byte) : (s.writeDeviceMask b).result = s.result := rfl
@[simp] theorem State.writeDeviceMask_spiWrite (b : Byte) : (s.writeDeviceMask b).spiWrite = s.spiWrite := rfl
@[simp] theorem State.writeDeviceMask_leaseMin (b : Byte) : (s.writeDeviceMask b).leaseMin = s.leaseMin := rfl
@[simp] theorem State.writeDeviceMask_leaseMax (b : Byte) : (s.writeDeviceMask b).leaseMax = s.leaseMax := rfl
@[simp] theorem State.writeDeviceMask_poolThreshold (b : Byte) : (s.writeDeviceMask b).poolThreshold = s.poolThreshold := rfl
@[simp] theorem State.writeDeviceMask_clearSweep (b : Byte) : (s.writeDeviceMask b).clearSweep = s.clearSweep := rfl
@[simp] theorem State.writeDeviceMask_clearSessions (b : Byte) : (s.writeDeviceMask b).clearSessions = s.clearSessions := rfl
@[simp] theorem State.writeDeviceMask_clearClaims (b : Byte) : (s.writeDeviceMask b).clearClaims = s.clearClaims := rfl
@[simp] theorem State.writeDeviceMask_clearEntries (b : Byte) : (s.writeDeviceMask b).clearEntries = s.clearEntries := rfl
@[simp] theorem State.writeDeviceMask_deviceCauses (b : Byte) : (s.writeDeviceMask b).deviceCauses = s.deviceCauses := rfl
@[simp] theorem State.writeDeviceMask_counters (b : Byte) : (s.writeDeviceMask b).counters = s.counters := rfl
@[simp] theorem State.writeDeviceMask_entry (b : Byte) (j : EntryIx) : (s.writeDeviceMask b).entry j = s.entry j := rfl
@[simp] theorem State.writeDeviceMask_claim (b : Byte) (j : ClaimIx) : (s.writeDeviceMask b).claim j = s.claim j := rfl
@[simp] theorem State.writeDeviceMask_session (b : Byte) (j : SlotIx) : (s.writeDeviceMask b).session j = s.session j := rfl
@[simp] theorem State.writeDeviceMask_ns (b : Byte) (j : NsIx) : (s.writeDeviceMask b).ns j = s.ns j := rfl
@[simp] theorem State.writeDeviceMask_line (b : Byte) (j : LineIx) : (s.writeDeviceMask b).line j = s.line j := rfl
@[simp] theorem State.writeDeviceMask_chain (b : Byte) (j : BucketIx) : (s.writeDeviceMask b).chain j = s.chain j := rfl

/-! ### takeCommand -/

@[simp] theorem State.takeCommand_pending : (s.takeCommand).pending = s.pending := rfl
@[simp] theorem State.takeCommand_entries : (s.takeCommand).entries = s.entries := rfl
@[simp] theorem State.takeCommand_chains : (s.takeCommand).chains = s.chains := rfl
@[simp] theorem State.takeCommand_tokenCounter : (s.takeCommand).tokenCounter = s.tokenCounter := rfl
@[simp] theorem State.takeCommand_tokenLoaded : (s.takeCommand).tokenLoaded = s.tokenLoaded := rfl
@[simp] theorem State.takeCommand_freeEntryCount : (s.takeCommand).freeEntryCount = s.freeEntryCount := rfl
@[simp] theorem State.takeCommand_sweepLast : (s.takeCommand).sweepLast = s.sweepLast := rfl
@[simp] theorem State.takeCommand_claims : (s.takeCommand).claims = s.claims := rfl
@[simp] theorem State.takeCommand_freeList : (s.takeCommand).freeList = s.freeList := rfl
@[simp] theorem State.takeCommand_freeClaimCount : (s.takeCommand).freeClaimCount = s.freeClaimCount := rfl
@[simp] theorem State.takeCommand_sessions : (s.takeCommand).sessions = s.sessions := rfl
@[simp] theorem State.takeCommand_namespaces : (s.takeCommand).namespaces = s.namespaces := rfl
@[simp] theorem State.takeCommand_divider : (s.takeCommand).divider = s.divider := rfl
@[simp] theorem State.takeCommand_time : (s.takeCommand).time = s.time := rfl
@[simp] theorem State.takeCommand_deadlines : (s.takeCommand).deadlines = s.deadlines := rfl
@[simp] theorem State.takeCommand_expiries : (s.takeCommand).expiries = s.expiries := rfl
@[simp] theorem State.takeCommand_lines : (s.takeCommand).lines = s.lines := rfl
@[simp] theorem State.takeCommand_service : (s.takeCommand).service = s.service := rfl
@[simp] theorem State.takeCommand_commandCode : (s.takeCommand).commandCode = s.commandCode := rfl
@[simp] theorem State.takeCommand_longCommand : (s.takeCommand).longCommand = s.longCommand := rfl
@[simp] theorem State.takeCommand_resultCode : (s.takeCommand).resultCode = s.resultCode := rfl
@[simp] theorem State.takeCommand_params : (s.takeCommand).params = s.params := rfl
@[simp] theorem State.takeCommand_result : (s.takeCommand).result = s.result := rfl
@[simp] theorem State.takeCommand_spiWrite : (s.takeCommand).spiWrite = s.spiWrite := rfl
@[simp] theorem State.takeCommand_leaseMin : (s.takeCommand).leaseMin = s.leaseMin := rfl
@[simp] theorem State.takeCommand_leaseMax : (s.takeCommand).leaseMax = s.leaseMax := rfl
@[simp] theorem State.takeCommand_poolThreshold : (s.takeCommand).poolThreshold = s.poolThreshold := rfl
@[simp] theorem State.takeCommand_clearSweep : (s.takeCommand).clearSweep = s.clearSweep := rfl
@[simp] theorem State.takeCommand_clearSessions : (s.takeCommand).clearSessions = s.clearSessions := rfl
@[simp] theorem State.takeCommand_clearClaims : (s.takeCommand).clearClaims = s.clearClaims := rfl
@[simp] theorem State.takeCommand_clearEntries : (s.takeCommand).clearEntries = s.clearEntries := rfl
@[simp] theorem State.takeCommand_deviceCauses : (s.takeCommand).deviceCauses = s.deviceCauses := rfl
@[simp] theorem State.takeCommand_deviceMask : (s.takeCommand).deviceMask = s.deviceMask := rfl
@[simp] theorem State.takeCommand_counters : (s.takeCommand).counters = s.counters := rfl
@[simp] theorem State.takeCommand_entry (j : EntryIx) : (s.takeCommand).entry j = s.entry j := rfl
@[simp] theorem State.takeCommand_claim (j : ClaimIx) : (s.takeCommand).claim j = s.claim j := rfl
@[simp] theorem State.takeCommand_session (j : SlotIx) : (s.takeCommand).session j = s.session j := rfl
@[simp] theorem State.takeCommand_ns (j : NsIx) : (s.takeCommand).ns j = s.ns j := rfl
@[simp] theorem State.takeCommand_line (j : LineIx) : (s.takeCommand).line j = s.line j := rfl
@[simp] theorem State.takeCommand_chain (j : BucketIx) : (s.takeCommand).chain j = s.chain j := rfl

/-! ### takeExpiry -/

@[simp] theorem State.takeExpiry_pending : (s.takeExpiry).pending = s.pending := rfl
@[simp] theorem State.takeExpiry_entries : (s.takeExpiry).entries = s.entries := rfl
@[simp] theorem State.takeExpiry_chains : (s.takeExpiry).chains = s.chains := rfl
@[simp] theorem State.takeExpiry_tokenCounter : (s.takeExpiry).tokenCounter = s.tokenCounter := rfl
@[simp] theorem State.takeExpiry_tokenLoaded : (s.takeExpiry).tokenLoaded = s.tokenLoaded := rfl
@[simp] theorem State.takeExpiry_freeEntryCount : (s.takeExpiry).freeEntryCount = s.freeEntryCount := rfl
@[simp] theorem State.takeExpiry_sweepLast : (s.takeExpiry).sweepLast = s.sweepLast := rfl
@[simp] theorem State.takeExpiry_claims : (s.takeExpiry).claims = s.claims := rfl
@[simp] theorem State.takeExpiry_freeList : (s.takeExpiry).freeList = s.freeList := rfl
@[simp] theorem State.takeExpiry_freeClaimCount : (s.takeExpiry).freeClaimCount = s.freeClaimCount := rfl
@[simp] theorem State.takeExpiry_sessions : (s.takeExpiry).sessions = s.sessions := rfl
@[simp] theorem State.takeExpiry_namespaces : (s.takeExpiry).namespaces = s.namespaces := rfl
@[simp] theorem State.takeExpiry_divider : (s.takeExpiry).divider = s.divider := rfl
@[simp] theorem State.takeExpiry_time : (s.takeExpiry).time = s.time := rfl
@[simp] theorem State.takeExpiry_deadlines : (s.takeExpiry).deadlines = s.deadlines := rfl
@[simp] theorem State.takeExpiry_lines : (s.takeExpiry).lines = s.lines := rfl
@[simp] theorem State.takeExpiry_service : (s.takeExpiry).service = s.service := rfl
@[simp] theorem State.takeExpiry_mailbox : (s.takeExpiry).mailbox = s.mailbox := rfl
@[simp] theorem State.takeExpiry_commandCode : (s.takeExpiry).commandCode = s.commandCode := rfl
@[simp] theorem State.takeExpiry_longCommand : (s.takeExpiry).longCommand = s.longCommand := rfl
@[simp] theorem State.takeExpiry_resultCode : (s.takeExpiry).resultCode = s.resultCode := rfl
@[simp] theorem State.takeExpiry_params : (s.takeExpiry).params = s.params := rfl
@[simp] theorem State.takeExpiry_result : (s.takeExpiry).result = s.result := rfl
@[simp] theorem State.takeExpiry_spiWrite : (s.takeExpiry).spiWrite = s.spiWrite := rfl
@[simp] theorem State.takeExpiry_leaseMin : (s.takeExpiry).leaseMin = s.leaseMin := rfl
@[simp] theorem State.takeExpiry_leaseMax : (s.takeExpiry).leaseMax = s.leaseMax := rfl
@[simp] theorem State.takeExpiry_poolThreshold : (s.takeExpiry).poolThreshold = s.poolThreshold := rfl
@[simp] theorem State.takeExpiry_clearSweep : (s.takeExpiry).clearSweep = s.clearSweep := rfl
@[simp] theorem State.takeExpiry_clearSessions : (s.takeExpiry).clearSessions = s.clearSessions := rfl
@[simp] theorem State.takeExpiry_clearClaims : (s.takeExpiry).clearClaims = s.clearClaims := rfl
@[simp] theorem State.takeExpiry_clearEntries : (s.takeExpiry).clearEntries = s.clearEntries := rfl
@[simp] theorem State.takeExpiry_deviceCauses : (s.takeExpiry).deviceCauses = s.deviceCauses := rfl
@[simp] theorem State.takeExpiry_deviceMask : (s.takeExpiry).deviceMask = s.deviceMask := rfl
@[simp] theorem State.takeExpiry_counters : (s.takeExpiry).counters = s.counters := rfl
@[simp] theorem State.takeExpiry_entry (j : EntryIx) : (s.takeExpiry).entry j = s.entry j := rfl
@[simp] theorem State.takeExpiry_claim (j : ClaimIx) : (s.takeExpiry).claim j = s.claim j := rfl
@[simp] theorem State.takeExpiry_session (j : SlotIx) : (s.takeExpiry).session j = s.session j := rfl
@[simp] theorem State.takeExpiry_ns (j : NsIx) : (s.takeExpiry).ns j = s.ns j := rfl
@[simp] theorem State.takeExpiry_line (j : LineIx) : (s.takeExpiry).line j = s.line j := rfl
@[simp] theorem State.takeExpiry_chain (j : BucketIx) : (s.takeExpiry).chain j = s.chain j := rfl

/-! ### One record after the change of one record -/

theorem State.updEntry_entry (e : EntryIx) (f : Entry → Entry) (j : EntryIx) :
    (s.updEntry e f).entry j = if e = j then f (s.entry e) else s.entry j := by
  simp [State.updEntry, State.entry, Vector.getElem_set, Fin.ext_iff]

@[simp] theorem State.updEntry_entry_same (e : EntryIx) (f : Entry → Entry) : (s.updEntry e f).entry e = f (s.entry e) := by
  simp [State.updEntry_entry]

theorem State.updEntry_entry_other (e : EntryIx) (f : Entry → Entry) (j : EntryIx) (h : e ≠ j) :
    (s.updEntry e f).entry j = s.entry j := by
  simp [State.updEntry_entry, h]

theorem State.updClaim_claim (c : ClaimIx) (f : Claim → Claim) (j : ClaimIx) :
    (s.updClaim c f).claim j = if c = j then f (s.claim c) else s.claim j := by
  simp [State.updClaim, State.claim, Vector.getElem_set, Fin.ext_iff]

@[simp] theorem State.updClaim_claim_same (c : ClaimIx) (f : Claim → Claim) : (s.updClaim c f).claim c = f (s.claim c) := by
  simp [State.updClaim_claim]

theorem State.updClaim_claim_other (c : ClaimIx) (f : Claim → Claim) (j : ClaimIx) (h : c ≠ j) :
    (s.updClaim c f).claim j = s.claim j := by
  simp [State.updClaim_claim, h]

theorem State.updSession_session (i : SlotIx) (f : Session → Session) (j : SlotIx) :
    (s.updSession i f).session j = if i = j then f (s.session i) else s.session j := by
  simp [State.updSession, State.session, Vector.getElem_set, Fin.ext_iff]

@[simp] theorem State.updSession_session_same (i : SlotIx) (f : Session → Session) : (s.updSession i f).session i = f (s.session i) := by
  simp [State.updSession_session]

theorem State.updSession_session_other (i : SlotIx) (f : Session → Session) (j : SlotIx) (h : i ≠ j) :
    (s.updSession i f).session j = s.session j := by
  simp [State.updSession_session, h]

theorem State.updNs_ns (n : NsIx) (f : Namespace → Namespace) (j : NsIx) :
    (s.updNs n f).ns j = if n = j then f (s.ns n) else s.ns j := by
  simp [State.updNs, State.ns, Vector.getElem_set, Fin.ext_iff]

@[simp] theorem State.updNs_ns_same (n : NsIx) (f : Namespace → Namespace) : (s.updNs n f).ns n = f (s.ns n) := by
  simp [State.updNs_ns]

theorem State.updNs_ns_other (n : NsIx) (f : Namespace → Namespace) (j : NsIx) (h : n ≠ j) :
    (s.updNs n f).ns j = s.ns j := by
  simp [State.updNs_ns, h]

theorem State.updLine_line (l : LineIx) (f : Line → Line) (j : LineIx) :
    (s.updLine l f).line j = if l = j then f (s.line l) else s.line j := by
  simp [State.updLine, State.line, Vector.getElem_set, Fin.ext_iff]

@[simp] theorem State.updLine_line_same (l : LineIx) (f : Line → Line) : (s.updLine l f).line l = f (s.line l) := by
  simp [State.updLine_line]

theorem State.updLine_line_other (l : LineIx) (f : Line → Line) (j : LineIx) (h : l ≠ j) :
    (s.updLine l f).line j = s.line j := by
  simp [State.updLine_line, h]

theorem State.updChain_chain (b : BucketIx) (f : List EntryIx → List EntryIx) (j : BucketIx) :
    (s.updChain b f).chain j = if b = j then f (s.chain b) else s.chain j := by
  simp [State.updChain, State.chain, Vector.getElem_set, Fin.ext_iff]

@[simp] theorem State.updChain_chain_same (b : BucketIx) (f : List EntryIx → List EntryIx) : (s.updChain b f).chain b = f (s.chain b) := by
  simp [State.updChain_chain]

theorem State.updChain_chain_other (b : BucketIx) (f : List EntryIx → List EntryIx) (j : BucketIx) (h : b ≠ j) :
    (s.updChain b f).chain j = s.chain j := by
  simp [State.updChain_chain, h]

/-! ### The fields an update writes -/

@[simp] theorem State.served_arbiterLast (p : SourceIx) : (s.served p).arbiterLast = p := rfl
@[simp] theorem State.servedSweep_arbiterLast (p : SweepIx) :
    (s.servedSweep p).arbiterLast = srcSweep := rfl
@[simp] theorem State.servedSweep_sweepLast (p : SweepIx) : (s.servedSweep p).sweepLast = p := rfl
@[simp] theorem State.takeCommand_mailbox : s.takeCommand.mailbox = .busy true := rfl
@[simp] theorem State.takeCommand_arbiterLast : s.takeCommand.arbiterLast = srcManagement := rfl
@[simp] theorem State.takeExpiry_expiries : s.takeExpiry.expiries = s.expiries.tail := rfl
@[simp] theorem State.takeExpiry_arbiterLast : s.takeExpiry.arbiterLast = srcDeadline := rfl
@[simp] theorem State.raise_deviceCauses (k : DeviceCause) :
    (s.raise k).deviceCauses = s.deviceCauses ||| deviceCauseBit k := rfl
@[simp] theorem State.insertDeadline_deadlines (d : Deadline) :
    (s.insertDeadline d).deadlines = Sys2Proof.Machine.insertDeadline d s.deadlines := rfl
@[simp] theorem State.dropLease_deadlines (i : SlotIx) :
    (s.dropLease i).deadlines = s.deadlines.filter (fun d => !refersToLease i d.ref) := rfl
@[simp] theorem State.dropWait_deadlines (c : ClaimIx) :
    (s.dropWait c).deadlines = s.deadlines.filter (fun d => !refersToWait c d.ref) := rfl

/-- Two states with the same fields are equal: a state is the tuple of its fields. -/
theorem State.eq_of_fields {a b : State}

    (h_pending : a.pending = b.pending)
    (h_entries : a.entries = b.entries)
    (h_chains : a.chains = b.chains)
    (h_tokenCounter : a.tokenCounter = b.tokenCounter)
    (h_tokenLoaded : a.tokenLoaded = b.tokenLoaded)
    (h_freeEntryCount : a.freeEntryCount = b.freeEntryCount)
    (h_arbiterLast : a.arbiterLast = b.arbiterLast)
    (h_sweepLast : a.sweepLast = b.sweepLast)
    (h_claims : a.claims = b.claims)
    (h_freeList : a.freeList = b.freeList)
    (h_freeClaimCount : a.freeClaimCount = b.freeClaimCount)
    (h_sessions : a.sessions = b.sessions)
    (h_namespaces : a.namespaces = b.namespaces)
    (h_divider : a.divider = b.divider)
    (h_time : a.time = b.time)
    (h_deadlines : a.deadlines = b.deadlines)
    (h_expiries : a.expiries = b.expiries)
    (h_lines : a.lines = b.lines)
    (h_service : a.service = b.service)
    (h_mailbox : a.mailbox = b.mailbox)
    (h_commandCode : a.commandCode = b.commandCode)
    (h_longCommand : a.longCommand = b.longCommand)
    (h_resultCode : a.resultCode = b.resultCode)
    (h_params : a.params = b.params)
    (h_result : a.result = b.result)
    (h_spiWrite : a.spiWrite = b.spiWrite)
    (h_leaseMin : a.leaseMin = b.leaseMin)
    (h_leaseMax : a.leaseMax = b.leaseMax)
    (h_poolThreshold : a.poolThreshold = b.poolThreshold)
    (h_clearSweep : a.clearSweep = b.clearSweep)
    (h_clearSessions : a.clearSessions = b.clearSessions)
    (h_clearClaims : a.clearClaims = b.clearClaims)
    (h_clearEntries : a.clearEntries = b.clearEntries)
    (h_deviceCauses : a.deviceCauses = b.deviceCauses)
    (h_deviceMask : a.deviceMask = b.deviceMask)
    (h_counters : a.counters = b.counters) :
    a = b := by
  cases a; cases b; simp_all

/-- An entry table is determined by its entries. -/
theorem State.entries_ext {a b : State} (h : ∀ e, a.entry e = b.entry e) :
    a.entries = b.entries := Vector.ext fun i hi => h ⟨i, hi⟩

/-- A claim pool is determined by its records. -/
theorem State.claims_ext {a b : State} (h : ∀ c, a.claim c = b.claim c) :
    a.claims = b.claims := Vector.ext fun i hi => h ⟨i, hi⟩

/-- A session table is determined by its records. -/
theorem State.sessions_ext {a b : State} (h : ∀ i, a.session i = b.session i) :
    a.sessions = b.sessions := Vector.ext fun i hi => h ⟨i, hi⟩

/-- A namespace table is determined by its descriptors. -/
theorem State.namespaces_ext {a b : State} (h : ∀ n, a.ns n = b.ns n) :
    a.namespaces = b.namespaces := Vector.ext fun i hi => h ⟨i, hi⟩

/-- The lines are determined by their Line Units. -/
theorem State.lines_ext {a b : State} (h : ∀ l, a.line l = b.line l) :
    a.lines = b.lines := Vector.ext fun i hi => h ⟨i, hi⟩

/-- The chains are determined bucket by bucket. -/
theorem State.chains_ext {a b : State} (h : ∀ k, a.chain k = b.chain k) :
    a.chains = b.chains := Vector.ext fun i hi => h ⟨i, hi⟩

/-! ### The tables at device reset -/

@[simp] theorem State.reset_entry (e : EntryIx) : State.reset.entry e = Entry.reset := by
  simp [State.reset, State.entry]
@[simp] theorem State.reset_claim (c : ClaimIx) : State.reset.claim c = Claim.reset := by
  simp [State.reset, State.claim]
@[simp] theorem State.reset_session (i : SlotIx) : State.reset.session i = Session.reset := by
  simp [State.reset, State.session]
@[simp] theorem State.reset_ns (n : NsIx) : State.reset.ns n = Namespace.reset := by
  simp [State.reset, State.ns]
@[simp] theorem State.reset_line (l : LineIx) : State.reset.line l = Line.reset := by
  simp [State.reset, State.line]
@[simp] theorem State.reset_chain (b : BucketIx) : State.reset.chain b = [] := by
  simp [State.reset, State.chain]

end Sys2Proof.Machine
end

