-- ==== Sys2Proof/Laws/Basic.lean ====
section
/-!
SUPPORT. The searches over indices, slots and lines, the arbiter's choice, the deadline list, the reply
slots, and result bytes: what each of these small functions can answer.
-/

namespace Sys2Proof.Machine

/-! ### Searches over indices -/

theorem firstFrom_some {n : Nat} {p : Fin n → Bool} {fuel i : Nat} {k : Fin n}
    (h : firstFrom p fuel i = some k) :
    p k = true ∧ i ≤ k.val ∧ ∀ j : Fin n, i ≤ j.val → j < k → p j = false := by
  induction fuel generalizing i with
  | zero => simp [firstFrom] at h
  | succ fuel ih =>
    rw [firstFrom] at h
    split at h
    · split at h
      · rename_i h1 h2
        cases h
        exact ⟨h2, le_refl _, fun j hj hk => absurd hk (by simp [Fin.lt_def]; omega)⟩
      · rename_i h1 h2
        obtain ⟨a, b, c⟩ := ih h
        refine ⟨a, by omega, fun j hj hk => ?_⟩
        by_cases hji : j.val = i
        · have : j = ⟨i, h1⟩ := Fin.ext hji
          subst this; simpa using h2
        · exact c j (by omega) hk
    · cases h

theorem firstFrom_none {n : Nat} {p : Fin n → Bool} {fuel i : Nat} (hf : n ≤ fuel + i)
    (h : firstFrom p fuel i = none) : ∀ j : Fin n, i ≤ j.val → p j = false := by
  induction fuel generalizing i with
  | zero => intro j hj; omega
  | succ fuel ih =>
    rw [firstFrom] at h
    split at h
    · split at h
      · cases h
      · rename_i h1 h2
        intro j hj
        by_cases hji : j.val = i
        · have : j = ⟨i, h1⟩ := Fin.ext hji
          subst this; simpa using h2
        · exact ih (by omega) h j (by omega)
    · intro j hj; omega

/-- The first index from a place on that satisfies a test. -/
theorem firstFrom_eq_some_iff {n : Nat} {p : Fin n → Bool} {fuel i : Nat} {k : Fin n}
    (hf : n ≤ fuel + i) : firstFrom p fuel i = some k ↔
      p k = true ∧ i ≤ k.val ∧ ∀ j : Fin n, i ≤ j.val → j < k → p j = false := by
  refine ⟨firstFrom_some, fun ⟨h1, h2, h3⟩ => ?_⟩
  cases h : firstFrom p fuel i with
  | none => have := firstFrom_none hf h k h2; simp [h1] at this
  | some m =>
    obtain ⟨a, b, c⟩ := firstFrom_some h
    rcases lt_trichotomy m k with hlt | rfl | hgt
    · rw [h3 m b hlt] at a; cases a
    · rfl
    · rw [c k h2 hgt] at h1; cases h1

theorem firstFrom_eq_none_iff {n : Nat} {p : Fin n → Bool} {fuel i : Nat} (hf : n ≤ fuel + i) :
    firstFrom p fuel i = none ↔ ∀ j : Fin n, i ≤ j.val → p j = false := by
  refine ⟨firstFrom_none hf, fun h => ?_⟩
  cases h' : firstFrom p fuel i with
  | none => rfl
  | some m => obtain ⟨a, b, -⟩ := firstFrom_some h'; rw [h m b] at a; cases a

/-- The lowest index that satisfies a test. -/
theorem lowest_eq_some_iff {n : Nat} {p : Fin n → Bool} {k : Fin n} :
    lowest p = some k ↔ p k = true ∧ ∀ j, j < k → p j = false := by
  simp [lowest, firstFrom_eq_some_iff]

theorem lowest_eq_none_iff {n : Nat} {p : Fin n → Bool} : lowest p = none ↔ ∀ j, p j = false := by
  simp [lowest, firstFrom_eq_none_iff]

/-- What a cyclic search finds satisfies the test. -/
theorem firstAfter_some {n : Nat} {p : Fin n → Bool} {last k : Fin n}
    (h : firstAfter p last = some k) : p k = true := by
  unfold firstAfter at h
  split at h
  · rename_i h'; cases h; exact (firstFrom_some h').1
  · exact (lowest_eq_some_iff.1 h).1

theorem firstAfter_none {n : Nat} {p : Fin n → Bool} {last : Fin n} :
    firstAfter p last = none ↔ ∀ j, p j = false := by
  unfold firstAfter
  constructor
  · intro h
    split at h
    · cases h
    · exact lowest_eq_none_iff.1 h
  · intro h
    split
    · rename_i h'; have := (firstFrom_some h').1; rw [h] at this; cases this
    · exact lowest_eq_none_iff.2 h

/-- The indices from `i` on, as numbers. -/
theorem indicesFrom_map_val (n fuel i : Nat) (h : i + fuel ≤ n) :
    (indicesFrom n fuel i).map (fun c => c.val) = List.range' i fuel := by
  induction fuel generalizing i with
  | zero => rfl
  | succ fuel ih =>
    rw [indicesFrom, dif_pos (by omega), List.map_cons, ih (i + 1) (by omega), List.range'_succ]

theorem indicesFrom_length (n fuel i : Nat) (h : i + fuel ≤ n) :
    (indicesFrom n fuel i).length = fuel := by
  have := congrArg List.length (indicesFrom_map_val n fuel i h); simpa using this

theorem mem_indicesFrom {n fuel i : Nat} {k : Fin n} (hf : n ≤ fuel + i) :
    k ∈ indicesFrom n fuel i ↔ i ≤ k.val := by
  induction fuel generalizing i with
  | zero => simp [indicesFrom]; omega
  | succ fuel ih =>
    rw [indicesFrom]
    split
    · rename_i h
      rw [List.mem_cons, ih (by omega)]
      constructor
      · rintro (rfl | h')
        · exact le_refl _
        · omega
      · intro h'
        by_cases hk : k.val = i
        · exact .inl (Fin.ext hk)
        · exact .inr (by omega)
    · simp; omega

/-! ### Slots and lines -/

@[simp] theorem lineOf_slotOf (l : LineIx) (st : StationIx) : lineOf (slotOf l st) = l := by
  apply Fin.ext; simp [lineOf, slotOf]; omega

@[simp] theorem stationOf_slotOf (l : LineIx) (st : StationIx) : stationOf (slotOf l st) = st := by
  apply Fin.ext; simp [stationOf, slotOf]

@[simp] theorem slotOf_lineOf_stationOf (i : SlotIx) : slotOf (lineOf i) (stationOf i) = i := by
  apply Fin.ext; simp [lineOf, stationOf, slotOf]; omega

/-- The slots of a line are those whose line it is. -/
theorem mem_slotsOf {l : LineIx} {i : SlotIx} : i ∈ slotsOf l ↔ lineOf i = l := by
  rw [slotsOf, List.mem_map]
  constructor
  · rintro ⟨st, -, rfl⟩; simp
  · intro h
    refine ⟨stationOf i, (mem_indicesFrom (by omega)).2 (Nat.zero_le _), ?_⟩
    rw [← h]; simp

/-- Every session of a line is IDLE. -/
theorem State.lineIdle_iff {s : State} {l : LineIx} :
    s.lineIdle l = true ↔ ∀ i, lineOf i = l → (s.session i).state = .idle := by
  simp [State.lineIdle, List.all_eq_true, mem_slotsOf]

theorem srcLine_injective {l m : LineIx} : srcLine l = srcLine m ↔ l = m := by
  simp [srcLine, Fin.ext_iff]

/-! ### The arbiter's choice -/

/-- The source taken is one that offers. -/
theorem State.arbiterChoice_offers {s : State} {p : SourceIx} (h : s.arbiterChoice = some p) :
    s.offers p = true := firstAfter_some h

@[simp] theorem State.offers_srcLine (s : State) (l : LineIx) :
    s.offers (srcLine l) = (s.line l).offers := by
  have : l.val < 6 := l.isLt
  simp [State.offers, srcLine, this]

@[simp] theorem State.offers_srcManagement (s : State) :
    s.offers srcManagement = (s.mailbox == .busy false) := by
  simp [State.offers, srcManagement]

@[simp] theorem State.offers_srcDeadline (s : State) :
    s.offers srcDeadline = !s.expiries.isEmpty := by
  simp [State.offers, srcDeadline]

@[simp] theorem State.offers_srcSweep (s : State) :
    s.offers srcSweep = s.sweepChoice.isSome := by
  simp [State.offers, srcSweep]

/-- A line taken while ACTIVE has room for one reply more. -/
theorem State.replies_of_taken {s : State} {l : LineIx} (h : s.arbiterChoice = some (srcLine l))
    (ha : (s.line l).state = .active) : (s.line l).replies.length < 4 := by
  have := State.arbiterChoice_offers h
  simp [Line.offers, ha, Config.replySlots] at this
  exact this.2

/-- A command is taken only from a BUSY mailbox without the taken mark. -/
theorem State.mailbox_of_taken {s : State} (h : s.arbiterChoice = some srcManagement) :
    s.mailbox = .busy false := by
  simpa using State.arbiterChoice_offers h

/-- The sweep served is active. -/
theorem State.sweepActive_of_turn {s : State} {p : SweepIx} (h : s.sweepTurn p = true) :
    s.sweepActive p = true := by
  simp [State.sweepTurn] at h
  exact firstAfter_some h.2

@[simp] theorem State.sweepActive_ending (s : State) (i : SlotIx) :
    s.sweepActive (sweepEnding i) = ((s.session i).endingSweep != .inactive) := by
  simp [State.sweepActive, sweepEnding]

@[simp] theorem State.sweepActive_revoke (s : State) (n : NsIx) :
    s.sweepActive (sweepRevoke n) = (s.ns n).revokeSweep := by
  have := n.isLt
  simp [State.sweepActive, sweepRevoke]
  intro h; omega

@[simp] theorem State.sweepActive_clear (s : State) : s.sweepActive sweepClear = s.clearSweep := by
  simp [State.sweepActive, sweepClear]

theorem State.sweepTurn_iff {s : State} {p : SweepIx} : s.sweepTurn p = true ↔
    s.arbiterChoice = some srcSweep ∧ s.sweepChoice = some p := by
  simp [State.sweepTurn]

/-! ### The deadline list -/

@[simp] theorem insertDeadline_length (d : Deadline) (ds : List Deadline) :
    (insertDeadline d ds).length = ds.length + 1 := by
  induction ds with
  | nil => rfl
  | cons x rest ih => rw [insertDeadline]; split <;> simp [ih]

@[simp] theorem mem_insertDeadline {d x : Deadline} {ds : List Deadline} :
    x ∈ insertDeadline d ds ↔ x = d ∨ x ∈ ds := by
  induction ds with
  | nil => simp [insertDeadline]
  | cons y rest ih => rw [insertDeadline]; split <;> simp [ih]; tauto

/-- An insertion keeps the order of the list (R118). -/
theorem insertDeadline_ordered {d : Deadline} {ds : List Deadline}
    (h : ds.Pairwise (fun a b => a.time ≤ b.time)) :
    (insertDeadline d ds).Pairwise (fun a b => a.time ≤ b.time) := by
  induction ds with
  | nil => simp [insertDeadline]
  | cons x rest ih =>
    rw [insertDeadline]
    have hx := List.pairwise_cons.1 h
    split
    · rename_i hle
      refine List.pairwise_cons.2 ⟨fun y hy => ?_, ih hx.2⟩
      rcases mem_insertDeadline.1 hy with rfl | hy
      · exact hle
      · exact hx.1 y hy
    · rename_i hlt
      refine List.pairwise_cons.2 ⟨fun y hy => ?_, h⟩
      rcases List.mem_cons.1 hy with rfl | hy
      · omega
      · have := hx.1 y hy; omega

theorem deadlineAfter_le (now period : Nat) : deadlineAfter now period ≤ Config.maxTime :=
  Nat.min_le_right _ _

@[simp] theorem refersToLease_lease (i j : SlotIx) : refersToLease i (.lease j) = (j == i) := rfl
@[simp] theorem refersToLease_wait (i : SlotIx) (c : ClaimIx) (u : BitVec 16) :
    refersToLease i (.wait c u) = false := rfl
@[simp] theorem refersToWait_lease (c : ClaimIx) (i : SlotIx) : refersToWait c (.lease i) = false := rfl
@[simp] theorem refersToWait_wait (c d : ClaimIx) (u : BitVec 16) :
    refersToWait c (.wait d u) = (d == c) := rfl

/-- No entry refers to a session's lease after its entry is removed. -/
theorem State.dropLease_no_lease (s : State) (i : SlotIx) :
    ∀ d ∈ (s.dropLease i).deadlines, d.ref ≠ .lease i := by
  intro d hd hr
  simp [hr] at hd

/-! ### Reply slots -/

theorem fillFirst_length (st : StationIx) (c : ReplyContent) (slots : List ReplySlot) :
    (fillFirst st c slots).length = slots.length := by
  induction slots with
  | nil => rfl
  | cons x rest ih => rw [fillFirst]; split <;> simp [ih]

@[simp] theorem fillReserved_length (st : StationIx) (c : ReplyContent) (slots : List ReplySlot) :
    (fillReserved st c slots).length = slots.length := by
  simp [fillReserved, fillFirst_length]

/-- A fill reaches the slot reserved last (R151). -/
@[simp] theorem fillReserved_append (st : StationIx) (tag kind : Byte) (c : ReplyContent)
    (slots : List ReplySlot) :
    fillReserved st c (slots ++ [⟨st, tag, kind, none⟩]) = slots ++ [⟨st, tag, kind, some c⟩] := by
  simp [fillReserved, fillFirst]

/-- A filled slot exists, or every slot is only reserved. -/
theorem firstFilled_eq_none_iff {slots : List ReplySlot} :
    firstFilled slots = none ↔ ∀ x ∈ slots, x.content = none := by
  induction slots with
  | nil => simp [firstFilled]
  | cons x rest ih =>
    rw [firstFilled]
    cases h : x.content <;> simp [h, ih]

/-! ### Results -/

/-- Result byte `k`: the byte given, 0 where none is given (R165). -/
@[simp] theorem resultBytes_get (bs : List Byte) (k : Fin 24) :
    (resultBytes bs)[k] = bs.getD k.val 0#8 := by
  have hk := k.isLt
  simp only [resultBytes, Fin.getElem_fin, Vector.getElem_mk, List.getElem_toArray,
    List.getElem_take]
  by_cases h : k.val < bs.length
  · simp [List.getElem_append_left, h]
  · rw [List.getElem_append_right (by omega), List.getElem_replicate]
    simp [List.getD_eq_getElem?_getD, List.getElem?_eq_none (Nat.not_lt.1 h)]

/-- The completion of a command (R165). -/
theorem State.complete_spec (s : State) (r : ResultCode) (bs : List Byte) :
    Completed s (s.complete r bs) r bs := by
  refine ⟨?_, fun k => ?_⟩
  · simp [State.complete, State.raise, deviceCauseBit]
  · exact resultBytes_get bs k

theorem beBytes_length (len v : Nat) : (beBytes len v).length = len := by
  induction len with
  | zero => rfl
  | succ n ih => simp [beBytes, ih]

/-- A number read from a list of bytes fits in that many bytes. -/
theorem beNat_lt (bs : List Byte) : beNat bs < 256 ^ bs.length := by
  have key : ∀ (bs : List Byte) (a : Nat), bs.foldl (fun acc b => acc * 256 + b.toNat) a
      < (a + 1) * 256 ^ bs.length := by
    intro bs
    induction bs with
    | nil => intro a; simp
    | cons b rest ih =>
      intro a
      have hb : b.toNat < 256 := b.isLt
      calc _ < (a * 256 + b.toNat + 1) * 256 ^ rest.length := ih _
        _ ≤ ((a + 1) * 256) * 256 ^ rest.length := Nat.mul_le_mul_right _ (by omega)
        _ = _ := by rw [List.length_cons, Nat.pow_succ]; ring
  simpa [beNat] using key bs 0

/-- A mailbox number of `len` bytes is below `256 ^ len`. -/
theorem State.param_lt (s : State) (off len : Nat) : s.param off len < 256 ^ len := by
  refine lt_of_lt_of_le (beNat_lt _) (Nat.pow_le_pow_right (by decide) ?_)
  simp

end Sys2Proof.Machine
end

