-- ==== Sys2Proof/Laws/OpFields.lean ====
section
/-!
SUPPORT. The parts of the state that each shared operation leaves as they are: one lemma per operation,
whose clauses simp uses one by one.
-/

namespace Sys2Proof.Machine

/-! ### Reading a record of a state given field by field -/

@[simp] theorem State.entries_getElem (s : State) (j : EntryIx) : s.entries[j.val] = s.entry j := rfl

@[simp] theorem State.claims_getElem (s : State) (j : ClaimIx) : s.claims[j.val] = s.claim j := rfl

@[simp] theorem State.sessions_getElem (s : State) (j : SlotIx) : s.sessions[j.val] = s.session j := rfl

@[simp] theorem State.namespaces_getElem (s : State) (j : NsIx) : s.namespaces[j.val] = s.ns j := rfl

@[simp] theorem State.lines_getElem (s : State) (j : LineIx) : s.lines[j.val] = s.line j := rfl

@[simp] theorem State.chains_getElem (s : State) (j : BucketIx) : s.chains[j.val] = s.chain j := rfl

@[simp] theorem State.mk_entry {x0 x1 x2 x3 x4 x5 x6 x7 x8 x9 x10 x11 x12 x13 x14 x15 x16 x17
    x18 x19 x20 x21 x22 x23 x24 x25 x26 x27 x28 x29 x30 x31 x32 x33 x34 x35}
    (j : EntryIx) : (State.mk x0 x1 x2 x3 x4 x5 x6 x7 x8 x9 x10 x11 x12 x13 x14 x15 x16 x17
    x18 x19 x20 x21 x22 x23 x24 x25 x26 x27 x28 x29 x30 x31 x32 x33 x34 x35).entry j =
      x1[j.val] := rfl

@[simp] theorem State.mk_claim {x0 x1 x2 x3 x4 x5 x6 x7 x8 x9 x10 x11 x12 x13 x14 x15 x16 x17
    x18 x19 x20 x21 x22 x23 x24 x25 x26 x27 x28 x29 x30 x31 x32 x33 x34 x35}
    (j : ClaimIx) : (State.mk x0 x1 x2 x3 x4 x5 x6 x7 x8 x9 x10 x11 x12 x13 x14 x15 x16 x17
    x18 x19 x20 x21 x22 x23 x24 x25 x26 x27 x28 x29 x30 x31 x32 x33 x34 x35).claim j =
      x8[j.val] := rfl

@[simp] theorem State.mk_session {x0 x1 x2 x3 x4 x5 x6 x7 x8 x9 x10 x11 x12 x13 x14 x15 x16 x17
    x18 x19 x20 x21 x22 x23 x24 x25 x26 x27 x28 x29 x30 x31 x32 x33 x34 x35}
    (j : SlotIx) : (State.mk x0 x1 x2 x3 x4 x5 x6 x7 x8 x9 x10 x11 x12 x13 x14 x15 x16 x17
    x18 x19 x20 x21 x22 x23 x24 x25 x26 x27 x28 x29 x30 x31 x32 x33 x34 x35).session j =
      x11[j.val] := rfl

@[simp] theorem State.mk_ns {x0 x1 x2 x3 x4 x5 x6 x7 x8 x9 x10 x11 x12 x13 x14 x15 x16 x17
    x18 x19 x20 x21 x22 x23 x24 x25 x26 x27 x28 x29 x30 x31 x32 x33 x34 x35}
    (j : NsIx) : (State.mk x0 x1 x2 x3 x4 x5 x6 x7 x8 x9 x10 x11 x12 x13 x14 x15 x16 x17
    x18 x19 x20 x21 x22 x23 x24 x25 x26 x27 x28 x29 x30 x31 x32 x33 x34 x35).ns j =
      x12[j.val] := rfl

@[simp] theorem State.mk_line {x0 x1 x2 x3 x4 x5 x6 x7 x8 x9 x10 x11 x12 x13 x14 x15 x16 x17
    x18 x19 x20 x21 x22 x23 x24 x25 x26 x27 x28 x29 x30 x31 x32 x33 x34 x35}
    (j : LineIx) : (State.mk x0 x1 x2 x3 x4 x5 x6 x7 x8 x9 x10 x11 x12 x13 x14 x15 x16 x17
    x18 x19 x20 x21 x22 x23 x24 x25 x26 x27 x28 x29 x30 x31 x32 x33 x34 x35).line j =
      x17[j.val] := rfl

@[simp] theorem State.mk_chain {x0 x1 x2 x3 x4 x5 x6 x7 x8 x9 x10 x11 x12 x13 x14 x15 x16 x17
    x18 x19 x20 x21 x22 x23 x24 x25 x26 x27 x28 x29 x30 x31 x32 x33 x34 x35}
    (j : BucketIx) : (State.mk x0 x1 x2 x3 x4 x5 x6 x7 x8 x9 x10 x11 x12 x13 x14 x15 x16 x17
    x18 x19 x20 x21 x22 x23 x24 x25 x26 x27 x28 x29 x30 x31 x32 x33 x34 x35).chain j =
      x2[j.val] := rfl

/-! ### Reading a record when its table is the same -/

theorem State.entry_congr {a b : State} (h : a.entries = b.entries) (j : EntryIx) :
    a.entry j = b.entry j := by
  unfold State.entry; rw [h]

theorem State.claim_congr {a b : State} (h : a.claims = b.claims) (j : ClaimIx) :
    a.claim j = b.claim j := by
  unfold State.claim; rw [h]

theorem State.session_congr {a b : State} (h : a.sessions = b.sessions) (j : SlotIx) :
    a.session j = b.session j := by
  unfold State.session; rw [h]

theorem State.ns_congr {a b : State} (h : a.namespaces = b.namespaces) (j : NsIx) :
    a.ns j = b.ns j := by
  unfold State.ns; rw [h]

theorem State.line_congr {a b : State} (h : a.lines = b.lines) (j : LineIx) :
    a.line j = b.line j := by
  unfold State.line; rw [h]

theorem State.chain_congr {a b : State} (h : a.chains = b.chains) (j : BucketIx) :
    a.chain j = b.chain j := by
  unfold State.chain; rw [h]

@[simp] theorem State.unlinkClaim_fields (s : State) (c : ClaimIx) :
    (s.unlinkClaim c).pending = s.pending ∧
    (s.unlinkClaim c).chains = s.chains ∧
    (s.unlinkClaim c).tokenCounter = s.tokenCounter ∧
    (s.unlinkClaim c).tokenLoaded = s.tokenLoaded ∧
    (s.unlinkClaim c).freeEntryCount = s.freeEntryCount ∧
    (s.unlinkClaim c).arbiterLast = s.arbiterLast ∧
    (s.unlinkClaim c).sweepLast = s.sweepLast ∧
    (s.unlinkClaim c).claims = s.claims ∧
    (s.unlinkClaim c).freeList = s.freeList ∧
    (s.unlinkClaim c).freeClaimCount = s.freeClaimCount ∧
    (s.unlinkClaim c).namespaces = s.namespaces ∧
    (s.unlinkClaim c).divider = s.divider ∧
    (s.unlinkClaim c).time = s.time ∧
    (s.unlinkClaim c).deadlines = s.deadlines ∧
    (s.unlinkClaim c).expiries = s.expiries ∧
    (s.unlinkClaim c).lines = s.lines ∧
    (s.unlinkClaim c).service = s.service ∧
    (s.unlinkClaim c).mailbox = s.mailbox ∧
    (s.unlinkClaim c).commandCode = s.commandCode ∧
    (s.unlinkClaim c).longCommand = s.longCommand ∧
    (s.unlinkClaim c).resultCode = s.resultCode ∧
    (s.unlinkClaim c).params = s.params ∧
    (s.unlinkClaim c).result = s.result ∧
    (s.unlinkClaim c).spiWrite = s.spiWrite ∧
    (s.unlinkClaim c).leaseMin = s.leaseMin ∧
    (s.unlinkClaim c).leaseMax = s.leaseMax ∧
    (s.unlinkClaim c).poolThreshold = s.poolThreshold ∧
    (s.unlinkClaim c).clearSweep = s.clearSweep ∧
    (s.unlinkClaim c).clearSessions = s.clearSessions ∧
    (s.unlinkClaim c).clearClaims = s.clearClaims ∧
    (s.unlinkClaim c).clearEntries = s.clearEntries ∧
    (s.unlinkClaim c).deviceCauses = s.deviceCauses ∧
    (s.unlinkClaim c).deviceMask = s.deviceMask ∧
    (s.unlinkClaim c).counters = s.counters := by
  unfold State.unlinkClaim; split <;> simp

@[simp] theorem State.unlinkClaim_reads (s : State) (c : ClaimIx) :
    (∀ j, (s.unlinkClaim c).claim j = s.claim j) ∧
    (∀ j, (s.unlinkClaim c).ns j = s.ns j) ∧
    (∀ j, (s.unlinkClaim c).line j = s.line j) ∧
    (∀ j, (s.unlinkClaim c).chain j = s.chain j) := by
  refine ⟨fun j => State.claim_congr (by simp) j,
    fun j => State.ns_congr (by simp) j,
    fun j => State.line_congr (by simp) j,
    fun j => State.chain_congr (by simp) j⟩

@[simp] theorem State.endWait_fields (s : State) (c : ClaimIx) :
    (s.endWait c).pending = s.pending ∧
    (s.endWait c).entries = s.entries ∧
    (s.endWait c).chains = s.chains ∧
    (s.endWait c).tokenCounter = s.tokenCounter ∧
    (s.endWait c).tokenLoaded = s.tokenLoaded ∧
    (s.endWait c).freeEntryCount = s.freeEntryCount ∧
    (s.endWait c).arbiterLast = s.arbiterLast ∧
    (s.endWait c).sweepLast = s.sweepLast ∧
    (s.endWait c).freeList = s.freeList ∧
    (s.endWait c).freeClaimCount = s.freeClaimCount ∧
    (s.endWait c).sessions = s.sessions ∧
    (s.endWait c).namespaces = s.namespaces ∧
    (s.endWait c).divider = s.divider ∧
    (s.endWait c).time = s.time ∧
    (s.endWait c).expiries = s.expiries ∧
    (s.endWait c).lines = s.lines ∧
    (s.endWait c).service = s.service ∧
    (s.endWait c).mailbox = s.mailbox ∧
    (s.endWait c).commandCode = s.commandCode ∧
    (s.endWait c).longCommand = s.longCommand ∧
    (s.endWait c).resultCode = s.resultCode ∧
    (s.endWait c).params = s.params ∧
    (s.endWait c).result = s.result ∧
    (s.endWait c).spiWrite = s.spiWrite ∧
    (s.endWait c).leaseMin = s.leaseMin ∧
    (s.endWait c).leaseMax = s.leaseMax ∧
    (s.endWait c).poolThreshold = s.poolThreshold ∧
    (s.endWait c).clearSweep = s.clearSweep ∧
    (s.endWait c).clearSessions = s.clearSessions ∧
    (s.endWait c).clearClaims = s.clearClaims ∧
    (s.endWait c).clearEntries = s.clearEntries ∧
    (s.endWait c).deviceCauses = s.deviceCauses ∧
    (s.endWait c).deviceMask = s.deviceMask ∧
    (s.endWait c).counters = s.counters := by
  simp [State.endWait]

@[simp] theorem State.endWait_reads (s : State) (c : ClaimIx) :
    (∀ j, (s.endWait c).entry j = s.entry j) ∧
    (∀ j, (s.endWait c).session j = s.session j) ∧
    (∀ j, (s.endWait c).ns j = s.ns j) ∧
    (∀ j, (s.endWait c).line j = s.line j) ∧
    (∀ j, (s.endWait c).chain j = s.chain j) := by
  refine ⟨fun j => State.entry_congr (by simp) j,
    fun j => State.session_congr (by simp) j,
    fun j => State.ns_congr (by simp) j,
    fun j => State.line_congr (by simp) j,
    fun j => State.chain_congr (by simp) j⟩

@[simp] theorem State.startWait_fields (s : State) (c : ClaimIx) (w : Nat) :
    (s.startWait c w).pending = s.pending ∧
    (s.startWait c w).entries = s.entries ∧
    (s.startWait c w).chains = s.chains ∧
    (s.startWait c w).tokenCounter = s.tokenCounter ∧
    (s.startWait c w).tokenLoaded = s.tokenLoaded ∧
    (s.startWait c w).freeEntryCount = s.freeEntryCount ∧
    (s.startWait c w).arbiterLast = s.arbiterLast ∧
    (s.startWait c w).sweepLast = s.sweepLast ∧
    (s.startWait c w).freeList = s.freeList ∧
    (s.startWait c w).freeClaimCount = s.freeClaimCount ∧
    (s.startWait c w).sessions = s.sessions ∧
    (s.startWait c w).namespaces = s.namespaces ∧
    (s.startWait c w).divider = s.divider ∧
    (s.startWait c w).time = s.time ∧
    (s.startWait c w).expiries = s.expiries ∧
    (s.startWait c w).lines = s.lines ∧
    (s.startWait c w).service = s.service ∧
    (s.startWait c w).mailbox = s.mailbox ∧
    (s.startWait c w).commandCode = s.commandCode ∧
    (s.startWait c w).longCommand = s.longCommand ∧
    (s.startWait c w).resultCode = s.resultCode ∧
    (s.startWait c w).params = s.params ∧
    (s.startWait c w).result = s.result ∧
    (s.startWait c w).spiWrite = s.spiWrite ∧
    (s.startWait c w).leaseMin = s.leaseMin ∧
    (s.startWait c w).leaseMax = s.leaseMax ∧
    (s.startWait c w).poolThreshold = s.poolThreshold ∧
    (s.startWait c w).clearSweep = s.clearSweep ∧
    (s.startWait c w).clearSessions = s.clearSessions ∧
    (s.startWait c w).clearClaims = s.clearClaims ∧
    (s.startWait c w).clearEntries = s.clearEntries ∧
    (s.startWait c w).deviceCauses = s.deviceCauses ∧
    (s.startWait c w).deviceMask = s.deviceMask ∧
    (s.startWait c w).counters = s.counters := by
  unfold State.startWait; split <;> simp

@[simp] theorem State.startWait_reads (s : State) (c : ClaimIx) (w : Nat) :
    (∀ j, (s.startWait c w).entry j = s.entry j) ∧
    (∀ j, (s.startWait c w).session j = s.session j) ∧
    (∀ j, (s.startWait c w).ns j = s.ns j) ∧
    (∀ j, (s.startWait c w).line j = s.line j) ∧
    (∀ j, (s.startWait c w).chain j = s.chain j) := by
  refine ⟨fun j => State.entry_congr (by simp) j,
    fun j => State.session_congr (by simp) j,
    fun j => State.ns_congr (by simp) j,
    fun j => State.line_congr (by simp) j,
    fun j => State.chain_congr (by simp) j⟩

@[simp] theorem State.raiseNotice_fields (s : State) (c : ClaimIx) (k : NoticeKind) :
    (s.raiseNotice c k).pending = s.pending ∧
    (s.raiseNotice c k).entries = s.entries ∧
    (s.raiseNotice c k).chains = s.chains ∧
    (s.raiseNotice c k).tokenCounter = s.tokenCounter ∧
    (s.raiseNotice c k).tokenLoaded = s.tokenLoaded ∧
    (s.raiseNotice c k).freeEntryCount = s.freeEntryCount ∧
    (s.raiseNotice c k).arbiterLast = s.arbiterLast ∧
    (s.raiseNotice c k).sweepLast = s.sweepLast ∧
    (s.raiseNotice c k).freeList = s.freeList ∧
    (s.raiseNotice c k).freeClaimCount = s.freeClaimCount ∧
    (s.raiseNotice c k).sessions = s.sessions ∧
    (s.raiseNotice c k).namespaces = s.namespaces ∧
    (s.raiseNotice c k).divider = s.divider ∧
    (s.raiseNotice c k).time = s.time ∧
    (s.raiseNotice c k).deadlines = s.deadlines ∧
    (s.raiseNotice c k).expiries = s.expiries ∧
    (s.raiseNotice c k).service = s.service ∧
    (s.raiseNotice c k).mailbox = s.mailbox ∧
    (s.raiseNotice c k).commandCode = s.commandCode ∧
    (s.raiseNotice c k).longCommand = s.longCommand ∧
    (s.raiseNotice c k).resultCode = s.resultCode ∧
    (s.raiseNotice c k).params = s.params ∧
    (s.raiseNotice c k).result = s.result ∧
    (s.raiseNotice c k).spiWrite = s.spiWrite ∧
    (s.raiseNotice c k).leaseMin = s.leaseMin ∧
    (s.raiseNotice c k).leaseMax = s.leaseMax ∧
    (s.raiseNotice c k).poolThreshold = s.poolThreshold ∧
    (s.raiseNotice c k).clearSweep = s.clearSweep ∧
    (s.raiseNotice c k).clearSessions = s.clearSessions ∧
    (s.raiseNotice c k).clearClaims = s.clearClaims ∧
    (s.raiseNotice c k).clearEntries = s.clearEntries ∧
    (s.raiseNotice c k).deviceCauses = s.deviceCauses ∧
    (s.raiseNotice c k).deviceMask = s.deviceMask ∧
    (s.raiseNotice c k).counters = s.counters := by
  unfold State.raiseNotice; split <;> simp

@[simp] theorem State.raiseNotice_reads (s : State) (c : ClaimIx) (k : NoticeKind) :
    (∀ j, (s.raiseNotice c k).entry j = s.entry j) ∧
    (∀ j, (s.raiseNotice c k).session j = s.session j) ∧
    (∀ j, (s.raiseNotice c k).ns j = s.ns j) ∧
    (∀ j, (s.raiseNotice c k).chain j = s.chain j) := by
  refine ⟨fun j => State.entry_congr (by simp) j,
    fun j => State.session_congr (by simp) j,
    fun j => State.ns_congr (by simp) j,
    fun j => State.chain_congr (by simp) j⟩

@[simp] theorem State.withdrawNotice_fields (s : State) (c : ClaimIx) :
    (s.withdrawNotice c).pending = s.pending ∧
    (s.withdrawNotice c).entries = s.entries ∧
    (s.withdrawNotice c).chains = s.chains ∧
    (s.withdrawNotice c).tokenCounter = s.tokenCounter ∧
    (s.withdrawNotice c).tokenLoaded = s.tokenLoaded ∧
    (s.withdrawNotice c).freeEntryCount = s.freeEntryCount ∧
    (s.withdrawNotice c).arbiterLast = s.arbiterLast ∧
    (s.withdrawNotice c).sweepLast = s.sweepLast ∧
    (s.withdrawNotice c).freeList = s.freeList ∧
    (s.withdrawNotice c).freeClaimCount = s.freeClaimCount ∧
    (s.withdrawNotice c).sessions = s.sessions ∧
    (s.withdrawNotice c).namespaces = s.namespaces ∧
    (s.withdrawNotice c).divider = s.divider ∧
    (s.withdrawNotice c).time = s.time ∧
    (s.withdrawNotice c).deadlines = s.deadlines ∧
    (s.withdrawNotice c).expiries = s.expiries ∧
    (s.withdrawNotice c).service = s.service ∧
    (s.withdrawNotice c).mailbox = s.mailbox ∧
    (s.withdrawNotice c).commandCode = s.commandCode ∧
    (s.withdrawNotice c).longCommand = s.longCommand ∧
    (s.withdrawNotice c).resultCode = s.resultCode ∧
    (s.withdrawNotice c).params = s.params ∧
    (s.withdrawNotice c).result = s.result ∧
    (s.withdrawNotice c).spiWrite = s.spiWrite ∧
    (s.withdrawNotice c).leaseMin = s.leaseMin ∧
    (s.withdrawNotice c).leaseMax = s.leaseMax ∧
    (s.withdrawNotice c).poolThreshold = s.poolThreshold ∧
    (s.withdrawNotice c).clearSweep = s.clearSweep ∧
    (s.withdrawNotice c).clearSessions = s.clearSessions ∧
    (s.withdrawNotice c).clearClaims = s.clearClaims ∧
    (s.withdrawNotice c).clearEntries = s.clearEntries ∧
    (s.withdrawNotice c).deviceCauses = s.deviceCauses ∧
    (s.withdrawNotice c).deviceMask = s.deviceMask ∧
    (s.withdrawNotice c).counters = s.counters := by
  unfold State.withdrawNotice; split <;> simp

@[simp] theorem State.withdrawNotice_reads (s : State) (c : ClaimIx) :
    (∀ j, (s.withdrawNotice c).entry j = s.entry j) ∧
    (∀ j, (s.withdrawNotice c).session j = s.session j) ∧
    (∀ j, (s.withdrawNotice c).ns j = s.ns j) ∧
    (∀ j, (s.withdrawNotice c).chain j = s.chain j) := by
  refine ⟨fun j => State.entry_congr (by simp) j,
    fun j => State.session_congr (by simp) j,
    fun j => State.ns_congr (by simp) j,
    fun j => State.chain_congr (by simp) j⟩

@[simp] theorem State.freeClaim_fields (s : State) (c : ClaimIx) :
    (s.freeClaim c).pending = s.pending ∧
    (s.freeClaim c).chains = s.chains ∧
    (s.freeClaim c).tokenCounter = s.tokenCounter ∧
    (s.freeClaim c).tokenLoaded = s.tokenLoaded ∧
    (s.freeClaim c).freeEntryCount = s.freeEntryCount ∧
    (s.freeClaim c).arbiterLast = s.arbiterLast ∧
    (s.freeClaim c).sweepLast = s.sweepLast ∧
    (s.freeClaim c).namespaces = s.namespaces ∧
    (s.freeClaim c).divider = s.divider ∧
    (s.freeClaim c).time = s.time ∧
    (s.freeClaim c).expiries = s.expiries ∧
    (s.freeClaim c).service = s.service ∧
    (s.freeClaim c).mailbox = s.mailbox ∧
    (s.freeClaim c).commandCode = s.commandCode ∧
    (s.freeClaim c).longCommand = s.longCommand ∧
    (s.freeClaim c).resultCode = s.resultCode ∧
    (s.freeClaim c).params = s.params ∧
    (s.freeClaim c).result = s.result ∧
    (s.freeClaim c).spiWrite = s.spiWrite ∧
    (s.freeClaim c).leaseMin = s.leaseMin ∧
    (s.freeClaim c).leaseMax = s.leaseMax ∧
    (s.freeClaim c).poolThreshold = s.poolThreshold ∧
    (s.freeClaim c).clearSweep = s.clearSweep ∧
    (s.freeClaim c).clearSessions = s.clearSessions ∧
    (s.freeClaim c).clearClaims = s.clearClaims ∧
    (s.freeClaim c).clearEntries = s.clearEntries ∧
    (s.freeClaim c).deviceCauses = s.deviceCauses ∧
    (s.freeClaim c).deviceMask = s.deviceMask ∧
    (s.freeClaim c).counters = s.counters := by
  simp [State.freeClaim]

@[simp] theorem State.freeClaim_reads (s : State) (c : ClaimIx) :
    (∀ j, (s.freeClaim c).ns j = s.ns j) ∧
    (∀ j, (s.freeClaim c).chain j = s.chain j) := by
  refine ⟨fun j => State.ns_congr (by simp) j,
    fun j => State.chain_congr (by simp) j⟩

@[simp] theorem State.detachClaim_fields (s : State) (c : ClaimIx) (k : NoticeKind) :
    (s.detachClaim c k).pending = s.pending ∧
    (s.detachClaim c k).chains = s.chains ∧
    (s.detachClaim c k).tokenCounter = s.tokenCounter ∧
    (s.detachClaim c k).tokenLoaded = s.tokenLoaded ∧
    (s.detachClaim c k).freeEntryCount = s.freeEntryCount ∧
    (s.detachClaim c k).arbiterLast = s.arbiterLast ∧
    (s.detachClaim c k).sweepLast = s.sweepLast ∧
    (s.detachClaim c k).freeList = s.freeList ∧
    (s.detachClaim c k).freeClaimCount = s.freeClaimCount ∧
    (s.detachClaim c k).namespaces = s.namespaces ∧
    (s.detachClaim c k).divider = s.divider ∧
    (s.detachClaim c k).time = s.time ∧
    (s.detachClaim c k).expiries = s.expiries ∧
    (s.detachClaim c k).service = s.service ∧
    (s.detachClaim c k).mailbox = s.mailbox ∧
    (s.detachClaim c k).commandCode = s.commandCode ∧
    (s.detachClaim c k).longCommand = s.longCommand ∧
    (s.detachClaim c k).resultCode = s.resultCode ∧
    (s.detachClaim c k).params = s.params ∧
    (s.detachClaim c k).result = s.result ∧
    (s.detachClaim c k).spiWrite = s.spiWrite ∧
    (s.detachClaim c k).leaseMin = s.leaseMin ∧
    (s.detachClaim c k).leaseMax = s.leaseMax ∧
    (s.detachClaim c k).poolThreshold = s.poolThreshold ∧
    (s.detachClaim c k).clearSweep = s.clearSweep ∧
    (s.detachClaim c k).clearSessions = s.clearSessions ∧
    (s.detachClaim c k).clearClaims = s.clearClaims ∧
    (s.detachClaim c k).clearEntries = s.clearEntries ∧
    (s.detachClaim c k).deviceCauses = s.deviceCauses ∧
    (s.detachClaim c k).deviceMask = s.deviceMask ∧
    (s.detachClaim c k).counters = s.counters := by
  simp [State.detachClaim]

@[simp] theorem State.detachClaim_reads (s : State) (c : ClaimIx) (k : NoticeKind) :
    (∀ j, (s.detachClaim c k).ns j = s.ns j) ∧
    (∀ j, (s.detachClaim c k).chain j = s.chain j) := by
  refine ⟨fun j => State.ns_congr (by simp) j,
    fun j => State.chain_congr (by simp) j⟩

@[simp] theorem State.takeClaim_fields (s : State) (c : ClaimIx) (w : Bool) (m : Mode) (e : EntryIx) (k : Key) (i : SlotIx) :
    (s.takeClaim c w m e k i).pending = s.pending ∧
    (s.takeClaim c w m e k i).entries = s.entries ∧
    (s.takeClaim c w m e k i).chains = s.chains ∧
    (s.takeClaim c w m e k i).tokenCounter = s.tokenCounter ∧
    (s.takeClaim c w m e k i).tokenLoaded = s.tokenLoaded ∧
    (s.takeClaim c w m e k i).freeEntryCount = s.freeEntryCount ∧
    (s.takeClaim c w m e k i).arbiterLast = s.arbiterLast ∧
    (s.takeClaim c w m e k i).sweepLast = s.sweepLast ∧
    (s.takeClaim c w m e k i).namespaces = s.namespaces ∧
    (s.takeClaim c w m e k i).divider = s.divider ∧
    (s.takeClaim c w m e k i).time = s.time ∧
    (s.takeClaim c w m e k i).deadlines = s.deadlines ∧
    (s.takeClaim c w m e k i).expiries = s.expiries ∧
    (s.takeClaim c w m e k i).lines = s.lines ∧
    (s.takeClaim c w m e k i).service = s.service ∧
    (s.takeClaim c w m e k i).mailbox = s.mailbox ∧
    (s.takeClaim c w m e k i).commandCode = s.commandCode ∧
    (s.takeClaim c w m e k i).longCommand = s.longCommand ∧
    (s.takeClaim c w m e k i).resultCode = s.resultCode ∧
    (s.takeClaim c w m e k i).params = s.params ∧
    (s.takeClaim c w m e k i).result = s.result ∧
    (s.takeClaim c w m e k i).spiWrite = s.spiWrite ∧
    (s.takeClaim c w m e k i).leaseMin = s.leaseMin ∧
    (s.takeClaim c w m e k i).leaseMax = s.leaseMax ∧
    (s.takeClaim c w m e k i).poolThreshold = s.poolThreshold ∧
    (s.takeClaim c w m e k i).clearSweep = s.clearSweep ∧
    (s.takeClaim c w m e k i).clearSessions = s.clearSessions ∧
    (s.takeClaim c w m e k i).clearClaims = s.clearClaims ∧
    (s.takeClaim c w m e k i).clearEntries = s.clearEntries ∧
    (s.takeClaim c w m e k i).deviceMask = s.deviceMask ∧
    (s.takeClaim c w m e k i).counters = s.counters := by
  by_cases h : s.poolThreshold ≤ s.freeClaimCount ∧ s.freeClaimCount - 1 < s.poolThreshold <;>
    simp [State.takeClaim, h]

@[simp] theorem State.takeClaim_reads (s : State) (c : ClaimIx) (w : Bool) (m : Mode) (e : EntryIx) (k : Key) (i : SlotIx) :
    (∀ j, (s.takeClaim c w m e k i).entry j = s.entry j) ∧
    (∀ j, (s.takeClaim c w m e k i).ns j = s.ns j) ∧
    (∀ j, (s.takeClaim c w m e k i).line j = s.line j) ∧
    (∀ j, (s.takeClaim c w m e k i).chain j = s.chain j) := by
  refine ⟨fun j => State.entry_congr (by simp) j,
    fun j => State.ns_congr (by simp) j,
    fun j => State.line_congr (by simp) j,
    fun j => State.chain_congr (by simp) j⟩

@[simp] theorem State.issueToken_fields (s : State) (c : ClaimIx) (e : EntryIx) :
    (s.issueToken c e).pending = s.pending ∧
    (s.issueToken c e).chains = s.chains ∧
    (s.issueToken c e).tokenLoaded = s.tokenLoaded ∧
    (s.issueToken c e).freeEntryCount = s.freeEntryCount ∧
    (s.issueToken c e).arbiterLast = s.arbiterLast ∧
    (s.issueToken c e).sweepLast = s.sweepLast ∧
    (s.issueToken c e).freeList = s.freeList ∧
    (s.issueToken c e).freeClaimCount = s.freeClaimCount ∧
    (s.issueToken c e).sessions = s.sessions ∧
    (s.issueToken c e).namespaces = s.namespaces ∧
    (s.issueToken c e).divider = s.divider ∧
    (s.issueToken c e).time = s.time ∧
    (s.issueToken c e).deadlines = s.deadlines ∧
    (s.issueToken c e).expiries = s.expiries ∧
    (s.issueToken c e).lines = s.lines ∧
    (s.issueToken c e).service = s.service ∧
    (s.issueToken c e).mailbox = s.mailbox ∧
    (s.issueToken c e).commandCode = s.commandCode ∧
    (s.issueToken c e).longCommand = s.longCommand ∧
    (s.issueToken c e).resultCode = s.resultCode ∧
    (s.issueToken c e).params = s.params ∧
    (s.issueToken c e).result = s.result ∧
    (s.issueToken c e).spiWrite = s.spiWrite ∧
    (s.issueToken c e).leaseMin = s.leaseMin ∧
    (s.issueToken c e).leaseMax = s.leaseMax ∧
    (s.issueToken c e).poolThreshold = s.poolThreshold ∧
    (s.issueToken c e).clearSweep = s.clearSweep ∧
    (s.issueToken c e).clearSessions = s.clearSessions ∧
    (s.issueToken c e).clearClaims = s.clearClaims ∧
    (s.issueToken c e).clearEntries = s.clearEntries ∧
    (s.issueToken c e).deviceMask = s.deviceMask ∧
    (s.issueToken c e).counters = s.counters := by
  unfold State.issueToken; dsimp only; split <;> simp

@[simp] theorem State.issueToken_reads (s : State) (c : ClaimIx) (e : EntryIx) :
    (∀ j, (s.issueToken c e).session j = s.session j) ∧
    (∀ j, (s.issueToken c e).ns j = s.ns j) ∧
    (∀ j, (s.issueToken c e).line j = s.line j) ∧
    (∀ j, (s.issueToken c e).chain j = s.chain j) := by
  refine ⟨fun j => State.session_congr (by simp) j,
    fun j => State.ns_congr (by simp) j,
    fun j => State.line_congr (by simp) j,
    fun j => State.chain_congr (by simp) j⟩

@[simp] theorem State.createEntry_fields (s : State) (e : EntryIx) (k : Key) (m : Mode) (c : ClaimIx) :
    (s.createEntry e k m c).pending = s.pending ∧
    (s.createEntry e k m c).tokenCounter = s.tokenCounter ∧
    (s.createEntry e k m c).tokenLoaded = s.tokenLoaded ∧
    (s.createEntry e k m c).arbiterLast = s.arbiterLast ∧
    (s.createEntry e k m c).sweepLast = s.sweepLast ∧
    (s.createEntry e k m c).claims = s.claims ∧
    (s.createEntry e k m c).freeList = s.freeList ∧
    (s.createEntry e k m c).freeClaimCount = s.freeClaimCount ∧
    (s.createEntry e k m c).sessions = s.sessions ∧
    (s.createEntry e k m c).divider = s.divider ∧
    (s.createEntry e k m c).time = s.time ∧
    (s.createEntry e k m c).deadlines = s.deadlines ∧
    (s.createEntry e k m c).expiries = s.expiries ∧
    (s.createEntry e k m c).lines = s.lines ∧
    (s.createEntry e k m c).service = s.service ∧
    (s.createEntry e k m c).mailbox = s.mailbox ∧
    (s.createEntry e k m c).commandCode = s.commandCode ∧
    (s.createEntry e k m c).longCommand = s.longCommand ∧
    (s.createEntry e k m c).resultCode = s.resultCode ∧
    (s.createEntry e k m c).params = s.params ∧
    (s.createEntry e k m c).result = s.result ∧
    (s.createEntry e k m c).spiWrite = s.spiWrite ∧
    (s.createEntry e k m c).leaseMin = s.leaseMin ∧
    (s.createEntry e k m c).leaseMax = s.leaseMax ∧
    (s.createEntry e k m c).poolThreshold = s.poolThreshold ∧
    (s.createEntry e k m c).clearSweep = s.clearSweep ∧
    (s.createEntry e k m c).clearSessions = s.clearSessions ∧
    (s.createEntry e k m c).clearClaims = s.clearClaims ∧
    (s.createEntry e k m c).clearEntries = s.clearEntries ∧
    (s.createEntry e k m c).deviceCauses = s.deviceCauses ∧
    (s.createEntry e k m c).deviceMask = s.deviceMask ∧
    (s.createEntry e k m c).counters = s.counters := by
  simp [State.createEntry]

@[simp] theorem State.createEntry_reads (s : State) (e : EntryIx) (k : Key) (m : Mode) (c : ClaimIx) :
    (∀ j, (s.createEntry e k m c).claim j = s.claim j) ∧
    (∀ j, (s.createEntry e k m c).session j = s.session j) ∧
    (∀ j, (s.createEntry e k m c).line j = s.line j) := by
  refine ⟨fun j => State.claim_congr (by simp) j,
    fun j => State.session_congr (by simp) j,
    fun j => State.line_congr (by simp) j⟩

@[simp] theorem State.completeDrain_fields (s : State) (n : NsIx) :
    (s.completeDrain n).pending = s.pending ∧
    (s.completeDrain n).entries = s.entries ∧
    (s.completeDrain n).chains = s.chains ∧
    (s.completeDrain n).tokenCounter = s.tokenCounter ∧
    (s.completeDrain n).tokenLoaded = s.tokenLoaded ∧
    (s.completeDrain n).freeEntryCount = s.freeEntryCount ∧
    (s.completeDrain n).arbiterLast = s.arbiterLast ∧
    (s.completeDrain n).sweepLast = s.sweepLast ∧
    (s.completeDrain n).claims = s.claims ∧
    (s.completeDrain n).freeList = s.freeList ∧
    (s.completeDrain n).freeClaimCount = s.freeClaimCount ∧
    (s.completeDrain n).sessions = s.sessions ∧
    (s.completeDrain n).divider = s.divider ∧
    (s.completeDrain n).time = s.time ∧
    (s.completeDrain n).deadlines = s.deadlines ∧
    (s.completeDrain n).expiries = s.expiries ∧
    (s.completeDrain n).lines = s.lines ∧
    (s.completeDrain n).service = s.service ∧
    (s.completeDrain n).mailbox = s.mailbox ∧
    (s.completeDrain n).commandCode = s.commandCode ∧
    (s.completeDrain n).longCommand = s.longCommand ∧
    (s.completeDrain n).resultCode = s.resultCode ∧
    (s.completeDrain n).params = s.params ∧
    (s.completeDrain n).result = s.result ∧
    (s.completeDrain n).spiWrite = s.spiWrite ∧
    (s.completeDrain n).leaseMin = s.leaseMin ∧
    (s.completeDrain n).leaseMax = s.leaseMax ∧
    (s.completeDrain n).poolThreshold = s.poolThreshold ∧
    (s.completeDrain n).clearSweep = s.clearSweep ∧
    (s.completeDrain n).clearSessions = s.clearSessions ∧
    (s.completeDrain n).clearClaims = s.clearClaims ∧
    (s.completeDrain n).clearEntries = s.clearEntries ∧
    (s.completeDrain n).deviceMask = s.deviceMask ∧
    (s.completeDrain n).counters = s.counters := by
  unfold State.completeDrain; split <;> simp

@[simp] theorem State.completeDrain_reads (s : State) (n : NsIx) :
    (∀ j, (s.completeDrain n).entry j = s.entry j) ∧
    (∀ j, (s.completeDrain n).claim j = s.claim j) ∧
    (∀ j, (s.completeDrain n).session j = s.session j) ∧
    (∀ j, (s.completeDrain n).line j = s.line j) ∧
    (∀ j, (s.completeDrain n).chain j = s.chain j) := by
  refine ⟨fun j => State.entry_congr (by simp) j,
    fun j => State.claim_congr (by simp) j,
    fun j => State.session_congr (by simp) j,
    fun j => State.line_congr (by simp) j,
    fun j => State.chain_congr (by simp) j⟩

@[simp] theorem State.retireEntry_fields (s : State) (e : EntryIx) :
    (s.retireEntry e).pending = s.pending ∧
    (s.retireEntry e).tokenCounter = s.tokenCounter ∧
    (s.retireEntry e).tokenLoaded = s.tokenLoaded ∧
    (s.retireEntry e).arbiterLast = s.arbiterLast ∧
    (s.retireEntry e).sweepLast = s.sweepLast ∧
    (s.retireEntry e).claims = s.claims ∧
    (s.retireEntry e).freeList = s.freeList ∧
    (s.retireEntry e).freeClaimCount = s.freeClaimCount ∧
    (s.retireEntry e).sessions = s.sessions ∧
    (s.retireEntry e).divider = s.divider ∧
    (s.retireEntry e).time = s.time ∧
    (s.retireEntry e).deadlines = s.deadlines ∧
    (s.retireEntry e).expiries = s.expiries ∧
    (s.retireEntry e).lines = s.lines ∧
    (s.retireEntry e).service = s.service ∧
    (s.retireEntry e).mailbox = s.mailbox ∧
    (s.retireEntry e).commandCode = s.commandCode ∧
    (s.retireEntry e).longCommand = s.longCommand ∧
    (s.retireEntry e).resultCode = s.resultCode ∧
    (s.retireEntry e).params = s.params ∧
    (s.retireEntry e).result = s.result ∧
    (s.retireEntry e).spiWrite = s.spiWrite ∧
    (s.retireEntry e).leaseMin = s.leaseMin ∧
    (s.retireEntry e).leaseMax = s.leaseMax ∧
    (s.retireEntry e).poolThreshold = s.poolThreshold ∧
    (s.retireEntry e).clearSweep = s.clearSweep ∧
    (s.retireEntry e).clearSessions = s.clearSessions ∧
    (s.retireEntry e).clearClaims = s.clearClaims ∧
    (s.retireEntry e).clearEntries = s.clearEntries ∧
    (s.retireEntry e).deviceMask = s.deviceMask ∧
    (s.retireEntry e).counters = s.counters := by
  simp [State.retireEntry]

@[simp] theorem State.retireEntry_reads (s : State) (e : EntryIx) :
    (∀ j, (s.retireEntry e).claim j = s.claim j) ∧
    (∀ j, (s.retireEntry e).session j = s.session j) ∧
    (∀ j, (s.retireEntry e).line j = s.line j) := by
  refine ⟨fun j => State.claim_congr (by simp) j,
    fun j => State.session_congr (by simp) j,
    fun j => State.line_congr (by simp) j⟩

@[simp] theorem State.clearUpgrade_fields (s : State) (e : EntryIx) (c : ClaimIx) :
    (s.clearUpgrade e c).pending = s.pending ∧
    (s.clearUpgrade e c).chains = s.chains ∧
    (s.clearUpgrade e c).tokenCounter = s.tokenCounter ∧
    (s.clearUpgrade e c).tokenLoaded = s.tokenLoaded ∧
    (s.clearUpgrade e c).freeEntryCount = s.freeEntryCount ∧
    (s.clearUpgrade e c).arbiterLast = s.arbiterLast ∧
    (s.clearUpgrade e c).sweepLast = s.sweepLast ∧
    (s.clearUpgrade e c).freeList = s.freeList ∧
    (s.clearUpgrade e c).freeClaimCount = s.freeClaimCount ∧
    (s.clearUpgrade e c).sessions = s.sessions ∧
    (s.clearUpgrade e c).namespaces = s.namespaces ∧
    (s.clearUpgrade e c).divider = s.divider ∧
    (s.clearUpgrade e c).time = s.time ∧
    (s.clearUpgrade e c).expiries = s.expiries ∧
    (s.clearUpgrade e c).lines = s.lines ∧
    (s.clearUpgrade e c).service = s.service ∧
    (s.clearUpgrade e c).mailbox = s.mailbox ∧
    (s.clearUpgrade e c).commandCode = s.commandCode ∧
    (s.clearUpgrade e c).longCommand = s.longCommand ∧
    (s.clearUpgrade e c).resultCode = s.resultCode ∧
    (s.clearUpgrade e c).params = s.params ∧
    (s.clearUpgrade e c).result = s.result ∧
    (s.clearUpgrade e c).spiWrite = s.spiWrite ∧
    (s.clearUpgrade e c).leaseMin = s.leaseMin ∧
    (s.clearUpgrade e c).leaseMax = s.leaseMax ∧
    (s.clearUpgrade e c).poolThreshold = s.poolThreshold ∧
    (s.clearUpgrade e c).clearSweep = s.clearSweep ∧
    (s.clearUpgrade e c).clearSessions = s.clearSessions ∧
    (s.clearUpgrade e c).clearClaims = s.clearClaims ∧
    (s.clearUpgrade e c).clearEntries = s.clearEntries ∧
    (s.clearUpgrade e c).deviceCauses = s.deviceCauses ∧
    (s.clearUpgrade e c).deviceMask = s.deviceMask ∧
    (s.clearUpgrade e c).counters = s.counters := by
  simp [State.clearUpgrade]

@[simp] theorem State.clearUpgrade_reads (s : State) (e : EntryIx) (c : ClaimIx) :
    (∀ j, (s.clearUpgrade e c).session j = s.session j) ∧
    (∀ j, (s.clearUpgrade e c).ns j = s.ns j) ∧
    (∀ j, (s.clearUpgrade e c).line j = s.line j) ∧
    (∀ j, (s.clearUpgrade e c).chain j = s.chain j) := by
  refine ⟨fun j => State.session_congr (by simp) j,
    fun j => State.ns_congr (by simp) j,
    fun j => State.line_congr (by simp) j,
    fun j => State.chain_congr (by simp) j⟩

@[simp] theorem State.makePending_fields (s : State) (e : EntryIx) (c : ClaimIx) (w : Nat) :
    (s.makePending e c w).pending = s.pending ∧
    (s.makePending e c w).chains = s.chains ∧
    (s.makePending e c w).tokenCounter = s.tokenCounter ∧
    (s.makePending e c w).tokenLoaded = s.tokenLoaded ∧
    (s.makePending e c w).freeEntryCount = s.freeEntryCount ∧
    (s.makePending e c w).arbiterLast = s.arbiterLast ∧
    (s.makePending e c w).sweepLast = s.sweepLast ∧
    (s.makePending e c w).freeList = s.freeList ∧
    (s.makePending e c w).freeClaimCount = s.freeClaimCount ∧
    (s.makePending e c w).sessions = s.sessions ∧
    (s.makePending e c w).namespaces = s.namespaces ∧
    (s.makePending e c w).divider = s.divider ∧
    (s.makePending e c w).time = s.time ∧
    (s.makePending e c w).expiries = s.expiries ∧
    (s.makePending e c w).lines = s.lines ∧
    (s.makePending e c w).service = s.service ∧
    (s.makePending e c w).mailbox = s.mailbox ∧
    (s.makePending e c w).commandCode = s.commandCode ∧
    (s.makePending e c w).longCommand = s.longCommand ∧
    (s.makePending e c w).resultCode = s.resultCode ∧
    (s.makePending e c w).params = s.params ∧
    (s.makePending e c w).result = s.result ∧
    (s.makePending e c w).spiWrite = s.spiWrite ∧
    (s.makePending e c w).leaseMin = s.leaseMin ∧
    (s.makePending e c w).leaseMax = s.leaseMax ∧
    (s.makePending e c w).poolThreshold = s.poolThreshold ∧
    (s.makePending e c w).clearSweep = s.clearSweep ∧
    (s.makePending e c w).clearSessions = s.clearSessions ∧
    (s.makePending e c w).clearClaims = s.clearClaims ∧
    (s.makePending e c w).clearEntries = s.clearEntries ∧
    (s.makePending e c w).deviceCauses = s.deviceCauses ∧
    (s.makePending e c w).deviceMask = s.deviceMask ∧
    (s.makePending e c w).counters = s.counters := by
  simp [State.makePending]

@[simp] theorem State.makePending_reads (s : State) (e : EntryIx) (c : ClaimIx) (w : Nat) :
    (∀ j, (s.makePending e c w).session j = s.session j) ∧
    (∀ j, (s.makePending e c w).ns j = s.ns j) ∧
    (∀ j, (s.makePending e c w).line j = s.line j) ∧
    (∀ j, (s.makePending e c w).chain j = s.chain j) := by
  refine ⟨fun j => State.session_congr (by simp) j,
    fun j => State.ns_congr (by simp) j,
    fun j => State.line_congr (by simp) j,
    fun j => State.chain_congr (by simp) j⟩

@[simp] theorem State.upgradeClaim_fields (s : State) (e : EntryIx) (c : ClaimIx) :
    (s.upgradeClaim e c).pending = s.pending ∧
    (s.upgradeClaim e c).chains = s.chains ∧
    (s.upgradeClaim e c).tokenLoaded = s.tokenLoaded ∧
    (s.upgradeClaim e c).freeEntryCount = s.freeEntryCount ∧
    (s.upgradeClaim e c).arbiterLast = s.arbiterLast ∧
    (s.upgradeClaim e c).sweepLast = s.sweepLast ∧
    (s.upgradeClaim e c).freeList = s.freeList ∧
    (s.upgradeClaim e c).freeClaimCount = s.freeClaimCount ∧
    (s.upgradeClaim e c).sessions = s.sessions ∧
    (s.upgradeClaim e c).namespaces = s.namespaces ∧
    (s.upgradeClaim e c).divider = s.divider ∧
    (s.upgradeClaim e c).time = s.time ∧
    (s.upgradeClaim e c).expiries = s.expiries ∧
    (s.upgradeClaim e c).lines = s.lines ∧
    (s.upgradeClaim e c).service = s.service ∧
    (s.upgradeClaim e c).mailbox = s.mailbox ∧
    (s.upgradeClaim e c).commandCode = s.commandCode ∧
    (s.upgradeClaim e c).longCommand = s.longCommand ∧
    (s.upgradeClaim e c).resultCode = s.resultCode ∧
    (s.upgradeClaim e c).params = s.params ∧
    (s.upgradeClaim e c).result = s.result ∧
    (s.upgradeClaim e c).spiWrite = s.spiWrite ∧
    (s.upgradeClaim e c).leaseMin = s.leaseMin ∧
    (s.upgradeClaim e c).leaseMax = s.leaseMax ∧
    (s.upgradeClaim e c).poolThreshold = s.poolThreshold ∧
    (s.upgradeClaim e c).clearSweep = s.clearSweep ∧
    (s.upgradeClaim e c).clearSessions = s.clearSessions ∧
    (s.upgradeClaim e c).clearClaims = s.clearClaims ∧
    (s.upgradeClaim e c).clearEntries = s.clearEntries ∧
    (s.upgradeClaim e c).deviceMask = s.deviceMask := by
  unfold State.upgradeClaim; dsimp only; split <;> simp

@[simp] theorem State.upgradeClaim_reads (s : State) (e : EntryIx) (c : ClaimIx) :
    (∀ j, (s.upgradeClaim e c).session j = s.session j) ∧
    (∀ j, (s.upgradeClaim e c).ns j = s.ns j) ∧
    (∀ j, (s.upgradeClaim e c).line j = s.line j) ∧
    (∀ j, (s.upgradeClaim e c).chain j = s.chain j) := by
  refine ⟨fun j => State.session_congr (by simp) j,
    fun j => State.ns_congr (by simp) j,
    fun j => State.line_congr (by simp) j,
    fun j => State.chain_congr (by simp) j⟩

@[simp] theorem State.grantNew_fields (s : State) (i : SlotIx) (k : Key) (m : Mode) (e : EntryIx) (c : ClaimIx) :
    (s.grantNew i k m e c).pending = s.pending ∧
    (s.grantNew i k m e c).tokenLoaded = s.tokenLoaded ∧
    (s.grantNew i k m e c).arbiterLast = s.arbiterLast ∧
    (s.grantNew i k m e c).sweepLast = s.sweepLast ∧
    (s.grantNew i k m e c).divider = s.divider ∧
    (s.grantNew i k m e c).time = s.time ∧
    (s.grantNew i k m e c).deadlines = s.deadlines ∧
    (s.grantNew i k m e c).expiries = s.expiries ∧
    (s.grantNew i k m e c).lines = s.lines ∧
    (s.grantNew i k m e c).service = s.service ∧
    (s.grantNew i k m e c).mailbox = s.mailbox ∧
    (s.grantNew i k m e c).commandCode = s.commandCode ∧
    (s.grantNew i k m e c).longCommand = s.longCommand ∧
    (s.grantNew i k m e c).resultCode = s.resultCode ∧
    (s.grantNew i k m e c).params = s.params ∧
    (s.grantNew i k m e c).result = s.result ∧
    (s.grantNew i k m e c).spiWrite = s.spiWrite ∧
    (s.grantNew i k m e c).leaseMin = s.leaseMin ∧
    (s.grantNew i k m e c).leaseMax = s.leaseMax ∧
    (s.grantNew i k m e c).poolThreshold = s.poolThreshold ∧
    (s.grantNew i k m e c).clearSweep = s.clearSweep ∧
    (s.grantNew i k m e c).clearSessions = s.clearSessions ∧
    (s.grantNew i k m e c).clearClaims = s.clearClaims ∧
    (s.grantNew i k m e c).clearEntries = s.clearEntries ∧
    (s.grantNew i k m e c).deviceMask = s.deviceMask := by
  simp [State.grantNew]

@[simp] theorem State.grantNew_reads (s : State) (i : SlotIx) (k : Key) (m : Mode) (e : EntryIx) (c : ClaimIx) :
    (∀ j, (s.grantNew i k m e c).line j = s.line j) := by
  exact fun j => State.line_congr (by simp) j

@[simp] theorem State.grantJoin_fields (s : State) (i : SlotIx) (k : Key) (e : EntryIx) (c : ClaimIx) :
    (s.grantJoin i k e c).pending = s.pending ∧
    (s.grantJoin i k e c).chains = s.chains ∧
    (s.grantJoin i k e c).tokenLoaded = s.tokenLoaded ∧
    (s.grantJoin i k e c).freeEntryCount = s.freeEntryCount ∧
    (s.grantJoin i k e c).arbiterLast = s.arbiterLast ∧
    (s.grantJoin i k e c).sweepLast = s.sweepLast ∧
    (s.grantJoin i k e c).namespaces = s.namespaces ∧
    (s.grantJoin i k e c).divider = s.divider ∧
    (s.grantJoin i k e c).time = s.time ∧
    (s.grantJoin i k e c).deadlines = s.deadlines ∧
    (s.grantJoin i k e c).expiries = s.expiries ∧
    (s.grantJoin i k e c).lines = s.lines ∧
    (s.grantJoin i k e c).service = s.service ∧
    (s.grantJoin i k e c).mailbox = s.mailbox ∧
    (s.grantJoin i k e c).commandCode = s.commandCode ∧
    (s.grantJoin i k e c).longCommand = s.longCommand ∧
    (s.grantJoin i k e c).resultCode = s.resultCode ∧
    (s.grantJoin i k e c).params = s.params ∧
    (s.grantJoin i k e c).result = s.result ∧
    (s.grantJoin i k e c).spiWrite = s.spiWrite ∧
    (s.grantJoin i k e c).leaseMin = s.leaseMin ∧
    (s.grantJoin i k e c).leaseMax = s.leaseMax ∧
    (s.grantJoin i k e c).poolThreshold = s.poolThreshold ∧
    (s.grantJoin i k e c).clearSweep = s.clearSweep ∧
    (s.grantJoin i k e c).clearSessions = s.clearSessions ∧
    (s.grantJoin i k e c).clearClaims = s.clearClaims ∧
    (s.grantJoin i k e c).clearEntries = s.clearEntries ∧
    (s.grantJoin i k e c).deviceMask = s.deviceMask := by
  simp [State.grantJoin]

@[simp] theorem State.grantJoin_reads (s : State) (i : SlotIx) (k : Key) (e : EntryIx) (c : ClaimIx) :
    (∀ j, (s.grantJoin i k e c).ns j = s.ns j) ∧
    (∀ j, (s.grantJoin i k e c).line j = s.line j) ∧
    (∀ j, (s.grantJoin i k e c).chain j = s.chain j) := by
  refine ⟨fun j => State.ns_congr (by simp) j,
    fun j => State.line_congr (by simp) j,
    fun j => State.chain_congr (by simp) j⟩

@[simp] theorem State.queueClaim_fields (s : State) (i : SlotIx) (k : Key) (m : Mode) (w : Nat) (e : EntryIx) (c : ClaimIx) :
    (s.queueClaim i k m w e c).pending = s.pending ∧
    (s.queueClaim i k m w e c).chains = s.chains ∧
    (s.queueClaim i k m w e c).tokenCounter = s.tokenCounter ∧
    (s.queueClaim i k m w e c).tokenLoaded = s.tokenLoaded ∧
    (s.queueClaim i k m w e c).freeEntryCount = s.freeEntryCount ∧
    (s.queueClaim i k m w e c).arbiterLast = s.arbiterLast ∧
    (s.queueClaim i k m w e c).sweepLast = s.sweepLast ∧
    (s.queueClaim i k m w e c).namespaces = s.namespaces ∧
    (s.queueClaim i k m w e c).divider = s.divider ∧
    (s.queueClaim i k m w e c).time = s.time ∧
    (s.queueClaim i k m w e c).expiries = s.expiries ∧
    (s.queueClaim i k m w e c).lines = s.lines ∧
    (s.queueClaim i k m w e c).service = s.service ∧
    (s.queueClaim i k m w e c).mailbox = s.mailbox ∧
    (s.queueClaim i k m w e c).commandCode = s.commandCode ∧
    (s.queueClaim i k m w e c).longCommand = s.longCommand ∧
    (s.queueClaim i k m w e c).resultCode = s.resultCode ∧
    (s.queueClaim i k m w e c).params = s.params ∧
    (s.queueClaim i k m w e c).result = s.result ∧
    (s.queueClaim i k m w e c).spiWrite = s.spiWrite ∧
    (s.queueClaim i k m w e c).leaseMin = s.leaseMin ∧
    (s.queueClaim i k m w e c).leaseMax = s.leaseMax ∧
    (s.queueClaim i k m w e c).poolThreshold = s.poolThreshold ∧
    (s.queueClaim i k m w e c).clearSweep = s.clearSweep ∧
    (s.queueClaim i k m w e c).clearSessions = s.clearSessions ∧
    (s.queueClaim i k m w e c).clearClaims = s.clearClaims ∧
    (s.queueClaim i k m w e c).clearEntries = s.clearEntries ∧
    (s.queueClaim i k m w e c).deviceMask = s.deviceMask ∧
    (s.queueClaim i k m w e c).counters = s.counters := by
  simp [State.queueClaim]

@[simp] theorem State.queueClaim_reads (s : State) (i : SlotIx) (k : Key) (m : Mode) (w : Nat) (e : EntryIx) (c : ClaimIx) :
    (∀ j, (s.queueClaim i k m w e c).ns j = s.ns j) ∧
    (∀ j, (s.queueClaim i k m w e c).line j = s.line j) ∧
    (∀ j, (s.queueClaim i k m w e c).chain j = s.chain j) := by
  refine ⟨fun j => State.ns_congr (by simp) j,
    fun j => State.line_congr (by simp) j,
    fun j => State.chain_congr (by simp) j⟩

@[simp] theorem State.setLease_fields (s : State) (i : SlotIx) :
    (s.setLease i).pending = s.pending ∧
    (s.setLease i).entries = s.entries ∧
    (s.setLease i).chains = s.chains ∧
    (s.setLease i).tokenCounter = s.tokenCounter ∧
    (s.setLease i).tokenLoaded = s.tokenLoaded ∧
    (s.setLease i).freeEntryCount = s.freeEntryCount ∧
    (s.setLease i).arbiterLast = s.arbiterLast ∧
    (s.setLease i).sweepLast = s.sweepLast ∧
    (s.setLease i).claims = s.claims ∧
    (s.setLease i).freeList = s.freeList ∧
    (s.setLease i).freeClaimCount = s.freeClaimCount ∧
    (s.setLease i).namespaces = s.namespaces ∧
    (s.setLease i).divider = s.divider ∧
    (s.setLease i).time = s.time ∧
    (s.setLease i).expiries = s.expiries ∧
    (s.setLease i).lines = s.lines ∧
    (s.setLease i).service = s.service ∧
    (s.setLease i).mailbox = s.mailbox ∧
    (s.setLease i).commandCode = s.commandCode ∧
    (s.setLease i).longCommand = s.longCommand ∧
    (s.setLease i).resultCode = s.resultCode ∧
    (s.setLease i).params = s.params ∧
    (s.setLease i).result = s.result ∧
    (s.setLease i).spiWrite = s.spiWrite ∧
    (s.setLease i).leaseMin = s.leaseMin ∧
    (s.setLease i).leaseMax = s.leaseMax ∧
    (s.setLease i).poolThreshold = s.poolThreshold ∧
    (s.setLease i).clearSweep = s.clearSweep ∧
    (s.setLease i).clearSessions = s.clearSessions ∧
    (s.setLease i).clearClaims = s.clearClaims ∧
    (s.setLease i).clearEntries = s.clearEntries ∧
    (s.setLease i).deviceCauses = s.deviceCauses ∧
    (s.setLease i).deviceMask = s.deviceMask ∧
    (s.setLease i).counters = s.counters := by
  simp [State.setLease]

@[simp] theorem State.setLease_reads (s : State) (i : SlotIx) :
    (∀ j, (s.setLease i).entry j = s.entry j) ∧
    (∀ j, (s.setLease i).claim j = s.claim j) ∧
    (∀ j, (s.setLease i).ns j = s.ns j) ∧
    (∀ j, (s.setLease i).line j = s.line j) ∧
    (∀ j, (s.setLease i).chain j = s.chain j) := by
  refine ⟨fun j => State.entry_congr (by simp) j,
    fun j => State.claim_congr (by simp) j,
    fun j => State.ns_congr (by simp) j,
    fun j => State.line_congr (by simp) j,
    fun j => State.chain_congr (by simp) j⟩

@[simp] theorem State.enterEnding_fields (s : State) (i : SlotIx) (cause : EndCause) :
    (s.enterEnding i cause).pending = s.pending ∧
    (s.enterEnding i cause).entries = s.entries ∧
    (s.enterEnding i cause).chains = s.chains ∧
    (s.enterEnding i cause).tokenCounter = s.tokenCounter ∧
    (s.enterEnding i cause).tokenLoaded = s.tokenLoaded ∧
    (s.enterEnding i cause).freeEntryCount = s.freeEntryCount ∧
    (s.enterEnding i cause).arbiterLast = s.arbiterLast ∧
    (s.enterEnding i cause).sweepLast = s.sweepLast ∧
    (s.enterEnding i cause).claims = s.claims ∧
    (s.enterEnding i cause).freeList = s.freeList ∧
    (s.enterEnding i cause).freeClaimCount = s.freeClaimCount ∧
    (s.enterEnding i cause).namespaces = s.namespaces ∧
    (s.enterEnding i cause).divider = s.divider ∧
    (s.enterEnding i cause).time = s.time ∧
    (s.enterEnding i cause).expiries = s.expiries ∧
    (s.enterEnding i cause).lines = s.lines ∧
    (s.enterEnding i cause).service = s.service ∧
    (s.enterEnding i cause).mailbox = s.mailbox ∧
    (s.enterEnding i cause).commandCode = s.commandCode ∧
    (s.enterEnding i cause).longCommand = s.longCommand ∧
    (s.enterEnding i cause).resultCode = s.resultCode ∧
    (s.enterEnding i cause).params = s.params ∧
    (s.enterEnding i cause).result = s.result ∧
    (s.enterEnding i cause).spiWrite = s.spiWrite ∧
    (s.enterEnding i cause).leaseMin = s.leaseMin ∧
    (s.enterEnding i cause).leaseMax = s.leaseMax ∧
    (s.enterEnding i cause).poolThreshold = s.poolThreshold ∧
    (s.enterEnding i cause).clearSweep = s.clearSweep ∧
    (s.enterEnding i cause).clearSessions = s.clearSessions ∧
    (s.enterEnding i cause).clearClaims = s.clearClaims ∧
    (s.enterEnding i cause).clearEntries = s.clearEntries ∧
    (s.enterEnding i cause).deviceCauses = s.deviceCauses ∧
    (s.enterEnding i cause).deviceMask = s.deviceMask ∧
    (s.enterEnding i cause).counters = s.counters := by
  simp [State.enterEnding]

@[simp] theorem State.enterEnding_reads (s : State) (i : SlotIx) (cause : EndCause) :
    (∀ j, (s.enterEnding i cause).entry j = s.entry j) ∧
    (∀ j, (s.enterEnding i cause).claim j = s.claim j) ∧
    (∀ j, (s.enterEnding i cause).ns j = s.ns j) ∧
    (∀ j, (s.enterEnding i cause).line j = s.line j) ∧
    (∀ j, (s.enterEnding i cause).chain j = s.chain j) := by
  refine ⟨fun j => State.entry_congr (by simp) j,
    fun j => State.claim_congr (by simp) j,
    fun j => State.ns_congr (by simp) j,
    fun j => State.line_congr (by simp) j,
    fun j => State.chain_congr (by simp) j⟩

@[simp] theorem State.fillReply_fields (s : State) (i : SlotIx) (r : Reply) :
    (s.fillReply i r).pending = s.pending ∧
    (s.fillReply i r).entries = s.entries ∧
    (s.fillReply i r).chains = s.chains ∧
    (s.fillReply i r).tokenCounter = s.tokenCounter ∧
    (s.fillReply i r).tokenLoaded = s.tokenLoaded ∧
    (s.fillReply i r).freeEntryCount = s.freeEntryCount ∧
    (s.fillReply i r).arbiterLast = s.arbiterLast ∧
    (s.fillReply i r).sweepLast = s.sweepLast ∧
    (s.fillReply i r).claims = s.claims ∧
    (s.fillReply i r).freeList = s.freeList ∧
    (s.fillReply i r).freeClaimCount = s.freeClaimCount ∧
    (s.fillReply i r).sessions = s.sessions ∧
    (s.fillReply i r).namespaces = s.namespaces ∧
    (s.fillReply i r).divider = s.divider ∧
    (s.fillReply i r).time = s.time ∧
    (s.fillReply i r).deadlines = s.deadlines ∧
    (s.fillReply i r).expiries = s.expiries ∧
    (s.fillReply i r).service = s.service ∧
    (s.fillReply i r).mailbox = s.mailbox ∧
    (s.fillReply i r).commandCode = s.commandCode ∧
    (s.fillReply i r).longCommand = s.longCommand ∧
    (s.fillReply i r).resultCode = s.resultCode ∧
    (s.fillReply i r).params = s.params ∧
    (s.fillReply i r).result = s.result ∧
    (s.fillReply i r).spiWrite = s.spiWrite ∧
    (s.fillReply i r).leaseMin = s.leaseMin ∧
    (s.fillReply i r).leaseMax = s.leaseMax ∧
    (s.fillReply i r).poolThreshold = s.poolThreshold ∧
    (s.fillReply i r).clearSweep = s.clearSweep ∧
    (s.fillReply i r).clearSessions = s.clearSessions ∧
    (s.fillReply i r).clearClaims = s.clearClaims ∧
    (s.fillReply i r).clearEntries = s.clearEntries ∧
    (s.fillReply i r).deviceCauses = s.deviceCauses ∧
    (s.fillReply i r).deviceMask = s.deviceMask ∧
    (s.fillReply i r).counters = s.counters := by
  simp [State.fillReply]

@[simp] theorem State.fillReply_reads (s : State) (i : SlotIx) (r : Reply) :
    (∀ j, (s.fillReply i r).entry j = s.entry j) ∧
    (∀ j, (s.fillReply i r).claim j = s.claim j) ∧
    (∀ j, (s.fillReply i r).session j = s.session j) ∧
    (∀ j, (s.fillReply i r).ns j = s.ns j) ∧
    (∀ j, (s.fillReply i r).chain j = s.chain j) := by
  refine ⟨fun j => State.entry_congr (by simp) j,
    fun j => State.claim_congr (by simp) j,
    fun j => State.session_congr (by simp) j,
    fun j => State.ns_congr (by simp) j,
    fun j => State.chain_congr (by simp) j⟩

@[simp] theorem State.answer_fields (s : State) (i : SlotIx) (r : Reply) :
    (s.answer i r).pending = s.pending ∧
    (s.answer i r).entries = s.entries ∧
    (s.answer i r).chains = s.chains ∧
    (s.answer i r).tokenCounter = s.tokenCounter ∧
    (s.answer i r).tokenLoaded = s.tokenLoaded ∧
    (s.answer i r).freeEntryCount = s.freeEntryCount ∧
    (s.answer i r).arbiterLast = s.arbiterLast ∧
    (s.answer i r).sweepLast = s.sweepLast ∧
    (s.answer i r).claims = s.claims ∧
    (s.answer i r).freeList = s.freeList ∧
    (s.answer i r).freeClaimCount = s.freeClaimCount ∧
    (s.answer i r).sessions = s.sessions ∧
    (s.answer i r).namespaces = s.namespaces ∧
    (s.answer i r).divider = s.divider ∧
    (s.answer i r).time = s.time ∧
    (s.answer i r).deadlines = s.deadlines ∧
    (s.answer i r).expiries = s.expiries ∧
    (s.answer i r).service = s.service ∧
    (s.answer i r).mailbox = s.mailbox ∧
    (s.answer i r).commandCode = s.commandCode ∧
    (s.answer i r).longCommand = s.longCommand ∧
    (s.answer i r).resultCode = s.resultCode ∧
    (s.answer i r).params = s.params ∧
    (s.answer i r).result = s.result ∧
    (s.answer i r).spiWrite = s.spiWrite ∧
    (s.answer i r).leaseMin = s.leaseMin ∧
    (s.answer i r).leaseMax = s.leaseMax ∧
    (s.answer i r).poolThreshold = s.poolThreshold ∧
    (s.answer i r).clearSweep = s.clearSweep ∧
    (s.answer i r).clearSessions = s.clearSessions ∧
    (s.answer i r).clearClaims = s.clearClaims ∧
    (s.answer i r).clearEntries = s.clearEntries ∧
    (s.answer i r).deviceCauses = s.deviceCauses ∧
    (s.answer i r).deviceMask = s.deviceMask := by
  unfold State.answer; dsimp only; split <;> simp

@[simp] theorem State.answer_reads (s : State) (i : SlotIx) (r : Reply) :
    (∀ j, (s.answer i r).entry j = s.entry j) ∧
    (∀ j, (s.answer i r).claim j = s.claim j) ∧
    (∀ j, (s.answer i r).session j = s.session j) ∧
    (∀ j, (s.answer i r).ns j = s.ns j) ∧
    (∀ j, (s.answer i r).chain j = s.chain j) := by
  refine ⟨fun j => State.entry_congr (by simp) j,
    fun j => State.claim_congr (by simp) j,
    fun j => State.session_congr (by simp) j,
    fun j => State.ns_congr (by simp) j,
    fun j => State.chain_congr (by simp) j⟩

@[simp] theorem State.cacheReply_fields (s : State) (i : SlotIx) (r : Request) (reply : Reply) :
    (s.cacheReply i r reply).pending = s.pending ∧
    (s.cacheReply i r reply).entries = s.entries ∧
    (s.cacheReply i r reply).chains = s.chains ∧
    (s.cacheReply i r reply).tokenCounter = s.tokenCounter ∧
    (s.cacheReply i r reply).tokenLoaded = s.tokenLoaded ∧
    (s.cacheReply i r reply).freeEntryCount = s.freeEntryCount ∧
    (s.cacheReply i r reply).arbiterLast = s.arbiterLast ∧
    (s.cacheReply i r reply).sweepLast = s.sweepLast ∧
    (s.cacheReply i r reply).claims = s.claims ∧
    (s.cacheReply i r reply).freeList = s.freeList ∧
    (s.cacheReply i r reply).freeClaimCount = s.freeClaimCount ∧
    (s.cacheReply i r reply).namespaces = s.namespaces ∧
    (s.cacheReply i r reply).divider = s.divider ∧
    (s.cacheReply i r reply).time = s.time ∧
    (s.cacheReply i r reply).deadlines = s.deadlines ∧
    (s.cacheReply i r reply).expiries = s.expiries ∧
    (s.cacheReply i r reply).lines = s.lines ∧
    (s.cacheReply i r reply).service = s.service ∧
    (s.cacheReply i r reply).mailbox = s.mailbox ∧
    (s.cacheReply i r reply).commandCode = s.commandCode ∧
    (s.cacheReply i r reply).longCommand = s.longCommand ∧
    (s.cacheReply i r reply).resultCode = s.resultCode ∧
    (s.cacheReply i r reply).params = s.params ∧
    (s.cacheReply i r reply).result = s.result ∧
    (s.cacheReply i r reply).spiWrite = s.spiWrite ∧
    (s.cacheReply i r reply).leaseMin = s.leaseMin ∧
    (s.cacheReply i r reply).leaseMax = s.leaseMax ∧
    (s.cacheReply i r reply).poolThreshold = s.poolThreshold ∧
    (s.cacheReply i r reply).clearSweep = s.clearSweep ∧
    (s.cacheReply i r reply).clearSessions = s.clearSessions ∧
    (s.cacheReply i r reply).clearClaims = s.clearClaims ∧
    (s.cacheReply i r reply).clearEntries = s.clearEntries ∧
    (s.cacheReply i r reply).deviceCauses = s.deviceCauses ∧
    (s.cacheReply i r reply).deviceMask = s.deviceMask ∧
    (s.cacheReply i r reply).counters = s.counters := by
  simp [State.cacheReply]

@[simp] theorem State.cacheReply_reads (s : State) (i : SlotIx) (r : Request) (reply : Reply) :
    (∀ j, (s.cacheReply i r reply).entry j = s.entry j) ∧
    (∀ j, (s.cacheReply i r reply).claim j = s.claim j) ∧
    (∀ j, (s.cacheReply i r reply).ns j = s.ns j) ∧
    (∀ j, (s.cacheReply i r reply).line j = s.line j) ∧
    (∀ j, (s.cacheReply i r reply).chain j = s.chain j) := by
  refine ⟨fun j => State.entry_congr (by simp) j,
    fun j => State.claim_congr (by simp) j,
    fun j => State.ns_congr (by simp) j,
    fun j => State.line_congr (by simp) j,
    fun j => State.chain_congr (by simp) j⟩

@[simp] theorem State.finish_fields (s : State) (i : SlotIx) (r : Request) (reply : Reply) :
    (s.finish i r reply).pending = s.pending ∧
    (s.finish i r reply).entries = s.entries ∧
    (s.finish i r reply).chains = s.chains ∧
    (s.finish i r reply).tokenCounter = s.tokenCounter ∧
    (s.finish i r reply).tokenLoaded = s.tokenLoaded ∧
    (s.finish i r reply).freeEntryCount = s.freeEntryCount ∧
    (s.finish i r reply).arbiterLast = s.arbiterLast ∧
    (s.finish i r reply).sweepLast = s.sweepLast ∧
    (s.finish i r reply).claims = s.claims ∧
    (s.finish i r reply).freeList = s.freeList ∧
    (s.finish i r reply).freeClaimCount = s.freeClaimCount ∧
    (s.finish i r reply).namespaces = s.namespaces ∧
    (s.finish i r reply).divider = s.divider ∧
    (s.finish i r reply).time = s.time ∧
    (s.finish i r reply).deadlines = s.deadlines ∧
    (s.finish i r reply).expiries = s.expiries ∧
    (s.finish i r reply).service = s.service ∧
    (s.finish i r reply).mailbox = s.mailbox ∧
    (s.finish i r reply).commandCode = s.commandCode ∧
    (s.finish i r reply).longCommand = s.longCommand ∧
    (s.finish i r reply).resultCode = s.resultCode ∧
    (s.finish i r reply).params = s.params ∧
    (s.finish i r reply).result = s.result ∧
    (s.finish i r reply).spiWrite = s.spiWrite ∧
    (s.finish i r reply).leaseMin = s.leaseMin ∧
    (s.finish i r reply).leaseMax = s.leaseMax ∧
    (s.finish i r reply).poolThreshold = s.poolThreshold ∧
    (s.finish i r reply).clearSweep = s.clearSweep ∧
    (s.finish i r reply).clearSessions = s.clearSessions ∧
    (s.finish i r reply).clearClaims = s.clearClaims ∧
    (s.finish i r reply).clearEntries = s.clearEntries ∧
    (s.finish i r reply).deviceCauses = s.deviceCauses ∧
    (s.finish i r reply).deviceMask = s.deviceMask := by
  simp [State.finish]

@[simp] theorem State.finish_reads (s : State) (i : SlotIx) (r : Request) (reply : Reply) :
    (∀ j, (s.finish i r reply).entry j = s.entry j) ∧
    (∀ j, (s.finish i r reply).claim j = s.claim j) ∧
    (∀ j, (s.finish i r reply).ns j = s.ns j) ∧
    (∀ j, (s.finish i r reply).chain j = s.chain j) := by
  refine ⟨fun j => State.entry_congr (by simp) j,
    fun j => State.claim_congr (by simp) j,
    fun j => State.ns_congr (by simp) j,
    fun j => State.chain_congr (by simp) j⟩

@[simp] theorem State.takeFrame_fields (s : State) (l : LineIx) (r : Request) :
    (s.takeFrame l r).pending = s.pending ∧
    (s.takeFrame l r).entries = s.entries ∧
    (s.takeFrame l r).chains = s.chains ∧
    (s.takeFrame l r).tokenCounter = s.tokenCounter ∧
    (s.takeFrame l r).tokenLoaded = s.tokenLoaded ∧
    (s.takeFrame l r).freeEntryCount = s.freeEntryCount ∧
    (s.takeFrame l r).sweepLast = s.sweepLast ∧
    (s.takeFrame l r).claims = s.claims ∧
    (s.takeFrame l r).freeList = s.freeList ∧
    (s.takeFrame l r).freeClaimCount = s.freeClaimCount ∧
    (s.takeFrame l r).sessions = s.sessions ∧
    (s.takeFrame l r).namespaces = s.namespaces ∧
    (s.takeFrame l r).divider = s.divider ∧
    (s.takeFrame l r).time = s.time ∧
    (s.takeFrame l r).deadlines = s.deadlines ∧
    (s.takeFrame l r).expiries = s.expiries ∧
    (s.takeFrame l r).service = s.service ∧
    (s.takeFrame l r).mailbox = s.mailbox ∧
    (s.takeFrame l r).commandCode = s.commandCode ∧
    (s.takeFrame l r).longCommand = s.longCommand ∧
    (s.takeFrame l r).resultCode = s.resultCode ∧
    (s.takeFrame l r).params = s.params ∧
    (s.takeFrame l r).result = s.result ∧
    (s.takeFrame l r).spiWrite = s.spiWrite ∧
    (s.takeFrame l r).leaseMin = s.leaseMin ∧
    (s.takeFrame l r).leaseMax = s.leaseMax ∧
    (s.takeFrame l r).poolThreshold = s.poolThreshold ∧
    (s.takeFrame l r).clearSweep = s.clearSweep ∧
    (s.takeFrame l r).clearSessions = s.clearSessions ∧
    (s.takeFrame l r).clearClaims = s.clearClaims ∧
    (s.takeFrame l r).clearEntries = s.clearEntries ∧
    (s.takeFrame l r).deviceCauses = s.deviceCauses ∧
    (s.takeFrame l r).deviceMask = s.deviceMask ∧
    (s.takeFrame l r).counters = s.counters := by
  simp [State.takeFrame]

@[simp] theorem State.takeFrame_reads (s : State) (l : LineIx) (r : Request) :
    (∀ j, (s.takeFrame l r).entry j = s.entry j) ∧
    (∀ j, (s.takeFrame l r).claim j = s.claim j) ∧
    (∀ j, (s.takeFrame l r).session j = s.session j) ∧
    (∀ j, (s.takeFrame l r).ns j = s.ns j) ∧
    (∀ j, (s.takeFrame l r).chain j = s.chain j) := by
  refine ⟨fun j => State.entry_congr (by simp) j,
    fun j => State.claim_congr (by simp) j,
    fun j => State.session_congr (by simp) j,
    fun j => State.ns_congr (by simp) j,
    fun j => State.chain_congr (by simp) j⟩

@[simp] theorem State.settleClose_fields (s : State) (i : SlotIx) :
    (s.settleClose i).pending = s.pending ∧
    (s.settleClose i).entries = s.entries ∧
    (s.settleClose i).chains = s.chains ∧
    (s.settleClose i).tokenCounter = s.tokenCounter ∧
    (s.settleClose i).tokenLoaded = s.tokenLoaded ∧
    (s.settleClose i).freeEntryCount = s.freeEntryCount ∧
    (s.settleClose i).arbiterLast = s.arbiterLast ∧
    (s.settleClose i).sweepLast = s.sweepLast ∧
    (s.settleClose i).claims = s.claims ∧
    (s.settleClose i).freeList = s.freeList ∧
    (s.settleClose i).freeClaimCount = s.freeClaimCount ∧
    (s.settleClose i).namespaces = s.namespaces ∧
    (s.settleClose i).divider = s.divider ∧
    (s.settleClose i).time = s.time ∧
    (s.settleClose i).deadlines = s.deadlines ∧
    (s.settleClose i).expiries = s.expiries ∧
    (s.settleClose i).service = s.service ∧
    (s.settleClose i).mailbox = s.mailbox ∧
    (s.settleClose i).commandCode = s.commandCode ∧
    (s.settleClose i).longCommand = s.longCommand ∧
    (s.settleClose i).resultCode = s.resultCode ∧
    (s.settleClose i).params = s.params ∧
    (s.settleClose i).result = s.result ∧
    (s.settleClose i).spiWrite = s.spiWrite ∧
    (s.settleClose i).leaseMin = s.leaseMin ∧
    (s.settleClose i).leaseMax = s.leaseMax ∧
    (s.settleClose i).poolThreshold = s.poolThreshold ∧
    (s.settleClose i).clearSweep = s.clearSweep ∧
    (s.settleClose i).clearSessions = s.clearSessions ∧
    (s.settleClose i).clearClaims = s.clearClaims ∧
    (s.settleClose i).clearEntries = s.clearEntries ∧
    (s.settleClose i).deviceCauses = s.deviceCauses ∧
    (s.settleClose i).deviceMask = s.deviceMask ∧
    (s.settleClose i).counters = s.counters := by
  unfold State.settleClose; split <;> simp

@[simp] theorem State.settleClose_reads (s : State) (i : SlotIx) :
    (∀ j, (s.settleClose i).entry j = s.entry j) ∧
    (∀ j, (s.settleClose i).claim j = s.claim j) ∧
    (∀ j, (s.settleClose i).ns j = s.ns j) ∧
    (∀ j, (s.settleClose i).chain j = s.chain j) := by
  refine ⟨fun j => State.entry_congr (by simp) j,
    fun j => State.claim_congr (by simp) j,
    fun j => State.ns_congr (by simp) j,
    fun j => State.chain_congr (by simp) j⟩

@[simp] theorem State.withdrawSessionEnded_fields (s : State) (i : SlotIx) :
    (s.withdrawSessionEnded i).pending = s.pending ∧
    (s.withdrawSessionEnded i).entries = s.entries ∧
    (s.withdrawSessionEnded i).chains = s.chains ∧
    (s.withdrawSessionEnded i).tokenCounter = s.tokenCounter ∧
    (s.withdrawSessionEnded i).tokenLoaded = s.tokenLoaded ∧
    (s.withdrawSessionEnded i).freeEntryCount = s.freeEntryCount ∧
    (s.withdrawSessionEnded i).arbiterLast = s.arbiterLast ∧
    (s.withdrawSessionEnded i).sweepLast = s.sweepLast ∧
    (s.withdrawSessionEnded i).claims = s.claims ∧
    (s.withdrawSessionEnded i).freeList = s.freeList ∧
    (s.withdrawSessionEnded i).freeClaimCount = s.freeClaimCount ∧
    (s.withdrawSessionEnded i).sessions = s.sessions ∧
    (s.withdrawSessionEnded i).namespaces = s.namespaces ∧
    (s.withdrawSessionEnded i).divider = s.divider ∧
    (s.withdrawSessionEnded i).time = s.time ∧
    (s.withdrawSessionEnded i).deadlines = s.deadlines ∧
    (s.withdrawSessionEnded i).expiries = s.expiries ∧
    (s.withdrawSessionEnded i).service = s.service ∧
    (s.withdrawSessionEnded i).mailbox = s.mailbox ∧
    (s.withdrawSessionEnded i).commandCode = s.commandCode ∧
    (s.withdrawSessionEnded i).longCommand = s.longCommand ∧
    (s.withdrawSessionEnded i).resultCode = s.resultCode ∧
    (s.withdrawSessionEnded i).params = s.params ∧
    (s.withdrawSessionEnded i).result = s.result ∧
    (s.withdrawSessionEnded i).spiWrite = s.spiWrite ∧
    (s.withdrawSessionEnded i).leaseMin = s.leaseMin ∧
    (s.withdrawSessionEnded i).leaseMax = s.leaseMax ∧
    (s.withdrawSessionEnded i).poolThreshold = s.poolThreshold ∧
    (s.withdrawSessionEnded i).clearSweep = s.clearSweep ∧
    (s.withdrawSessionEnded i).clearSessions = s.clearSessions ∧
    (s.withdrawSessionEnded i).clearClaims = s.clearClaims ∧
    (s.withdrawSessionEnded i).clearEntries = s.clearEntries ∧
    (s.withdrawSessionEnded i).deviceCauses = s.deviceCauses ∧
    (s.withdrawSessionEnded i).deviceMask = s.deviceMask ∧
    (s.withdrawSessionEnded i).counters = s.counters := by
  simp [State.withdrawSessionEnded]

@[simp] theorem State.withdrawSessionEnded_reads (s : State) (i : SlotIx) :
    (∀ j, (s.withdrawSessionEnded i).entry j = s.entry j) ∧
    (∀ j, (s.withdrawSessionEnded i).claim j = s.claim j) ∧
    (∀ j, (s.withdrawSessionEnded i).session j = s.session j) ∧
    (∀ j, (s.withdrawSessionEnded i).ns j = s.ns j) ∧
    (∀ j, (s.withdrawSessionEnded i).chain j = s.chain j) := by
  refine ⟨fun j => State.entry_congr (by simp) j,
    fun j => State.claim_congr (by simp) j,
    fun j => State.session_congr (by simp) j,
    fun j => State.ns_congr (by simp) j,
    fun j => State.chain_congr (by simp) j⟩

@[simp] theorem State.countNotice_fields (s : State) (i : SlotIx) :
    (s.countNotice i).pending = s.pending ∧
    (s.countNotice i).entries = s.entries ∧
    (s.countNotice i).chains = s.chains ∧
    (s.countNotice i).tokenCounter = s.tokenCounter ∧
    (s.countNotice i).tokenLoaded = s.tokenLoaded ∧
    (s.countNotice i).freeEntryCount = s.freeEntryCount ∧
    (s.countNotice i).arbiterLast = s.arbiterLast ∧
    (s.countNotice i).sweepLast = s.sweepLast ∧
    (s.countNotice i).claims = s.claims ∧
    (s.countNotice i).freeList = s.freeList ∧
    (s.countNotice i).freeClaimCount = s.freeClaimCount ∧
    (s.countNotice i).namespaces = s.namespaces ∧
    (s.countNotice i).divider = s.divider ∧
    (s.countNotice i).time = s.time ∧
    (s.countNotice i).deadlines = s.deadlines ∧
    (s.countNotice i).expiries = s.expiries ∧
    (s.countNotice i).lines = s.lines ∧
    (s.countNotice i).service = s.service ∧
    (s.countNotice i).mailbox = s.mailbox ∧
    (s.countNotice i).commandCode = s.commandCode ∧
    (s.countNotice i).longCommand = s.longCommand ∧
    (s.countNotice i).resultCode = s.resultCode ∧
    (s.countNotice i).params = s.params ∧
    (s.countNotice i).result = s.result ∧
    (s.countNotice i).spiWrite = s.spiWrite ∧
    (s.countNotice i).leaseMin = s.leaseMin ∧
    (s.countNotice i).leaseMax = s.leaseMax ∧
    (s.countNotice i).poolThreshold = s.poolThreshold ∧
    (s.countNotice i).clearSweep = s.clearSweep ∧
    (s.countNotice i).clearSessions = s.clearSessions ∧
    (s.countNotice i).clearClaims = s.clearClaims ∧
    (s.countNotice i).clearEntries = s.clearEntries ∧
    (s.countNotice i).deviceCauses = s.deviceCauses ∧
    (s.countNotice i).deviceMask = s.deviceMask ∧
    (s.countNotice i).counters = s.counters := by
  simp [State.countNotice]

@[simp] theorem State.countNotice_reads (s : State) (i : SlotIx) :
    (∀ j, (s.countNotice i).entry j = s.entry j) ∧
    (∀ j, (s.countNotice i).claim j = s.claim j) ∧
    (∀ j, (s.countNotice i).ns j = s.ns j) ∧
    (∀ j, (s.countNotice i).line j = s.line j) ∧
    (∀ j, (s.countNotice i).chain j = s.chain j) := by
  refine ⟨fun j => State.entry_congr (by simp) j,
    fun j => State.claim_congr (by simp) j,
    fun j => State.ns_congr (by simp) j,
    fun j => State.line_congr (by simp) j,
    fun j => State.chain_congr (by simp) j⟩

@[simp] theorem State.sendNotice_fields (s : State) (l : LineIx) (frame : List Byte) :
    (s.sendNotice l frame).pending = s.pending ∧
    (s.sendNotice l frame).entries = s.entries ∧
    (s.sendNotice l frame).chains = s.chains ∧
    (s.sendNotice l frame).tokenCounter = s.tokenCounter ∧
    (s.sendNotice l frame).tokenLoaded = s.tokenLoaded ∧
    (s.sendNotice l frame).freeEntryCount = s.freeEntryCount ∧
    (s.sendNotice l frame).arbiterLast = s.arbiterLast ∧
    (s.sendNotice l frame).sweepLast = s.sweepLast ∧
    (s.sendNotice l frame).claims = s.claims ∧
    (s.sendNotice l frame).freeList = s.freeList ∧
    (s.sendNotice l frame).freeClaimCount = s.freeClaimCount ∧
    (s.sendNotice l frame).sessions = s.sessions ∧
    (s.sendNotice l frame).namespaces = s.namespaces ∧
    (s.sendNotice l frame).divider = s.divider ∧
    (s.sendNotice l frame).time = s.time ∧
    (s.sendNotice l frame).deadlines = s.deadlines ∧
    (s.sendNotice l frame).expiries = s.expiries ∧
    (s.sendNotice l frame).service = s.service ∧
    (s.sendNotice l frame).mailbox = s.mailbox ∧
    (s.sendNotice l frame).commandCode = s.commandCode ∧
    (s.sendNotice l frame).longCommand = s.longCommand ∧
    (s.sendNotice l frame).resultCode = s.resultCode ∧
    (s.sendNotice l frame).params = s.params ∧
    (s.sendNotice l frame).result = s.result ∧
    (s.sendNotice l frame).spiWrite = s.spiWrite ∧
    (s.sendNotice l frame).leaseMin = s.leaseMin ∧
    (s.sendNotice l frame).leaseMax = s.leaseMax ∧
    (s.sendNotice l frame).poolThreshold = s.poolThreshold ∧
    (s.sendNotice l frame).clearSweep = s.clearSweep ∧
    (s.sendNotice l frame).clearSessions = s.clearSessions ∧
    (s.sendNotice l frame).clearClaims = s.clearClaims ∧
    (s.sendNotice l frame).clearEntries = s.clearEntries ∧
    (s.sendNotice l frame).deviceCauses = s.deviceCauses ∧
    (s.sendNotice l frame).deviceMask = s.deviceMask ∧
    (s.sendNotice l frame).counters = s.counters := by
  simp [State.sendNotice]

@[simp] theorem State.sendNotice_reads (s : State) (l : LineIx) (frame : List Byte) :
    (∀ j, (s.sendNotice l frame).entry j = s.entry j) ∧
    (∀ j, (s.sendNotice l frame).claim j = s.claim j) ∧
    (∀ j, (s.sendNotice l frame).session j = s.session j) ∧
    (∀ j, (s.sendNotice l frame).ns j = s.ns j) ∧
    (∀ j, (s.sendNotice l frame).chain j = s.chain j) := by
  refine ⟨fun j => State.entry_congr (by simp) j,
    fun j => State.claim_congr (by simp) j,
    fun j => State.session_congr (by simp) j,
    fun j => State.ns_congr (by simp) j,
    fun j => State.chain_congr (by simp) j⟩

end Sys2Proof.Machine
end

