-- ==== Sys2Proof/Laws/TableFrame.lean ====
section
/-!
SUPPORT. What every operation on claims and lock entries keeps, said once (`TableStep`) and composed: the
records outside the lock table and the claim pool change in the named fields only.
-/

namespace Sys2Proof.Machine

/-- `t` follows `s` by operations on claims, entries, tokens, notices and waits. -/
structure TableStep (s t : State) : Prop where
  host : HostSideSame s t
  arbiter : t.arbiterLast = s.arbiterLast
  namespaces : ∀ n, t.ns n = { s.ns n with state := (t.ns n).state, occupied := (t.ns n).occupied }
  lines : ∀ l, t.line l = { s.line l with notices := (t.line l).notices }
  sessions : ∀ i, t.session i = { s.session i with
    heldCount := (t.session i).heldCount, waitingCount := (t.session i).waitingCount,
    claimList := (t.session i).claimList }
  causes : ∀ k, s.deviceCauses.getLsbD k = true → t.deviceCauses.getLsbD k = true
  tokens : s.tokenCounter ≤ t.tokenCounter
  times : ∀ d ∈ t.deadlines, d ∈ s.deadlines ∨ d.time ≤ Config.maxTime
  leases : ∀ d ∈ t.deadlines, d ∈ s.deadlines ∨ ∃ c u, d.ref = .wait c u
  ordered : s.deadlines.Pairwise (fun a b => a.time ≤ b.time) →
    t.deadlines.Pairwise (fun a b => a.time ≤ b.time)

namespace TableStep

theorem refl (s : State) : TableStep s s where
  host := rfl
  arbiter := rfl
  namespaces _ := rfl
  lines _ := rfl
  sessions _ := rfl
  causes _ h := h
  tokens := le_refl _
  times _ h := .inl h
  leases _ h := .inl h
  ordered h := h

theorem trans {s t u : State} (h : TableStep s t) (g : TableStep t u) : TableStep s u where
  host := by
    have h1 : t = _ := h.host
    have g1 : u = _ := g.host
    show u = _
    rw [g1, h1]
  arbiter := g.arbiter.trans h.arbiter
  namespaces n := by rw [g.namespaces n, h.namespaces n]
  lines l := by rw [g.lines l, h.lines l]
  sessions i := by rw [g.sessions i, h.sessions i]
  causes k hk := g.causes k (h.causes k hk)
  tokens := le_trans h.tokens g.tokens
  times d hd := (g.times d hd).elim (h.times d) .inr
  leases d hd := (g.leases d hd).elim (h.leases d) .inr
  ordered o := g.ordered (h.ordered o)

/-! ### Primitive updates -/

theorem updEntry (s : State) (e : EntryIx) (f : Entry → Entry) : TableStep s (s.updEntry e f) :=
  { refl s with host := rfl }

theorem updClaim (s : State) (c : ClaimIx) (f : Claim → Claim) : TableStep s (s.updClaim c f) :=
  { refl s with host := rfl }

theorem updChain (s : State) (b : BucketIx) (f : List EntryIx → List EntryIx) :
    TableStep s (s.updChain b f) := { refl s with host := rfl }

theorem updSession (s : State) (i : SlotIx) (f : Session → Session)
    (hf : ∀ x, f x = { x with heldCount := (f x).heldCount, waitingCount := (f x).waitingCount,
                              claimList := (f x).claimList }) : TableStep s (s.updSession i f) :=
  { refl s with
    host := rfl
    sessions := fun j => by
      rw [State.updSession_session]
      split
      · rename_i h; subst h; exact hf _
      · rfl }

theorem updLine (s : State) (l : LineIx) (f : Line → Line)
    (hf : ∀ x, f x = { x with notices := (f x).notices }) : TableStep s (s.updLine l f) :=
  { refl s with
    host := rfl
    lines := fun j => by
      rw [State.updLine_line]
      split
      · rename_i h; subst h; exact hf _
      · rfl }

theorem updNs (s : State) (n : NsIx) (f : Namespace → Namespace)
    (hf : ∀ x, f x = { x with state := (f x).state, occupied := (f x).occupied }) :
    TableStep s (s.updNs n f) :=
  { refl s with
    host := rfl
    namespaces := fun j => by
      rw [State.updNs_ns]
      split
      · rename_i h; subst h; exact hf _
      · rfl }

theorem raise (s : State) (k : DeviceCause) : TableStep s (s.raise k) :=
  { refl s with host := rfl, causes := fun j hj => by simp [hj] }

theorem countGrant (s : State) : TableStep s s.countGrant := { refl s with host := rfl }
theorem countRefusal (s : State) : TableStep s s.countRefusal := { refl s with host := rfl }
theorem countLeaseExpiry (s : State) : TableStep s s.countLeaseExpiry := { refl s with host := rfl }
theorem countWaitExpiry (s : State) : TableStep s s.countWaitExpiry := { refl s with host := rfl }
theorem countRevoke (s : State) : TableStep s s.countRevoke := { refl s with host := rfl }

theorem dropWait (s : State) (c : ClaimIx) : TableStep s (s.dropWait c) :=
  { refl s with
    host := rfl
    times := fun _ hd => .inl (List.mem_of_mem_filter hd)
    leases := fun _ hd => .inl (List.mem_of_mem_filter hd)
    ordered := fun o => o.filter _ }

theorem insertWait (s : State) (c : ClaimIx) (u : BitVec 16) (t : Nat) (ht : t ≤ Config.maxTime) :
    TableStep s (s.insertDeadline ⟨.wait c u, t⟩) :=
  { refl s with
    host := rfl
    times := fun d hd => by
      rcases mem_insertDeadline.1 hd with rfl | h
      · exact .inr ht
      · exact .inl h
    leases := fun d hd => by
      rcases mem_insertDeadline.1 hd with rfl | h
      · exact .inr ⟨_, _, rfl⟩
      · exact .inl h
    ordered := fun o => insertDeadline_ordered o }

theorem setTokens (s : State) (n : Nat) (h : s.tokenCounter ≤ n) :
    TableStep s { s with tokenCounter := n } := { refl s with host := rfl, tokens := h }

theorem setFree (s : State) (free : List ClaimIx) (n : Nat) :
    TableStep s { s with freeList := free, freeClaimCount := n } := { refl s with host := rfl }

theorem setFreeEntries (s : State) (n : Nat) : TableStep s { s with freeEntryCount := n } :=
  { refl s with host := rfl }

theorem ite {s a b : State} {p : Prop} [Decidable p] (ha : p → TableStep s a)
    (hb : ¬ p → TableStep s b) : TableStep s (if p then a else b) := by
  split
  · exact ha ‹_›
  · exact hb ‹_›

theorem foldl {α : Type} (f : State → α → State) (hf : ∀ s a, TableStep s (f s a)) (as : List α)
    (s : State) : TableStep s (as.foldl f s) := by
  induction as generalizing s with
  | nil => exact refl s
  | cons a as ih => exact (hf s a).trans (ih _)

/-! ### Waits, notices and claims -/

theorem startWait (s : State) (c : ClaimIx) (w : Nat) : TableStep s (s.startWait c w) := by
  unfold State.startWait
  exact ite (fun _ => refl s)
    (fun _ => (updClaim s c _).trans (insertWait _ _ _ _ (deadlineAfter_le _ _)))

theorem endWait (s : State) (c : ClaimIx) : TableStep s (s.endWait c) :=
  (dropWait s c).trans (updClaim _ _ _)

theorem raiseNotice (s : State) (c : ClaimIx) (k : NoticeKind) : TableStep s (s.raiseNotice c k) := by
  unfold State.raiseNotice
  split
  · exact (updClaim s _ _).trans (updLine _ _ _ (fun _ => rfl))
  · exact updClaim s _ _

theorem withdrawNotice (s : State) (c : ClaimIx) : TableStep s (s.withdrawNotice c) := by
  unfold State.withdrawNotice
  split
  · exact refl s
  · exact (updLine s _ _ (fun _ => rfl)).trans (updClaim _ _ _)

theorem unlinkClaim (s : State) (c : ClaimIx) : TableStep s (s.unlinkClaim c) := by
  unfold State.unlinkClaim
  split
  · exact (updEntry s _ _).trans (updSession _ _ _ (fun _ => rfl))
  · exact (updEntry s _ _).trans (updSession _ _ _ (fun _ => rfl))
  · exact refl s
  · exact refl s

theorem freeClaim (s : State) (c : ClaimIx) : TableStep s (s.freeClaim c) := by
  have h := (((((unlinkClaim s c).trans (endWait _ c)).trans (withdrawNotice _ c)).trans
    (updSession _ (s.claim c).session
      (fun x => { x with claimList := x.claimList.filter (fun d => d != c) }) (fun _ => rfl))).trans
    (updClaim _ c (fun x => { Claim.reset with useCount := x.useCount })))
  exact h.trans (setFree _ _ _)

theorem takeClaim (s : State) (c : ClaimIx) (w : Bool) (m : Mode) (e : EntryIx) (k : Key)
    (i : SlotIx) : TableStep s (s.takeClaim c w m e k i) := by
  unfold State.takeClaim
  have h := ((setFree s s.freeList.tail (s.freeClaimCount - 1)).trans (updClaim _ c (fun x =>
      { state := if w then .waiting else .held, mode := m, entry := e, key := k,
        session := i, token := 0, waitDeadline := none, upgrade := false, notice := none,
        useCount := x.useCount + 1 }))).trans (updSession _ i (fun x =>
      { x with claimList := x.claimList ++ [c],
               heldCount := if w then x.heldCount else x.heldCount + 1,
               waitingCount := if w then x.waitingCount + 1 else x.waitingCount }) (fun _ => rfl))
  exact ite (fun _ => h.trans (raise _ _)) (fun _ => h)

theorem issueToken (s : State) (c : ClaimIx) (e : EntryIx) : TableStep s (s.issueToken c e) := by
  unfold State.issueToken
  have h := ((updClaim s c (fun x => { x with token := s.tokenCounter })).trans
    (updEntry _ e (fun x => { x with latestToken := s.tokenCounter }))).trans
    (setTokens _ (s.tokenCounter + 1) (Nat.le_succ _))
  exact ite (fun _ => h.trans (raise _ _)) (fun _ => h)

theorem dropClaim (s : State) (c : ClaimIx) (k : NoticeKind) : TableStep s (s.dropClaim c k) :=
  ite (fun _ => (((unlinkClaim s c).trans (endWait _ c)).trans (updClaim _ c _)).trans
    (raiseNotice _ c k)) (fun _ => freeClaim s c)

theorem detachClaim (s : State) (c : ClaimIx) (k : NoticeKind) : TableStep s (s.detachClaim c k) :=
  (((unlinkClaim s c).trans (endWait _ c)).trans (updClaim _ c _)).trans (raiseNotice _ c k)

theorem revokeClaim (s : State) (c : ClaimIx) : TableStep s (s.revokeClaim c) :=
  (countRevoke s).trans (dropClaim _ _ _)

theorem revokeClaims (s : State) (cs : List ClaimIx) : TableStep s (s.revokeClaims cs) :=
  foldl _ revokeClaim cs s

/-! ### Entries -/

theorem completeDrain (s : State) (n : NsIx) : TableStep s (s.completeDrain n) :=
  ite (fun _ => (updNs s n _ (fun _ => rfl)).trans (raise _ _)) (fun _ => refl s)

theorem createEntry (s : State) (e : EntryIx) (k : Key) (m : Mode) (c : ClaimIx) :
    TableStep s (s.createEntry e k m c) :=
  (((updEntry s e _).trans (updChain _ _ _)).trans (updNs _ k.ns _ (fun _ => rfl))).trans
    (setFreeEntries _ _)

theorem retireEntry (s : State) (e : EntryIx) : TableStep s (s.retireEntry e) :=
  ((((updChain s _ _).trans (updEntry _ e _)).trans
    (updNs _ (s.entry e).key.ns (fun x => { x with occupied := x.occupied - 1 })
      (fun _ => rfl))).trans (setFreeEntries _ _)).trans (completeDrain _ _)

theorem grantNew (s : State) (i : SlotIx) (k : Key) (m : Mode) (e : EntryIx) (c : ClaimIx) :
    TableStep s (s.grantNew i k m e c) :=
  (((takeClaim s c _ m e k i).trans (createEntry _ e k m c)).trans (issueToken _ c e)).trans
    (countGrant _)

theorem grantJoin (s : State) (i : SlotIx) (k : Key) (e : EntryIx) (c : ClaimIx) :
    TableStep s (s.grantJoin i k e c) :=
  (((takeClaim s c _ .shared e k i).trans (updEntry _ e _)).trans (issueToken _ c e)).trans
    (countGrant _)

theorem queueClaim (s : State) (i : SlotIx) (k : Key) (m : Mode) (w : Nat) (e : EntryIx)
    (c : ClaimIx) : TableStep s (s.queueClaim i k m w e c) :=
  ((takeClaim s c _ m e k i).trans (updEntry _ e _)).trans (startWait _ c w)

theorem clearUpgrade (s : State) (e : EntryIx) (c : ClaimIx) : TableStep s (s.clearUpgrade e c) :=
  ((updClaim s c _).trans (endWait _ c)).trans (updEntry _ e _)

theorem upgradeClaim (s : State) (e : EntryIx) (c : ClaimIx) : TableStep s (s.upgradeClaim e c) := by
  unfold State.upgradeClaim
  refine TableStep.trans (t := if (s.entry e).upgrade = some c then s.clearUpgrade e c else s)
    (ite (fun _ => clearUpgrade s e c) (fun _ => refl s)) ?_
  exact (((updClaim _ c _).trans (updEntry _ e _)).trans (issueToken _ c e)).trans (countGrant _)

theorem makePending (s : State) (e : EntryIx) (c : ClaimIx) (w : Nat) :
    TableStep s (s.makePending e c w) :=
  ((updClaim s c _).trans (updEntry _ e _)).trans (startWait _ c w)

theorem detachWaiters (s : State) (e : EntryIx) : TableStep s (s.detachWaiters e) :=
  (foldl _ (fun s c => dropClaim s c .waitExpired) _ s).trans (retireEntry _ e)

/-! ### The grant pass -/

theorem grantWaiting (s : State) (e : EntryIx) (c : ClaimIx) : TableStep s (s.grantWaiting e c) := by
  have h := ((((endWait s c).trans (updEntry _ e (fun x =>
      { x with waiters := x.waiters.tail,
               mode := if x.holders.isEmpty then ((s.endWait c).claim c).mode else x.mode,
               holders := x.holders ++ [c] }))).trans
    (updClaim _ c (fun x => { x with state := .held }))).trans (issueToken _ c e))
  exact ((h.trans (updSession _ _ (fun x =>
    { x with waitingCount := x.waitingCount - 1, heldCount := x.heldCount + 1 })
    (fun _ => rfl))).trans (raiseNotice _ c .granted)).trans (countGrant _)

theorem grantHeads (fuel : Nat) (s : State) (e : EntryIx) :
    TableStep s (State.grantHeads fuel s e) := by
  induction fuel generalizing s with
  | zero => exact refl s
  | succ fuel ih =>
    rw [State.grantHeads]
    split
    · exact refl s
    · refine ite (fun _ => (freeClaim s _).trans (ih _)) fun _ => ?_
      refine ite (fun _ => ?_) fun _ => refl s
      refine ite (fun _ => ?_) fun _ => raise s _
      exact ite (fun _ => grantWaiting s e _) fun _ => (grantWaiting s e _).trans (ih _)

theorem settleEntry (s : State) (e : EntryIx) : TableStep s (s.settleEntry e) :=
  ite (fun _ => ite (fun _ => retireEntry s e) fun _ => detachWaiters s e) fun _ => refl s

theorem clearEndingUpgrade (s : State) (e : EntryIx) : TableStep s (s.clearEndingUpgrade e) := by
  unfold State.clearEndingUpgrade
  split
  · exact ite (fun _ => clearUpgrade s e _) fun _ => refl s
  · exact refl s

theorem grantPass (s : State) (e : EntryIx) : TableStep s (s.grantPass e) := by
  refine (clearEndingUpgrade s e).trans ?_
  unfold State.grantPass
  generalize s.clearEndingUpgrade e = u
  dsimp only
  split
  · refine ite (fun _ => ite (fun _ => ?_) fun _ => raise u _) fun _ => refl u
    exact (upgradeClaim u e _).trans (raiseNotice _ _ _)
  · exact (grantHeads _ u e).trans (settleEntry _ e)

end TableStep

end Sys2Proof.Machine
end

