-- ==== Sys2Proof/Laws/Claims.lean ====
section
/-!
SUPPORT. What the operations on claim records do, part by part: which fields of the state they write
(`…_writes`), and what each touched record holds afterwards.
-/

namespace Sys2Proof.Machine

/-! ### Unlinking (R25 steps 1, 2 and 6) -/

/-- The entry of a claim after the claim has left it. -/
def entryWithout (st : ClaimState) (c : ClaimIx) (x : Entry) : Entry :=
  match st with
  | .held => { x with holders := x.holders.filter (fun d => d != c),
                      upgrade := if x.upgrade = some c then none else x.upgrade }
  | .waiting => { x with waiters := x.waiters.filter (fun d => d != c) }
  | .detached => x
  | .free => x

theorem State.unlinkClaim_entry (s : State) (c : ClaimIx) (e : EntryIx) :
    (s.unlinkClaim c).entry e = if (s.claim c).entry = e then
      entryWithout (s.claim c).state c (s.entry e) else s.entry e := by
  unfold State.unlinkClaim entryWithout
  by_cases he : (s.claim c).entry = e
  · subst he; cases h : (s.claim c).state <;> simp
  · cases h : (s.claim c).state <;> simp [State.updEntry_entry, he]

theorem State.unlinkClaim_session (s : State) (c : ClaimIx) (i : SlotIx) :
    (s.unlinkClaim c).session i = if (s.claim c).session = i then
      { s.session i with
        heldCount := if (s.claim c).state = .held then (s.session i).heldCount - 1
          else (s.session i).heldCount,
        waitingCount := if (s.claim c).state = .waiting then (s.session i).waitingCount - 1
          else (s.session i).waitingCount } else s.session i := by
  unfold State.unlinkClaim
  by_cases he : (s.claim c).session = i
  · subst he; cases h : (s.claim c).state <;> simp
  · cases h : (s.claim c).state <;> simp [State.updSession_session, he]

/-! ### Waits and notices -/

@[simp] theorem State.endWait_claim (s : State) (c d : ClaimIx) : (s.endWait c).claim d =
    if c = d then { s.claim c with waitDeadline := none } else s.claim d := by
  simp [State.endWait, State.updClaim_claim]

@[simp] theorem State.endWait_deadlines (s : State) (c : ClaimIx) : (s.endWait c).deadlines =
    s.deadlines.filter (fun d => !refersToWait c d.ref) := rfl

@[simp] theorem State.withdrawNotice_claim (s : State) (c d : ClaimIx) :
    (s.withdrawNotice c).claim d =
      if c = d then { s.claim c with notice := none } else s.claim d := by
  unfold State.withdrawNotice
  split
  · rename_i h
    split
    · rename_i hd; subst hd; rw [← h]
    · rfl
  · simp [State.updClaim_claim]

theorem State.withdrawNotice_line (s : State) (c : ClaimIx) (l : LineIx) :
    (s.withdrawNotice c).line l = if lineOf (s.claim c).session = l then
      { s.line l with notices := if (s.claim c).notice = none then (s.line l).notices
          else (s.line l).notices.filter (fun it => it != .claim c) } else s.line l := by
  unfold State.withdrawNotice
  split
  · rename_i h; simp [h]
  · rename_i h; simp [State.updLine_line, h, State.noticeLine]
    split
    · rename_i hl; subst hl; rfl
    · rfl

@[simp] theorem State.raiseNotice_claim (s : State) (c d : ClaimIx) (k : NoticeKind) :
    (s.raiseNotice c k).claim d = if c = d then
      { s.claim c with notice := some (match (s.claim c).notice with
        | none => k
        | some p => mergedNotice p k) } else s.claim d := by
  unfold State.raiseNotice
  cases h : (s.claim c).notice <;> simp [State.updClaim_claim]

theorem State.raiseNotice_line (s : State) (c : ClaimIx) (k : NoticeKind) (l : LineIx) :
    (s.raiseNotice c k).line l = if lineOf (s.claim c).session = l then
      { s.line l with notices := if (s.claim c).notice = none then (s.line l).notices ++ [.claim c]
          else (s.line l).notices } else s.line l := by
  unfold State.raiseNotice
  cases h : (s.claim c).notice
  · simp [State.updLine_line, State.noticeLine]
    split
    · rename_i hl; subst hl; rfl
    · rfl
  · simp

/-! ### Freeing and detaching (R25, R11, R44, R46) -/

/-- The parts of the state that freeing writes. -/
theorem State.freeClaim_writes (s : State) (c : ClaimIx) : s.freeClaim c =
    { s with
      claims := (s.freeClaim c).claims, entries := (s.freeClaim c).entries,
      sessions := (s.freeClaim c).sessions, lines := (s.freeClaim c).lines,
      deadlines := s.deadlines.filter (fun d => !refersToWait c d.ref),
      freeList := s.freeList ++ [c], freeClaimCount := s.freeClaimCount + 1 } := by
  apply State.eq_of_fields <;> simp
  all_goals simp [State.freeClaim]

@[simp] theorem State.freeClaim_claim (s : State) (c d : ClaimIx) : (s.freeClaim c).claim d =
    if c = d then { Claim.reset with useCount := (s.claim c).useCount } else s.claim d := by
  by_cases h : c = d <;> simp [State.freeClaim, State.updClaim_claim, h]

theorem State.freeClaim_entry (s : State) (c : ClaimIx) (e : EntryIx) :
    (s.freeClaim c).entry e = if (s.claim c).entry = e then
      entryWithout (s.claim c).state c (s.entry e) else s.entry e := by
  simp [State.freeClaim, State.unlinkClaim_entry]

theorem State.freeClaim_session (s : State) (c : ClaimIx) (i : SlotIx) :
    (s.freeClaim c).session i = if (s.claim c).session = i then
      { s.session i with
        claimList := (s.session i).claimList.filter (fun d => d != c),
        heldCount := if (s.claim c).state = .held then (s.session i).heldCount - 1
          else (s.session i).heldCount,
        waitingCount := if (s.claim c).state = .waiting then (s.session i).waitingCount - 1
          else (s.session i).waitingCount } else s.session i := by
  by_cases h : (s.claim c).session = i
  · subst h; simp [State.freeClaim, State.unlinkClaim_session]
  · simp [State.freeClaim, State.updSession_session, State.unlinkClaim_session, h]

theorem State.freeClaim_line (s : State) (c : ClaimIx) (l : LineIx) :
    (s.freeClaim c).line l = if lineOf (s.claim c).session = l then
      { s.line l with notices := if (s.claim c).notice = none then (s.line l).notices
          else (s.line l).notices.filter (fun it => it != .claim c) } else s.line l := by
  simp [State.freeClaim, State.withdrawNotice_line]

/-- The free count follows the free list (R24, R26). -/
theorem State.freeClaim_count {s : State} {c : ClaimIx} (h : FreeCountMatches s) :
    FreeCountMatches (s.freeClaim c) := by
  simpa [FreeCountMatches, State.freeClaim] using h

/-- The parts of the state that detaching writes. -/
theorem State.detachClaim_writes (s : State) (c : ClaimIx) (k : NoticeKind) : s.detachClaim c k =
    { s with
      claims := (s.detachClaim c k).claims, entries := (s.detachClaim c k).entries,
      sessions := (s.detachClaim c k).sessions, lines := (s.detachClaim c k).lines,
      deadlines := s.deadlines.filter (fun d => !refersToWait c d.ref) } := by
  apply State.eq_of_fields <;> simp
  all_goals simp [State.detachClaim]

@[simp] theorem State.detachClaim_claim (s : State) (c d : ClaimIx) (k : NoticeKind) :
    (s.detachClaim c k).claim d = if c = d then
      { s.claim c with
        state := .detached, upgrade := false, waitDeadline := none,
        notice := some (match (s.claim c).notice with
          | none => k
          | some p => mergedNotice p k) } else s.claim d := by
  by_cases h : c = d <;> simp [State.detachClaim, State.updClaim_claim, h]

theorem State.detachClaim_entry (s : State) (c : ClaimIx) (k : NoticeKind) (e : EntryIx) :
    (s.detachClaim c k).entry e = if (s.claim c).entry = e then
      entryWithout (s.claim c).state c (s.entry e) else s.entry e := by
  simp [State.detachClaim, State.unlinkClaim_entry]

theorem State.detachClaim_session (s : State) (c : ClaimIx) (k : NoticeKind) (i : SlotIx) :
    (s.detachClaim c k).session i = if (s.claim c).session = i then
      { s.session i with
        heldCount := if (s.claim c).state = .held then (s.session i).heldCount - 1
          else (s.session i).heldCount,
        waitingCount := if (s.claim c).state = .waiting then (s.session i).waitingCount - 1
          else (s.session i).waitingCount } else s.session i := by
  simp [State.detachClaim, State.unlinkClaim_session]

theorem State.detachClaim_line (s : State) (c : ClaimIx) (k : NoticeKind) (l : LineIx) :
    (s.detachClaim c k).line l = if lineOf (s.claim c).session = l then
      { s.line l with notices := if (s.claim c).notice = none then (s.line l).notices ++ [.claim c]
          else (s.line l).notices } else s.line l := by
  simp [State.detachClaim, State.raiseNotice_line]

/-! ### Taking a record and issuing a token (R24, R26, R56, R58) -/

/-- The parts of the state that taking a record writes. -/
theorem State.takeClaim_writes (s : State) (c : ClaimIx) (w : Bool) (m : Mode) (e : EntryIx)
    (k : Key) (i : SlotIx) : s.takeClaim c w m e k i =
      { s with
        claims := (s.takeClaim c w m e k i).claims, sessions := (s.takeClaim c w m e k i).sessions,
        freeList := s.freeList.tail, freeClaimCount := s.freeClaimCount - 1,
        deviceCauses := s.deviceCauses |||
          (if s.poolThreshold ≤ s.freeClaimCount ∧ s.freeClaimCount - 1 < s.poolThreshold then
            0x08#7 else 0#7) } := by
  by_cases h : s.poolThreshold ≤ s.freeClaimCount ∧ s.freeClaimCount - 1 < s.poolThreshold <;>
    (apply State.eq_of_fields <;> simp [h]) <;> simp [State.takeClaim, h, deviceCauseBit]

theorem State.takeClaim_claim (s : State) (c : ClaimIx) (w : Bool) (m : Mode) (e : EntryIx)
    (k : Key) (i : SlotIx) (d : ClaimIx) : (s.takeClaim c w m e k i).claim d =
      if c = d then
        { state := if w then .waiting else .held, mode := m, entry := e, key := k,
          session := i, token := 0, waitDeadline := none, upgrade := false, notice := none,
          useCount := (s.claim c).useCount + 1 } else s.claim d := by
  by_cases h : s.poolThreshold ≤ s.freeClaimCount ∧ s.freeClaimCount - 1 < s.poolThreshold <;>
    simp [State.takeClaim, h, State.updClaim_claim]

theorem State.takeClaim_session (s : State) (c : ClaimIx) (w : Bool) (m : Mode) (e : EntryIx)
    (k : Key) (i j : SlotIx) : (s.takeClaim c w m e k i).session j =
      if i = j then
        { s.session i with
          claimList := (s.session i).claimList ++ [c],
          heldCount := if w then (s.session i).heldCount else (s.session i).heldCount + 1,
          waitingCount := if w then (s.session i).waitingCount + 1
            else (s.session i).waitingCount } else s.session j := by
  by_cases h : s.poolThreshold ≤ s.freeClaimCount ∧ s.freeClaimCount - 1 < s.poolThreshold <;>
    simp [State.takeClaim, h, State.updSession_session]

/-- The parts of the state that issuing a token writes. -/
theorem State.issueToken_writes (s : State) (c : ClaimIx) (e : EntryIx) : s.issueToken c e =
    { s with
      claims := (s.issueToken c e).claims, entries := (s.issueToken c e).entries,
      tokenCounter := s.tokenCounter + 1,
      deviceCauses := s.deviceCauses |||
        (if s.tokenCounter + 1 = Config.tokensLowMark then 0x40#7 else 0#7) } := by
  by_cases h : s.tokenCounter + 1 = Config.tokensLowMark
  · have g : s.tokenCounter < Config.tokensLowMark ∧ Config.tokensLowMark ≤ s.tokenCounter + 1 := by
      omega
    apply State.eq_of_fields <;> simp only [State.issueToken_fields] <;>
      simp only [State.issueToken, if_pos g, if_pos h] <;> simp [deviceCauseBit]
  · have g : ¬ (s.tokenCounter < Config.tokensLowMark ∧
        Config.tokensLowMark ≤ s.tokenCounter + 1) := by omega
    apply State.eq_of_fields <;> simp only [State.issueToken_fields] <;>
      simp only [State.issueToken, if_neg g, if_neg h] <;> simp

@[simp] theorem State.issueToken_claim (s : State) (c : ClaimIx) (e : EntryIx) (d : ClaimIx) :
    (s.issueToken c e).claim d =
      if c = d then { s.claim c with token := s.tokenCounter } else s.claim d := by
  unfold State.issueToken; dsimp only
  split <;> simp [State.updClaim_claim]

@[simp] theorem State.issueToken_entry (s : State) (c : ClaimIx) (e f : EntryIx) :
    (s.issueToken c e).entry f =
      if e = f then { s.entry e with latestToken := s.tokenCounter } else s.entry f := by
  unfold State.issueToken; dsimp only
  split <;> simp [State.updEntry_entry]

end Sys2Proof.Machine
end

