-- ==== Sys2Proof/Laws/Entries.lean ====
section
/-!
SUPPORT. What the operations on lock entries do: creation and retirement (R8, R10), grants on request
(R33, R34), queueing (R36), upgrades (R61 to R65), revoking (R46), and the grant of a waiter (R37).
-/

namespace Sys2Proof.Machine

/-! ### Waits and pending upgrades -/

theorem State.startWait_claim (s : State) (c : ClaimIx) (w : Nat) (d : ClaimIx) :
    (s.startWait c w).claim d = if c = d then
      { s.claim c with
        waitDeadline := if w = 65535 then (s.claim c).waitDeadline
          else some (min (s.time + w) 1099511627775) } else s.claim d := by
  unfold State.startWait
  split
  · rename_i h
    by_cases hd : c = d
    · subst hd; simp
    · simp [hd]
  · rename_i h
    simp [State.updClaim_claim, deadlineAfter]

theorem State.startWait_deadlines (s : State) (c : ClaimIx) (w : Nat) :
    (s.startWait c w).deadlines = if w = 65535 then s.deadlines else
      Machine.insertDeadline ⟨.wait c (s.claim c).useCount, min (s.time + w) 1099511627775⟩ s.deadlines := by
  unfold State.startWait
  split <;> simp [deadlineAfter]

theorem State.clearUpgrade_claim (s : State) (e : EntryIx) (c d : ClaimIx) :
    (s.clearUpgrade e c).claim d = if c = d then
      { s.claim c with upgrade := false, waitDeadline := none } else s.claim d := by
  by_cases h : c = d <;> simp [State.clearUpgrade, State.updClaim_claim, h]

theorem State.clearUpgrade_entry (s : State) (e : EntryIx) (c : ClaimIx) (f : EntryIx) :
    (s.clearUpgrade e c).entry f = if e = f then { s.entry e with upgrade := none }
      else s.entry f := by
  simp [State.clearUpgrade, State.updEntry_entry]

@[simp] theorem State.clearUpgrade_deadlines (s : State) (e : EntryIx) (c : ClaimIx) :
    (s.clearUpgrade e c).deadlines = s.deadlines.filter (fun d => !refersToWait c d.ref) := by
  simp [State.clearUpgrade]

theorem State.makePending_claim (s : State) (e : EntryIx) (c : ClaimIx) (w : Nat) (d : ClaimIx) :
    (s.makePending e c w).claim d = if c = d then
      { s.claim c with
        upgrade := true,
        waitDeadline := if w = 65535 then (s.claim c).waitDeadline
          else some (min (s.time + w) 1099511627775) } else s.claim d := by
  by_cases h : c = d <;> simp [State.makePending, State.startWait_claim, State.updClaim_claim, h]

theorem State.makePending_entry (s : State) (e : EntryIx) (c : ClaimIx) (w : Nat) (f : EntryIx) :
    (s.makePending e c w).entry f = if e = f then { s.entry e with upgrade := some c }
      else s.entry f := by
  simp [State.makePending, State.updEntry_entry]

theorem State.makePending_deadlines (s : State) (e : EntryIx) (c : ClaimIx) (w : Nat) :
    (s.makePending e c w).deadlines = if w = 65535 then s.deadlines else
      Machine.insertDeadline ⟨.wait c (s.claim c).useCount, min (s.time + w) 1099511627775⟩ s.deadlines := by
  simp [State.makePending, State.startWait_deadlines]

/-! ### Entries -/

theorem State.createEntry_entry (s : State) (e : EntryIx) (k : Key) (m : Mode) (c : ClaimIx)
    (f : EntryIx) : (s.createEntry e k m c).entry f = if e = f then
      { occupied := true, key := k, mode := m, holders := [c], waiters := [], upgrade := none,
        latestToken := 0 } else s.entry f := by
  simp [State.createEntry, State.updEntry_entry]

theorem State.createEntry_chain (s : State) (e : EntryIx) (k : Key) (m : Mode) (c : ClaimIx)
    (b : BucketIx) : (s.createEntry e k m c).chain b = if bucketOf k = b then
      s.chain (bucketOf k) ++ [e] else s.chain b := by
  simp [State.createEntry, State.updChain_chain]

theorem State.createEntry_ns (s : State) (e : EntryIx) (k : Key) (m : Mode) (c : ClaimIx)
    (n : NsIx) : (s.createEntry e k m c).ns n = if k.ns = n then
      { s.ns k.ns with occupied := (s.ns k.ns).occupied + 1 } else s.ns n := by
  simp [State.createEntry, State.updNs_ns]

@[simp] theorem State.createEntry_freeEntryCount (s : State) (e : EntryIx) (k : Key) (m : Mode)
    (c : ClaimIx) : (s.createEntry e k m c).freeEntryCount = s.freeEntryCount - 1 := by
  simp [State.createEntry]

/-- A drain completes by changing the namespace's state alone, and raising NS_DRAINED (R108). -/
theorem State.completeDrain_ns (s : State) (n m : NsIx) : (s.completeDrain n).ns m = if n = m then
      { s.ns n with state :=
          if (s.ns n).state = .draining ∧ (s.ns n).revokeSweep = false ∧ (s.ns n).occupied = 0 then
            .disabled else (s.ns n).state } else s.ns m := by
  unfold State.completeDrain
  split
  · rename_i h; simp [h, State.updNs_ns]
  · split
    · rename_i hm; subst hm; rfl
    · rfl

theorem State.completeDrain_causes (s : State) (n : NsIx) : (s.completeDrain n).deviceCauses =
      s.deviceCauses ||| (if (s.ns n).state = .draining ∧ (s.ns n).revokeSweep = false ∧
        (s.ns n).occupied = 0 then 0x20#7 else 0#7) := by
  unfold State.completeDrain
  split
  · rfl
  · simp

theorem State.retireEntry_entry (s : State) (e f : EntryIx) : (s.retireEntry e).entry f =
    if e = f then Entry.reset else s.entry f := by
  simp [State.retireEntry, State.updEntry_entry]

theorem State.retireEntry_chain (s : State) (e : EntryIx) (b : BucketIx) :
    (s.retireEntry e).chain b = if bucketOf (s.entry e).key = b then
      (s.chain (bucketOf (s.entry e).key)).filter (fun d => d != e) else s.chain b := by
  simp [State.retireEntry, State.updChain_chain]

theorem State.retireEntry_ns (s : State) (e : EntryIx) (n : NsIx) :
    (s.retireEntry e).ns n = if (s.entry e).key.ns = n then
      { s.ns n with
        occupied := (s.ns n).occupied - 1,
        state := if (s.ns n).state = .draining ∧ (s.ns n).revokeSweep = false ∧
            (s.ns n).occupied - 1 = 0 then .disabled else (s.ns n).state } else s.ns n := by
  by_cases h : (s.entry e).key.ns = n
  · subst h; simp [State.retireEntry, State.completeDrain_ns]
  · simp [State.retireEntry, State.completeDrain_ns, State.updNs_ns, h]

@[simp] theorem State.retireEntry_freeEntryCount (s : State) (e : EntryIx) :
    (s.retireEntry e).freeEntryCount = s.freeEntryCount + 1 := by
  simp [State.retireEntry]

/-! ### Grants on request (R33, R34) -/

theorem causes_reassoc (a b c : BitVec 7) : a ||| b ||| c = a ||| (b ||| c) := BitVec.or_assoc a b c

/-- Granting an absent key creates its entry with one holder. -/
theorem State.grantNew_spec (s : State) (i : SlotIx) (k : Key) (m : Mode) (e : EntryIx)
    (c : ClaimIx) : LockCreated s (s.grantNew i k m e c) i k m e c := by
  have hw := State.takeClaim_writes s c false m e k i
  refine ⟨⟨?_, ?_, ?_, ?_, ?_⟩, ?_, ?_, ?_, ?_, ?_, ?_, ?_⟩
  · have ht := State.issueToken_writes ((s.takeClaim c false m e k i).createEntry e k m c) c e
    apply State.eq_of_fields <;> simp <;> simp only [State.grantNew, State.countGrant]
    all_goals rw [ht]
    · simp
    · simp; rw [hw]
    · simp; rw [hw]
    · simp only [State.createEntry_fields, State.takeClaim_fields, causesAfterGrant]; rw [hw]
    · simp
  · simp [State.grantNew, State.takeClaim_claim, grantedRecord]
  · intro d hd
    have hd' : ¬ c = d := fun h => hd (by simp [h])
    simp [State.grantNew, State.takeClaim_claim, hd']
  · simp [State.grantNew, State.takeClaim_session]
  · intro j hj
    have hj' : ¬ i = j := fun h => hj (by simp [h])
    simp [State.grantNew, State.takeClaim_session, hj']
  · simp [State.grantNew, State.createEntry_entry]
  · intro f hf
    have hf' : ¬ e = f := fun h => hf (by simp [h])
    simp [State.grantNew, State.createEntry_entry, hf']
  · simp [State.grantNew, State.createEntry_chain]
  · intro b hb
    have hb' : ¬ bucketOf k = b := fun h => hb (by simp [h])
    simp [State.grantNew, State.createEntry_chain, hb']
  · simp [State.grantNew, State.createEntry_ns]
  · intro n hn
    have hn' : ¬ k.ns = n := fun h => hn (by simp [h])
    simp [State.grantNew, State.createEntry_ns, hn']
  · simp [State.grantNew]

/-- Granting a further sharer adds it at the tail of the holders. -/
theorem State.grantJoin_spec (s : State) (i : SlotIx) (k : Key) (e : EntryIx) (c : ClaimIx) :
    LockJoined s (s.grantJoin i k e c) i k e c := by
  have hw := State.takeClaim_writes s c false .shared e k i
  refine ⟨⟨?_, ?_, ?_, ?_, ?_⟩, ?_, ?_, ?_, ?_, ?_⟩
  · have ht := State.issueToken_writes ((s.takeClaim c false .shared e k i).updEntry e
      (fun x => { x with holders := x.holders ++ [c] })) c e
    apply State.eq_of_fields <;> simp <;> simp only [State.grantJoin, State.countGrant]
    all_goals rw [ht]
    · simp
    · simp; rw [hw]
    · simp; rw [hw]
    · simp only [State.updEntry_deviceCauses, State.updEntry_tokenCounter, State.takeClaim_fields,
        causesAfterGrant]; rw [hw]
    · simp
  · simp [State.grantJoin, State.takeClaim_claim, grantedRecord]
  · intro d hd
    have hd' : ¬ c = d := fun h => hd (by simp [h])
    simp [State.grantJoin, State.takeClaim_claim, hd']
  · simp [State.grantJoin, State.takeClaim_session]
  · intro j hj
    have hj' : ¬ i = j := fun h => hj (by simp [h])
    simp [State.grantJoin, State.takeClaim_session, hj']
  · simp [State.grantJoin]
  · intro f hf
    have hf' : ¬ e = f := fun h => hf (by simp [h])
    simp [State.grantJoin, State.updEntry_entry, hf']
  · simp
  · simp
  · simp

/-! ### Queueing (R36) -/

theorem State.queueClaim_claim (s : State) (i : SlotIx) (k : Key) (m : Mode) (w : Nat) (e : EntryIx)
    (c d : ClaimIx) : (s.queueClaim i k m w e c).claim d = if c = d then
      { state := .waiting, mode := m, entry := e, key := k, session := i, token := 0,
        waitDeadline := if w = 65535 then none else some (min (s.time + w) 1099511627775),
        upgrade := false, notice := none, useCount := (s.claim c).useCount + 1 }
      else s.claim d := by
  by_cases h : c = d <;>
    simp [State.queueClaim, State.startWait_claim, State.takeClaim_claim, h]

theorem State.queueClaim_entry (s : State) (i : SlotIx) (k : Key) (m : Mode) (w : Nat) (e : EntryIx)
    (c : ClaimIx) (f : EntryIx) : (s.queueClaim i k m w e c).entry f = if e = f then
      { s.entry e with waiters := (s.entry e).waiters ++ [c] } else s.entry f := by
  simp [State.queueClaim, State.updEntry_entry]

theorem State.queueClaim_session (s : State) (i : SlotIx) (k : Key) (m : Mode) (w : Nat)
    (e : EntryIx) (c : ClaimIx) (j : SlotIx) : (s.queueClaim i k m w e c).session j = if i = j then
      { s.session i with claimList := (s.session i).claimList ++ [c],
                         waitingCount := (s.session i).waitingCount + 1 } else s.session j := by
  simp [State.queueClaim, State.takeClaim_session]

theorem State.queueClaim_deadlines (s : State) (i : SlotIx) (k : Key) (m : Mode) (w : Nat)
    (e : EntryIx) (c : ClaimIx) : (s.queueClaim i k m w e c).deadlines =
      if w = 65535 then s.deadlines else
        Machine.insertDeadline ⟨.wait c ((s.claim c).useCount + 1), min (s.time + w) 1099511627775⟩
          s.deadlines := by
  simp [State.queueClaim, State.startWait_deadlines, State.takeClaim_claim]

/-! ### Revoking (R46) -/

theorem State.dropClaim_claim (s : State) (c : ClaimIx) (k : NoticeKind) (d : ClaimIx) :
    (s.dropClaim c k).claim d = if c = d then
      (if (s.session (s.claim c).session).state = .opened then
        { s.claim c with
          state := .detached, upgrade := false, waitDeadline := none,
          notice := some (match (s.claim c).notice with
            | none => k
            | some p => mergedNotice p k) }
      else { Claim.reset with useCount := (s.claim c).useCount }) else s.claim d := by
  unfold State.dropClaim
  by_cases h : c = d
  · subst h
    split
    · simp only [State.detachClaim_claim, if_true] <;> rfl
    · simp
  · split <;> simp [h]

theorem mergedNotice_revoked (p : NoticeKind) : mergedNotice p .revoked = .revoked := by
  cases p <;> rfl

end Sys2Proof.Machine
end

