-- ==== Sys2Proof/Laws/Requests.lean ====
section
/-!
SUPPORT. The request path: what a request step does with the frame offered, and what its answer leaves;
and the command path: what a command step does with the command offered.
-/

namespace Sys2Proof.Machine

/-! ### Taking -/

/-- A request step whose frame is offered serves it if the row's kind is the frame's. -/
theorem State.requestStep_offered {s : State} {l : LineIx} {r : Request} (h : RequestOffered s l r)
    (isKind : Byte → Bool) (serve : State → SlotIx → Request → State) :
    s.requestStep l isKind serve =
      if isKind r.kind then serve (s.takeFrame l r) (slotOf l r.station) r else s := by
  unfold State.requestStep State.offeredFrame
  rw [if_pos ⟨h.1, h.2.1⟩, h.2.2]

/-- A command step whose command is offered runs it if the row is the command's. -/
theorem State.commandStep_offered {s : State} (h : s.arbiterChoice = some srcManagement)
    (mine : Nat → Bool) (run : State → State) :
    s.commandStep mine run = if mine s.commandCode.toNat then run (taken s) else s := by
  unfold State.commandStep State.offeredCode
  rw [if_pos h]
  rfl

/-- An expiry that is offered. -/
theorem State.offeredExpiry_eq {s : State} {d : Deadline} (h : ExpiryOffered s d) :
    s.offeredExpiry = some d := by
  unfold State.offeredExpiry
  rw [if_pos h.1, h.2]

theorem State.takeExpiry_eq (s : State) : s.takeExpiry = expiryTaken s := rfl

theorem State.servedSweep_eq (s : State) (p : SweepIx) : s.servedSweep p = swept s p := rfl

theorem State.sweepTurn_of_offered {s : State} {p : SweepIx} (h : SweepOffered s p) :
    s.sweepTurn p = true := State.sweepTurn_iff.2 h

theorem State.takeFrame_line (s : State) (l : LineIx) (r : Request) (m : LineIx) :
    (s.takeFrame l r).line m = if l = m then
      { s.line l with requests := (s.line l).requests.tail,
                      replies := (s.line l).replies ++ [slotFor r none] } else s.line m := by
  simp [State.takeFrame, State.updLine_line, slotFor]

/-- Taking a frame touches its line and the arbiter's pointer only. -/
theorem State.takeFrame_spec (s : State) (l : LineIx) (r : Request) :
    FrameTaken s (s.takeFrame l r) l r := by
  refine ⟨?_, ?_, ?_⟩
  · apply State.eq_of_fields <;> simp [State.takeFrame]
  · simp [State.takeFrame_line]
  · intro m hm
    have : ¬ l = m := fun h => hm (by simp [h])
    simp [State.takeFrame_line, this]

/-! ### The lease restart (R75) -/

theorem State.setLease_session (s : State) (i j : SlotIx) : (s.setLease i).session j =
    if i = j then { s.session i with leaseDeadline := some (leaseEnd s i) } else s.session j := by
  simp [State.setLease, State.updSession_session, leaseEnd, deadlineAfter]

theorem State.setLease_deadlines (s : State) (i : SlotIx) : (s.setLease i).deadlines =
    Machine.insertDeadline ⟨.lease i, leaseEnd s i⟩
      (s.deadlines.filter (fun d => !refersToLease i d.ref)) := by
  simp [State.setLease, leaseEnd, deadlineAfter]

/-- Taking a frame and restarting the lease. -/
theorem State.begun_spec (s : State) (l : LineIx) (r : Request) :
    RequestBegun s ((s.takeFrame l r).setLease (slotOf l r.station)) l r := by
  refine ⟨?_, ?_, ?_, ?_, ?_⟩
  · apply State.eq_of_fields <;> simp [State.setLease_deadlines, leaseEnd]
    simp [State.takeFrame]
  · simp [State.takeFrame_line]
  · intro m hm
    have : ¬ l = m := fun h => hm (by simp [h])
    simp [State.takeFrame_line, this]
  · simp [State.setLease_session, leaseEnd]
  · intro j hj
    have : ¬ slotOf l r.station = j := fun h => hj (by simp [h])
    simp [State.setLease_session, this]

/-! ### Answers (R76, R130, R135, R151) -/

theorem State.fillReply_line (s : State) (i : SlotIx) (reply : Reply) (m : LineIx) :
    (s.fillReply i reply).line m = if lineOf i = m then
      { s.line m with
        replies := fillReserved (stationOf i) (contentOf s i reply) (s.line m).replies }
      else s.line m := by
  simp only [State.fillReply, State.updLine_line]
  split
  · rename_i h; subst h; rfl
  · rfl

/-- A reply placed in the slot reserved when its frame was taken. -/
theorem State.fillReply_spec {s v : State} {l : LineIx} {r : Request}
    (h : (v.line l).replies = (s.line l).replies ++ [slotFor r none]) (reply : Reply) :
    SlotFilled s v (v.fillReply (slotOf l r.station) reply) l r reply := by
  refine ⟨?_, ?_, ?_⟩
  · apply State.eq_of_fields <;> simp
  · simp [State.fillReply_line, h, slotFor]
  · intro m hm
    have : ¬ l = m := fun h => hm (by simp [h])
    simp [State.fillReply_line, this]

theorem isRefusal_iff (st : Status) : isRefusal st = true ↔ ¬ (st = .ok ∨ st = .queued) := by
  cases st <;> simp [isRefusal]

theorem State.answer_eq (v : State) (i : SlotIx) (reply : Reply) :
    v.answer i reply = ({ v with counters := refusalsAfter v reply }).fillReply i reply := by
  unfold State.answer refusalsAfter
  by_cases h : reply.status = .ok ∨ reply.status = .queued
  · have : ¬ isRefusal reply.status = true := by rw [isRefusal_iff]; exact fun g => g h
    simp [this, h]
  · have : isRefusal reply.status = true := by rw [isRefusal_iff]; simpa using h
    simp only [this, if_true, h, if_false]
    apply State.eq_of_fields <;> simp
    all_goals simp [State.countRefusal, State.fillReply, State.updLine, State.replyContent]

/-- A newly made reply placed in the slot reserved for it. -/
theorem State.answer_spec {s v : State} {l : LineIx} {r : Request}
    (h : (v.line l).replies = (s.line l).replies ++ [slotFor r none]) (reply : Reply) :
    ReplyPlaced s v (v.answer (slotOf l r.station) reply) l r reply := by
  rw [State.answer_eq]
  exact State.fillReply_spec (by simpa using h) reply

/-- An answered request: reply placed, cache written, refusal counted. -/
theorem State.finish_spec {s v : State} {l : LineIx} {r : Request}
    (h : (v.line l).replies = (s.line l).replies ++ [slotFor r none]) (reply : Reply) :
    RequestAnswered s v (v.finish (slotOf l r.station) r reply) l r reply := by
  have ha := State.answer_eq v (slotOf l r.station) reply
  refine ⟨?_, ?_, ?_, ?_, ?_⟩
  · apply State.eq_of_fields <;> simp
    simp only [State.finish, State.cacheReply_fields, ha, State.fillReply_fields]
  · simp only [State.finish, State.cacheReply_reads, ha]
    rw [State.fillReply_line]
    simp [h, slotFor, contentOf]
  · intro m hm
    have hm' : ¬ l = m := fun h => hm (by simp [h])
    simp only [State.finish, State.cacheReply_reads, ha]
    rw [State.fillReply_line]
    simp [hm']
  · simp [State.finish, State.cacheReply]
  · intro j hj
    have hj' : ¬ slotOf l r.station = j := fun h => hj (by simp [h])
    simp [State.finish, State.cacheReply, State.updSession_session, hj']

/-! ### The searches depend on the tables alone -/

theorem State.lookup_congr {s u : State} (hc : u.chains = s.chains) (he : u.entries = s.entries)
    (k : Key) : u.lookup k = s.lookup k := by
  unfold State.lookup State.chain State.entry; rw [hc, he]

theorem State.ownClaim_congr {s u : State} (he : u.entries = s.entries) (hc : u.claims = s.claims)
    (e : EntryIx) (i : SlotIx) : u.ownClaim e i = s.ownClaim e i := by
  unfold State.ownClaim State.claimOf State.claim State.entry; rw [hc, he]

theorem State.lowestFreeEntry_congr {s u : State} (he : u.entries = s.entries) :
    u.lowestFreeEntry = s.lowestFreeEntry := by
  unfold State.lowestFreeEntry State.entry; rw [he]

/-- What a request reads of the tables is as it was when the request began. -/
@[simp] theorem State.begun_searches (s : State) (l : LineIx) (r : Request) (j : SlotIx) :
    (∀ k, ((s.takeFrame l r).setLease j).lookup k = s.lookup k) ∧
    (∀ e i, ((s.takeFrame l r).setLease j).ownClaim e i = s.ownClaim e i) ∧
    (∀ k i, ((s.takeFrame l r).setLease j).ownClaimOn k i = s.ownClaimOn k i) ∧
    ((s.takeFrame l r).setLease j).lowestFreeEntry = s.lowestFreeEntry ∧
    ((s.takeFrame l r).setLease j).freeEntries = s.freeEntries ∧
    ((s.takeFrame l r).setLease j).canIssue = s.canIssue ∧
    (∀ e m, ((s.takeFrame l r).setLease j).grantableNow e m = s.grantableNow e m) ∧
    (∀ k, ((s.takeFrame l r).setLease j).creationRefusal k = s.creationRefusal k) ∧
    (∀ i k m, ((s.takeFrame l r).setLease j).takingRefusal i k m = s.takingRefusal i k m) ∧
    (∀ i k m, ((s.takeFrame l r).setLease j).convertRefusal i k m = s.convertRefusal i k m) := by
  have hl : ∀ k, ((s.takeFrame l r).setLease j).lookup k = s.lookup k :=
    State.lookup_congr (by simp) (by simp)
  have ho : ∀ e i, ((s.takeFrame l r).setLease j).ownClaim e i = s.ownClaim e i :=
    State.ownClaim_congr (by simp) (by simp)
  have hf : ((s.takeFrame l r).setLease j).lowestFreeEntry = s.lowestFreeEntry :=
    State.lowestFreeEntry_congr (by simp)
  have ht : ∀ i k m, ((s.takeFrame l r).setLease j).takingRefusal i k m =
      s.takingRefusal i k m := by
    intro i k m
    have hr : (((s.takeFrame l r).setLease j).session i).ring = (s.session i).ring := by
      rw [State.setLease_session]
      split
      · rename_i h; subst h; simp
      · simp
    simp only [State.takingRefusal, State.setLease_reads, State.takeFrame_reads, hr]
  refine ⟨hl, ho, fun k i => ?_, hf, by simp [State.freeEntries], by simp [State.canIssue],
    fun e m => by simp [State.grantableNow], fun k => by simp [State.creationRefusal, hf], ht,
    fun i k m => ?_⟩
  · simp only [State.ownClaimOn, hl, ho]
  · cases m <;> simp [State.convertRefusal, ht]

/-- The checks up to the bracket are passed. -/
theorem State.takingRefusal_of_passes {s : State} {i : SlotIx} {r : Request} {f : AcquireFields}
    (h : AcquirePasses s i r f) : s.takingRefusal i f.key f.mode = none := by
  obtain ⟨-, h2, h3⟩ := h
  simp only [State.takingRefusal, h2, ne_eq, not_true_eq_false, if_false]
  refine if_neg ?_
  cases hm : f.mode <;> simp only [hm] at h3 ⊢ <;> omega

/-- Grantable at once or not (R32). -/
theorem State.grantableNow_iff {s : State} {e : EntryIx} {m : Mode} :
    s.grantableNow e m = false ↔ NotGrantableNow s e m := by
  rw [← Bool.not_eq_true, NotGrantableNow]
  simp [State.grantableNow, and_assoc]

/-! ### Requests that pass the common checks -/

/-- A request that passes the checks is done on the state with its lease restarted, then answered. -/
theorem State.requestStep_admitted {s : State} {l : LineIx} {r : Request} (h : RequestAdmitted s l r)
    (isKind : Byte → Bool) (hk : isKind r.kind = true)
    (act : State → SlotIx → Request → State × Reply) :
    s.requestStep l isKind (State.serveRequest act) =
      let u := (s.takeFrame l r).setLease (slotOf l r.station)
      (act u (slotOf l r.station) r).1.finish (slotOf l r.station) r
        (act u (slotOf l r.station) r).2 := by
  obtain ⟨ho, hs, hop, hi, hd⟩ := h
  rw [State.requestStep_offered ho, hk, if_pos rfl]
  have hc : (s.takeFrame l r).commonChecks (slotOf l r.station) r = none := by
    unfold State.commonChecks
    simp only [State.takeFrame_fields, State.takeFrame_reads, hs]
    simp [sessionRefusal, hop, hi]
    simpa [isDuplicate] using hd
  simp only [State.serveRequest, hc]

/-- A table operation leaves the reply slots as they are. -/
theorem TableStep.replies {s t : State} (h : TableStep s t) (l : LineIx) :
    (t.line l).replies = (s.line l).replies := by rw [h.lines l]

/-- The reply slots of a request that has begun. -/
theorem State.begun_replies (s : State) (l : LineIx) (r : Request) :
    (((s.takeFrame l r).setLease (slotOf l r.station)).line l).replies =
      (s.line l).replies ++ [slotFor r none] := by
  simp [State.takeFrame_line]

/-- A request's work by table operations, then its answer. -/
theorem State.answered_after {s v : State} {l : LineIx} {r : Request}
    (h : TableStep ((s.takeFrame l r).setLease (slotOf l r.station)) v) (reply : Reply) :
    RequestAnswered s v (v.finish (slotOf l r.station) r reply) l r reply :=
  State.finish_spec (by rw [h.replies]; exact State.begun_replies s l r) reply

/-! ### Groups (R67 to R70) -/

theorem TableStep.grantElement (s : State) (i : SlotIx) (el : GroupElement) :
    TableStep s (s.grantElement i el) := by
  unfold State.grantElement
  split
  · exact TableStep.refl s
  · split
    · exact TableStep.grantJoin _ _ _ _ _
    · split
      · exact TableStep.grantNew _ _ _ _ _ _
      · exact TableStep.refl s

/-- The tokens of a group are consecutive. -/
theorem groupTokens_eq (t n : Nat) :
    groupTokens t n = (List.range n).flatMap (fun k => beBytes 6 (t + k)) := by
  induction n generalizing t with
  | zero => rfl
  | succ n ih =>
    rw [groupTokens, ih, List.range_succ_eq_map]
    simp only [List.flatMap_cons, Nat.add_zero, List.flatMap_map]
    congr 2
    funext k; congr 1; omega

/-- No element is refused. -/
theorem State.firstRefused_none {s : State} {i : SlotIx} {els : List GroupElement} {n : Nat} :
    s.firstRefused i n els = none ↔ ∀ el ∈ els, s.elementRefusal i el = none := by
  induction els generalizing n with
  | nil => simp [State.firstRefused]
  | cons x xs ih => rw [State.firstRefused]; cases h : s.elementRefusal i x <;> simp [ih, h]

/-- The first element refused, with its position. -/
theorem State.firstRefused_some {s : State} {i : SlotIx} {els : List GroupElement} {k n : Nat}
    {el : GroupElement} {st : Status} (hn : els[n]? = some el)
    (hb : ∀ m before, m < n → els[m]? = some before → s.elementRefusal i before = none)
    (he : s.elementRefusal i el = some st) : s.firstRefused i k els = some (k + n, st) := by
  induction els generalizing n k with
  | nil => simp at hn
  | cons x xs ih =>
    rw [State.firstRefused]
    cases n with
    | zero => simp at hn; subst hn; simp [he]
    | succ n =>
      simp only [hb 0 x (by omega) (by simp)]
      rw [ih (k := k + 1) (n := n) (by simpa using hn)
        (fun m b hm hg => hb (m + 1) b (by omega) (by simpa using hg))]
      congr 2; omega

/-! ### The commands of the ten request rows -/

/-- The request command of a kind byte is a request step of a row that takes this kind, whose work
begins with the common checks unless the kind is OPEN. -/
theorem exec_requestCommand (kind : Byte) (l : LineIx) (s : State) : ∃ isKind serve,
    (∀ r : Request, r.kind = kind → isKind r.kind = true) ∧
    exec (requestCommand kind l) s = .next (s.requestStep l isKind serve) ∧
    (kind ≠ 0x01#8 → ∀ (u : State) (i : SlotIx) (r : Request) (w : State),
      u.commonChecks i r = some w → serve u i r = w) ∧
    (kind = 0x01#8 → serve = State.serveOpen) := by
  have key : ∀ n, kind.toNat = n → kind = BitVec.ofNat 8 n := by
    intro n hn; apply BitVec.eq_of_toNat_eq; have := kind.isLt; simp; omega
  unfold requestCommand
  split
  case h_1 h =>
    exact ⟨_, _, fun r hr => by rw [hr, key _ h]; rfl, rfl, fun hne => absurd (key _ h) hne,
      fun _ => rfl⟩
  case h_2 h =>
    exact ⟨_, _, fun r hr => by rw [hr, key _ h]; rfl, rfl,
      fun _ u i r w hw => by simp only [State.serveClose, hw],
      fun hne => by rw [hne] at h; simp at h⟩
  case h_10 =>
    rename_i g1 g2 g3 g4 g5 g6 g7 g8 g9
    refine ⟨_, _, ?_, rfl, fun _ u i r w hw => by simp only [State.serveRequest, hw], ?_⟩
    · intro r hr
      simp only [isKnownKind, hr, Bool.not_eq_true', Bool.and_eq_false_iff,
        decide_eq_false_iff_not]
      simp at *; omega
    · intro h; subst h; simp at g1
  all_goals
    rename_i h
    exact ⟨_, _, fun r hr => by rw [hr, key _ h]; rfl, rfl,
      fun _ u i r w hw => by simp only [State.serveRequest, hw],
      fun hne => by rw [hne] at h; simp at h⟩

end Sys2Proof.Machine
end

