-- ==== Sys2Proof/Laws/GrantPass.lean ====
section
/-!
SUPPORT. The grant of a waiter (R37) and the heads of a queue that a grant pass admits (R38 step 3).
-/

namespace Sys2Proof.Machine

/-! ### The grant of the head of a queue (R37) -/

theorem State.grantWaiting_claim (s : State) (e : EntryIx) (c d : ClaimIx) :
    (s.grantWaiting e c).claim d = if c = d then
      { s.claim c with
        state := .held, waitDeadline := none, token := s.tokenCounter,
        notice := some (match (s.claim c).notice with
          | none => .granted
          | some p => mergedNotice p .granted) } else s.claim d := by
  unfold State.grantWaiting
  by_cases h : c = d
  · subst h; simp <;> rfl
  · simp [h, State.updClaim_claim]

theorem State.grantWaiting_entry (s : State) (e : EntryIx) (c : ClaimIx) (f : EntryIx) :
    (s.grantWaiting e c).entry f = if e = f then
      { s.entry e with
        waiters := (s.entry e).waiters.tail,
        mode := if (s.entry e).holders.isEmpty then (s.claim c).mode else (s.entry e).mode,
        holders := (s.entry e).holders ++ [c],
        latestToken := s.tokenCounter } else s.entry f := by
  unfold State.grantWaiting
  by_cases h : e = f
  · subst h; simp
  · simp [h, State.updEntry_entry]

theorem State.grantWaiting_fields (s : State) (e : EntryIx) (c : ClaimIx) :
    (s.grantWaiting e c).tokenCounter = s.tokenCounter + 1 ∧
    (s.grantWaiting e c).freeList = s.freeList ∧ (s.grantWaiting e c).chains = s.chains ∧
    (s.grantWaiting e c).namespaces = s.namespaces ∧
    (s.grantWaiting e c).freeClaimCount = s.freeClaimCount := by
  unfold State.grantWaiting
  have h := fun v : State => State.issueToken_writes v c e
  refine ⟨?_, ?_, ?_, ?_, ?_⟩ <;> simp
  rw [h]; simp

/-! ### The pass -/

/-- Step 3 of the grant pass with no head of an ENDING session and enough tokens. -/
theorem State.grantHeads_admits (fuel : Nat) (s : State) (e : EntryIx)
    (hf : (s.entry e).waiters.length ≤ fuel)
    (hs : ∀ c ∈ (s.entry e).waiters, (s.session (s.claim c).session).state ≠ .ending)
    (ht : s.tokenCounter + (s.entry e).waiters.length ≤ Config.tokenExhausted) :
    let x := s.entry e
    let n := admitted (s.ns x.key.ns).rules.sharerLimit x.holders.length x.mode
      (x.waiters.map (fun c => (s.claim c).mode))
    let t := State.grantHeads fuel s e
    (t.entry e).holders = x.holders ++ x.waiters.take n ∧
    (t.entry e).waiters = x.waiters.drop n ∧
    (t.entry e).occupied = x.occupied ∧ (t.entry e).key = x.key ∧ (t.entry e).upgrade = x.upgrade ∧
    EntriesSameBut [e] s t ∧
    t.tokenCounter = s.tokenCounter + n ∧
    t.freeList = s.freeList ∧ t.chains = s.chains ∧ t.namespaces = s.namespaces ∧
    (∀ c ∈ x.waiters.take n, (t.claim c).state = .held) ∧
    (∀ c, c ∉ x.waiters.take n → t.claim c = s.claim c) ∧
    (∀ c, (t.claim c).mode = (s.claim c).mode) ∧
    ∀ k c, k < n → x.waiters[k]? = some c → x.waiters.count c = 1 →
      (t.claim c).token = s.tokenCounter + k ∧
      (t.claim c).waitDeadline = none ∧ (t.claim c).notice ≠ none := by
  induction fuel generalizing s with
  | zero =>
    have hw : (s.entry e).waiters = [] := List.length_eq_zero_iff.1 (by omega)
    simp [State.grantHeads, hw, admitted, EntriesSameBut]
  | succ fuel ih =>
    cases hw : (s.entry e).waiters with
    | nil => simp [State.grantHeads, hw, admitted, EntriesSameBut]
    | cons c rest =>
      have hne : ¬ (s.session (s.claim c).session).state = .ending := hs c (by simp [hw])
      have hci : s.canIssue = true := by
        simp only [State.canIssue, decide_eq_true_eq]; rw [hw] at ht; simp at ht ⊢; omega
      by_cases hg : s.headGrantable e (s.claim c).mode = true
      · -- granted
        have hx1 := State.grantWaiting_entry s e c e
        rw [if_pos rfl] at hx1
        obtain ⟨g1, g2, g3, g4, g5⟩ := State.grantWaiting_fields s e c
        have hmode : ∀ d, ((s.grantWaiting e c).claim d).mode = (s.claim d).mode := by
          intro d; rw [State.grantWaiting_claim]; split
          · rename_i h; subst h; rfl
          · rfl
        have hsess : ∀ d, ((s.grantWaiting e c).claim d).session = (s.claim d).session := by
          intro d; rw [State.grantWaiting_claim]; split
          · rename_i h; subst h; rfl
          · rfl
        have hst : ∀ i, ((s.grantWaiting e c).session i).state = (s.session i).state := by
          intro i; rw [(TableStep.grantWaiting s e c).sessions i]
        by_cases hm : (s.claim c).mode = .exclusive
        · have hh : (s.entry e).holders = [] := by
            simp [State.headGrantable, hm] at hg; exact hg
          have hgr : State.grantHeads (fuel + 1) s e = s.grantWaiting e c := by
            rw [State.grantHeads]; simp only [hw]; rw [if_neg hne, if_pos hg, if_pos hci, if_pos hm]
          have hn : admitted (s.ns (s.entry e).key.ns).rules.sharerLimit
              (s.entry e).holders.length (s.entry e).mode
              ((c :: rest).map (fun c => (s.claim c).mode)) = 1 := by
            rw [hh]; simp [hm, admitted]
          intro x n t
          have hn' : n = 1 := by simp only [n, x]; rw [hw]; exact hn
          have ht' : t = s.grantWaiting e c := hgr
          rw [ht', hx1]
          simp only [x, hw, hn']
          refine ⟨by simp, by simp, by simp, by simp, by simp, ?_, g1, g2, g3, g4, ?_, ?_, hmode, ?_⟩
          · intro f hf; have : ¬ e = f := fun h => hf (by simp [h])
            rw [State.grantWaiting_entry, if_neg this]
          · intro d hd; simp at hd; subst hd; rw [State.grantWaiting_claim, if_pos rfl]
          · intro d hd; simp at hd; rw [State.grantWaiting_claim, if_neg (fun h => hd h.symm)]
          · intro k d hk hkd _; have : k = 0 := by omega
            subst this; simp at hkd; subst hkd; rw [State.grantWaiting_claim, if_pos rfl]; simp
        · have hsh : (s.claim c).mode = .shared := by cases h : (s.claim c).mode; rfl; exact absurd h hm
          have hgr : State.grantHeads (fuel + 1) s e = State.grantHeads fuel (s.grantWaiting e c) e := by
            rw [State.grantHeads]; simp only [hw]; rw [if_neg hne, if_pos hg, if_pos hci, if_neg hm]
          have hw1 : ((s.grantWaiting e c).entry e).waiters = rest := by rw [hx1]; simp [hw]
          have IH := ih (s.grantWaiting e c) (by rw [hw1]; rw [hw] at hf; simp at hf; omega)
            (by intro d hd; rw [hw1] at hd; rw [hsess, hst]; exact hs d (by rw [hw]; simp [hd]))
            (by rw [hw1, g1]; rw [hw] at ht; simp at ht ⊢; omega)
          have hmd : ((s.grantWaiting e c).entry e).mode = .shared := by
            rw [hx1]; simp only
            split
            · exact hsh
            · rename_i hne'; simp [State.headGrantable, hsh] at hg
              rcases hg with hg | hg
              · simp [hg] at hne'
              · exact hg.1
          have hn : admitted (s.ns (s.entry e).key.ns).rules.sharerLimit
              (s.entry e).holders.length (s.entry e).mode
              ((c :: rest).map (fun c => (s.claim c).mode)) = 1 +
              admitted (s.ns (s.entry e).key.ns).rules.sharerLimit
                ((s.entry e).holders.length + 1) .shared (rest.map (fun c => (s.claim c).mode)) := by
            rw [List.map_cons, hsh]
            cases hh : (s.entry e).holders with
            | nil => rw [List.length_nil, admitted.eq_def]
            | cons a as =>
              simp [State.headGrantable, hsh, hh] at hg
              rw [hg.1, List.length_cons, admitted.eq_def]; simp only
              rw [if_pos hg.2]
          intro x n t
          simp only at IH
          rw [hw1] at IH
          have hL : (((s.grantWaiting e c).ns ((s.grantWaiting e c).entry e).key.ns)).rules.sharerLimit = (s.ns (s.entry e).key.ns).rules.sharerLimit := by
            rw [hx1, State.ns_congr g4]
          rw [hL, hmd] at IH
          have hlen : ((s.grantWaiting e c).entry e).holders = (s.entry e).holders ++ [c] := by rw [hx1]
          rw [hlen] at IH
          simp only [hmode, List.length_append, List.length_cons, List.length_nil, Nat.zero_add] at IH
          set m := admitted (s.ns (s.entry e).key.ns).rules.sharerLimit
            ((s.entry e).holders.length + 1) .shared (rest.map (fun c => (s.claim c).mode)) with hmdef
          have hn' : n = 1 + m := by simp only [n, x]; rw [hw]; exact hn
          have hnm : n = m + 1 := by omega
          have ht' : t = State.grantHeads fuel (s.grantWaiting e c) e := hgr
          rw [ht']
          simp only [x, hw]
          rw [hnm]
          obtain ⟨i1, i2, i3, i4, i5, i6, i7, i8, i9, i10, i11, i12, i13, i14⟩ := IH
          refine ⟨by rw [i1]; simp, by rw [i2]; simp, by rw [i3, hx1], by rw [i4, hx1],
            by rw [i5, hx1], ?_, by rw [i7, g1]; omega, i8.trans g2, i9.trans g3, i10.trans g4,
            ?_, ?_, fun d => i13 d, ?_⟩
          · intro f hf; have : ¬ e = f := fun h => hf (by simp [h])
            rw [i6 f hf, State.grantWaiting_entry, if_neg this]
          · intro d hd
            rw [List.take_succ_cons] at hd
            by_cases hdr : d ∈ rest.take m
            · exact i11 d hdr
            · rcases List.mem_cons.1 hd with h | h
              · subst h; rw [i12 d hdr, State.grantWaiting_claim, if_pos rfl]
              · exact absurd h hdr
          · intro d hd
            rw [List.take_succ_cons] at hd
            rw [i12 d (fun h => hd (List.mem_cons_of_mem _ h)), State.grantWaiting_claim,
              if_neg (fun h => hd (by simp [h]))]
          · intro k d hk hkd hcount
            cases k with
            | zero =>
              simp at hkd; subst hkd
              have hnr : c ∉ rest := List.count_eq_zero.1 (by simpa using hcount)
              have hnt : c ∉ rest.take m := fun h => hnr (List.mem_of_mem_take h)
              rw [i12 c hnt, State.grantWaiting_claim, if_pos rfl]; simp
            | succ k =>
              simp at hkd
              have hcd : c ≠ d := by
                intro h; subst h
                have : c ∈ rest := List.mem_of_getElem? hkd
                simp at hcount; exact List.count_eq_zero.1 hcount this
              have := i14 k d (by omega) hkd (by rw [List.count_cons_of_ne hcd] at hcount; exact hcount)
              rw [g1] at this
              refine ⟨by rw [this.1]; omega, this.2⟩
      · have hgr : State.grantHeads (fuel + 1) s e = s := by
          rw [State.grantHeads]; simp only [hw]; rw [if_neg hne, if_neg hg]
        have hn : admitted (s.ns (s.entry e).key.ns).rules.sharerLimit
            (s.entry e).holders.length (s.entry e).mode
            ((c :: rest).map (fun c => (s.claim c).mode)) = 0 := by
          simp [State.headGrantable] at hg
          obtain ⟨hg1, hg2⟩ := hg
          cases hh : (s.entry e).holders with
          | nil => exact absurd hh hg1
          | cons a as =>
            rw [hh] at hg2
            rw [List.map_cons, List.length_cons, admitted.eq_def]
            cases h1 : (s.claim c).mode <;> cases h2 : (s.entry e).mode <;> simp
            have := hg2 h1 h2
            simpa using this
        intro x n t
        have hn' : n = 0 := by simp only [n, x]; rw [hw]; exact hn
        have ht' : t = s := hgr
        rw [ht', hn']
        simp [x, hw, EntriesSameBut]

end Sys2Proof.Machine
end

