-- ==== Sys2Proof/Tests/Slice0.lean ====
section
/-!
SUPPORT. Tests on small states: the well-formedness smoke test, one step of each command against values
taken from the spec's rules and worked examples, and for each statement with hypotheses a state and
operands that meet them together, clause by clause.
-/

namespace Sys2Proof.Tests

open Sys2Proof.Machine

-- One theorem at a time: the kernel evaluates whole tables in each.
set_option Elab.async false

/-! ### Small states -/

/-- The state after a command. -/
def after (c : Instr) (s : State) : State :=
  match exec c s with
  | .next t => t
  | .fault _ => s
  | .refused _ => s

/-- Service RUNNING at time 1000 with the next token 7; line 0 ACTIVE; namespace 0 ENABLED; session 0
(line 0, station 0) OPEN with incarnation 1, ring 1 and a lease of 200 ms. -/
def base : State :=
  (({ State.reset with service := .running, tokenLoaded := true, tokenCounter := 7, time := 1000 }.updLine
    0 (fun ln => { ln with state := .active })).updNs 0 (fun x => { x with state := .enabled })).updSession
    0 (fun x => { x with state := .opened, incarnation := 1, ring := 1, lease := 200,
                         leaseDeadline := some 1100 })

/-- A frame of station 0 with this kind and payload heads line 0's queue. -/
def ask (kind : Byte) (payload : List Byte) (s : State) : State :=
  s.updLine 0 (fun ln => { ln with requests := [⟨0, 1, 9, kind, payload⟩] })

/-- The frame that `ask` places. -/
def frame (kind : Byte) (payload : List Byte) : Request := ⟨0, 1, 9, kind, payload⟩

/-- A command with these parameter bytes waits in the mailbox. -/
def order (code : Byte) (ps : List Byte) (s : State) : State :=
  { s with mailbox := .busy false, commandCode := code,
           params := ⟨((ps ++ List.replicate 20 0#8).take 20).toArray, by simp⟩ }

/-- The key (0, 5), which lies in bucket 5. -/
def key : Key := ⟨0, 5⟩

/-- The five bytes of that key. -/
def keyBs : List Byte := [0, 0, 0, 0, 5]

/-- A claim of a session on entry 0. -/
def place (c : ClaimIx) (st : ClaimState) (m : Mode) (i : SlotIx) (s : State) : State :=
  (s.updClaim c (fun x => { x with state := st, mode := m, entry := 0, key := key, session := i,
                                   token := 3, useCount := 1 })).updSession i
    (fun x => { x with claimList := x.claimList ++ [c],
                       heldCount := if st = .held then x.heldCount + 1 else x.heldCount,
                       waitingCount := if st = .waiting then x.waitingCount + 1 else x.waitingCount })

/-- Entry 0 holds the key with these holders and waiters. -/
def lock (m : Mode) (hs ws : List ClaimIx) (s : State) : State :=
  ((s.updEntry 0 (fun x => { x with occupied := true, key := key, mode := m, holders := hs,
                                    waiters := ws, latestToken := 3 })).updChain 5 (fun _ => [0])).updNs 0
    (fun x => { x with occupied := 1 })

/-- Session 0 holds entry 0 EXCLUSIVE by claim 100, and session 1 waits for it by claim 101. -/
def contended : State :=
  lock .exclusive [100] [101] (place 101 .waiting .exclusive 1 (place 100 .held .exclusive 0
    (base.updSession 1 (fun x => { x with state := .opened, incarnation := 1, ring := 1 }))))

/-- Sessions 0 and 1 share entry 0 by claims 100 and 101. -/
def sharing : State :=
  lock .shared [100, 101] [] (place 101 .held .shared 1 (place 100 .held .shared 0
    (base.updSession 1 (fun x => { x with state := .opened, incarnation := 1, ring := 1 }))))

/-- Claim 100 is the pending upgrade of entry 0. -/
def upgrading : State :=
  (sharing.updEntry 0 (fun x => { x with upgrade := some 100 })).updClaim 100
    (fun x => { x with upgrade := true, waitDeadline := some 1000 })

/-- The character with these data bits and good parity and stop bits under parity NONE. -/
def char (b : Byte) : RxChar := ⟨b, false, true⟩

/-! ### Well-formedness: an ill-formed term for each window byte with a row of its own -/

theorem test_wf_refuses_acknowledge : (Instr.registerWrite 0x00 0xFF).wellFormed = false := by decide
theorem test_wf_refuses_cause_byte : (Instr.registerWrite 0x02 0x01).wellFormed = false := by decide
theorem test_wf_refuses_mask_byte : (Instr.registerWrite 0x43 0x01).wellFormed = false := by decide
theorem test_wf_refuses_line_bytes : ∀ l : LineIx,
    (Instr.registerWrite (byteOf (4 + l.val)) 0x70).wellFormed = false := by decide
theorem test_wf_admits_command_code : (Instr.registerWrite 0x00 0x02).wellFormed = true := by decide
theorem test_wf_admits_parameter : (Instr.registerWrite 0x14 0xFF).wellFormed = true := by decide

/-! ### Numbers of the spec -/

/-- The CRC check value of R187. -/
theorem test_crc_check_value :
    crcOf [0x31, 0x32, 0x33, 0x34, 0x35, 0x36, 0x37, 0x38, 0x39] = 0x29B1#16 := by decide +kernel
/-- The worked buckets of R4. -/
theorem test_buckets : bucketOf ⟨3, 0x12345678⟩ = 331 ∧ bucketOf ⟨15, 0xFFFFFFFF⟩ = 11 := by
  decide +kernel
theorem test_character_times : characterTime LineConfig.reset = 2080 ∧
    characterTime { LineConfig.reset with parity := .even } = 2288 := by decide
theorem test_no_word_spells_a_command : decodeTableWord 8 0 = none := rfl
theorem test_fetch_word_changes_nothing : base.withFetchWord 8 0 = base := rfl
theorem test_idle_step : step base = .next base := rfl
theorem test_spi_write_wraps :
    spiWrites [0x02, 0x3F, 0xAA, 0xBB] = [(63, 0xAA), (0, 0xBB)] := by decide
/-- A WRITE of three data bytes, the first at the command code. -/
theorem test_spi_commands : spiCommands [0x02, 0x00, 0xFF, 0x00, 0x03] =
    [.mailboxAck ⟨true, false⟩, .registerWrite 0x01 0x00 ⟨false, false⟩,
     .causeClear .device 0x03 ⟨false, true⟩] := by decide
/-- A device reset ends the WRITE: its second byte is then ignored. -/
theorem test_reset_ends_a_write : (after (.registerWrite 0x15 0xAA ⟨false, true⟩) (after .deviceReset
    (after (.registerWrite 0x14 0xAA ⟨true, false⟩) base))).params.toList.take 2 = [0, 0] := by
  decide +kernel
theorem test_write_goes_on : (after (.registerWrite 0x15 0xAA ⟨false, true⟩)
    (after (.registerWrite 0x14 0xBB ⟨true, false⟩) base)).params.toList.take 3 = [0xBB, 0xAA, 0] := by
  decide +kernel
theorem test_miso : State.reset.miso none 2 = none ∧
    State.reset.miso (some [0x0B, 0x3F, 0, 0]) 3 = some 0x71#8 := by decide +kernel
theorem test_window_at_reset : State.reset.window.take 4 = [0x71, 0x00, 0x00, 0x7F] := by
  decide +kernel

/-! ### One step of each station request -/

theorem test_open_effective_ring : ((after (.reqOpen 0) (ask 1 [3, 0, 250]
    (base.updSession 0 (fun x => { x with state := .idle, incarnation := 255 })))).session 0).ring =
    7 := by decide +kernel
theorem test_open_incarnation_wraps : ((after (.reqOpen 0) (ask 1 [3, 0, 250]
    (base.updSession 0 (fun x => { x with state := .idle, incarnation := 255 })))).session 0).incarnation =
    1 := by decide +kernel
theorem test_close_ends : ((after (.reqClose 0) (ask 2 [] contended)).session 0).endCause = .closed := by
  decide +kernel
theorem test_renew_restarts_lease :
    ((after (.reqRenew 0) (ask 3 [] base)).session 0).leaseDeadline = some 1200 := by decide +kernel
theorem test_acquire_new : (after (.reqAcquire 0) (ask 4 (keyBs ++ [2, 0, 0]) base)).entry 0 =
    { occupied := true, key := key, mode := .exclusive, holders := [0], waiters := [],
      upgrade := none, latestToken := 7 } := by decide +kernel
theorem test_acquire_queues : ((after (.reqAcquire 0) (ask 4 (keyBs ++ [2, 0, 50])
    (contended.updClaim 100 (fun x => { x with session := 2 })))).entry 0).waiters = [101, 0] := by
  decide +kernel
theorem test_release_grants_waiter : ((after (.reqRelease 0) (ask 5 keyBs contended)).claim 101).token =
    7 := by decide +kernel
theorem test_release_frees_claim : ((after (.reqRelease 0) (ask 5 keyBs contended)).claim 100).state =
    .free := by decide +kernel
theorem test_convert_down : ((after (.reqConvert 0) (ask 6 (keyBs ++ [1, 0, 0]) contended)).entry 0).mode =
    .shared := by decide +kernel
theorem test_convert_up_pends : ((after (.reqConvert 0) (ask 6 (keyBs ++ [2, 0, 9]) sharing)).entry 0).upgrade =
    some 100 := by decide +kernel
theorem test_cancel_upgrade : ((after (.reqCancel 0) (ask 7 keyBs upgrading)).claim 100).upgrade = false := by
  decide +kernel
theorem test_query_payload : ((after (.reqQuery 0) (ask 8 keyBs contended)).session 0).cache.reply =
    ⟨.ok, [2, 1, 1, 0, 0, 0, 0, 0, 0, 3, 1]⟩ := by decide +kernel
theorem test_group_tokens : ((after (.reqGroup 0)
    (ask 9 ([2] ++ keyBs ++ [2] ++ [0, 0, 0, 0, 6, 1]) base)).session 0).cache.reply =
    ⟨.ok, [0, 0, 0, 0, 0, 7, 0, 0, 0, 0, 0, 8]⟩ := by decide +kernel
theorem test_group_repeated_key : ((after (.reqGroup 0)
    (ask 9 ([2] ++ keyBs ++ [2] ++ keyBs ++ [1]) base)).session 0).cache.reply =
    ⟨.badRequest, [2, 0x17]⟩ := by decide +kernel
theorem test_unknown_kind : ((after (.reqUnknownKind 0) (ask 0x0A [] base)).line 0).replies.map
    (fun x => x.kind) = [0x80] := by decide +kernel

/-! ### One step of each management command -/

theorem test_set_token_base : (after .setTokenBase (order 1 [0, 0, 0, 0, 1, 0] State.reset)).tokenCounter =
    256 := by decide +kernel
theorem test_start_needs_base : (after .startService (order 2 [] State.reset)).resultCode = .noTokenBase := by
  decide +kernel
theorem test_suspend : (after .suspendService (order 3 [] base)).service = .suspended := by decide +kernel
theorem test_clear_needs_suspended : (after .clearService (order 4 [] base)).resultCode = .badState := by
  decide +kernel
theorem test_define_bad_value :
    (after .defineNamespace (order 0x10 [1, 2, 1, 7, 1, 1, 0, 1] base)).resultCode = .badValue := by
  decide +kernel
theorem test_change_in_use :
    (after .changeNamespace (order 0x11 [0, 1, 1, 1, 7, 8, 8, 0] contended)).resultCode = .inUse := by
  decide +kernel
theorem test_drain_empty : (after .disableNamespaceDrain (order 0x12 [0, 1] base)).deviceCauses = 0x21#7 := by
  decide +kernel
theorem test_revoke_form_stays_busy :
    (after .disableNamespaceRevoke (order 0x12 [0, 2] contended)).mailbox = .busy true := by decide +kernel
theorem test_evict : ((after .evictSession (order 0x20 [0, 0] base)).session 0).state = .ending := by
  decide +kernel
theorem test_inspect_session :
    ((after .inspectSession (order 0x21 [0, 0] base)).result.toList).take 5 = [1, 1, 1, 0, 200] := by
  decide +kernel
theorem test_revoke_holders_result :
    ((after .revokeLockHolders (order 0x30 [0, 0, 0, 0, 5, 1] contended)).result.toList).take 4 =
      [1, 0, 1, 0] := by decide +kernel
theorem test_revoke_all_result :
    ((after .revokeLockAll (order 0x30 [0, 0, 0, 0, 5, 2] contended)).result.toList).take 4 =
      [1, 1, 0, 1] := by decide +kernel
theorem test_inspect_lock :
    ((after .inspectLock (order 0x31 [0, 0, 0, 0, 5, 0] contended)).result.toList).take 14 =
      [0, 0, 2, 1, 1, 0xFF, 1, 0, 0, 0, 0, 0, 0, 3] := by decide +kernel
theorem test_line_config : ((after .lineConfig (order 0x40 [1, 0, 26, 1, 1, 2, 8, 3, 1] base)).line 1).config =
    ⟨26, .even, .half, 2, 8, 3, .restart⟩ := by decide +kernel
theorem test_line_enable : ((after .lineEnable (order 0x41 [5] base)).line 5).state = .active := by
  decide +kernel
theorem test_line_disable_waits : (after .lineDisable (order 0x42 [0] contended)).longCommand =
    some (.restartLine 0) := by decide +kernel
theorem test_line_restart_ends_sessions :
    ((after .lineRestart (order 0x43 [0] contended)).session 0).endCause = .lineRestart := by decide +kernel
theorem test_lease_bounds_low : (after .setLeaseBounds (order 0x50 [0, 49, 1, 0] base)).resultCode =
    .badValue := by decide +kernel
theorem test_pool_threshold : (after .setPoolThreshold (order 0x51 [0x10, 0] base)).poolThreshold =
    4096 := by decide +kernel
theorem test_read_counters : (after .readCounters (order 0x60 [6] (base.countGrant))).result.toList.take 2 =
    [0, 1] := by decide +kernel
theorem test_unknown_command : (after .unknownCommand (order 0x05 [] base)).resultCode =
    .unknownCommand := by decide +kernel

/-! ### Host writes -/

theorem test_ack :
    (after (.mailboxAck) { base with mailbox := .done }).mailbox = .idle := by decide +kernel
theorem test_collision : (after (.registerWrite 0x00 0x02) (order 1 [] base)).deviceCauses = 0x02#7 := by
  decide +kernel
theorem test_cause_clear :
    (after (.causeClear .device 0x81) { base with deviceCauses := 0x03#7 }).deviceCauses =
    0x02#7 := by decide +kernel
theorem test_line_mask : ((after (.maskWrite (.line 0) 0x20) base).line 0).masks = 2#3 := by decide +kernel

/-! ### Lines, deadlines, sweeps -/

theorem test_sync_byte : ((after (.requestSyncByte 0 (char 0xA5)) base).line 0).assembler = .length := by
  decide +kernel
theorem test_length_45_dropped : ((after (.lengthByte 0 (char 45))
    (base.updLine 0 (fun ln => { ln with assembler := .length }))).line 0).counters.badLength = 1 := by
  decide +kernel
theorem test_body_character : ((after (.bodyCharacter 0 (char 7))
    (base.updLine 0 (fun ln => { ln with assembler := .body 4 [] false }))).line 0).assembler =
    .body 4 [7] false := by decide +kernel
/-- The RENEW frame of station 0, incarnation 1, tag 9 passes every test of R149. -/
theorem test_frame_received : ((after (.frameReceived 0 (char ((crcBytes [4, 16, 1, 9, 3]).getD 1 0)))
    (base.updLine 0 (fun ln => { ln with
      assembler := .body 4 [16, 1, 9, 3, (crcBytes [4, 16, 1, 9, 3]).getD 0 0] false }))).line 0).requests =
    [frame 3 []] := by decide +kernel
theorem test_gap_limit : ((after (.gapLimitExpiry 0 16641)
    (base.updLine 0 (fun ln => { ln with assembler := .length }))).line 0).counters.truncated = 1 := by
  decide +kernel
theorem test_break : ((after (.breakDetected 0 4161) base).line 0).causes = 4#3 := by decide +kernel
/-- The end of a break arms the detector at once and the receiver after one character time, 2080 clocks. -/
theorem test_break_end : ((after (.breakEnd 0 0)
    (base.updLine 0 (fun ln => { ln with breakHold := .low }))).line 0).breakHold = .settling := by
  decide +kernel
theorem test_break_settled : ((after (.breakEnd 0 2080)
    (base.updLine 0 (fun ln => { ln with breakHold := .settling }))).line 0).breakHold = .clear := by
  decide +kernel
theorem test_restart_step : ((after (.restartStep 0) (base.updLine 0 (fun ln =>
    { ln with state := .restarting, restartStepPending := true }))).session 0).endCause = .lineBreak := by
  decide +kernel
theorem test_reply_frame_start : ((after (.replyFrameStart 0 0) (base.updLine 0 (fun ln =>
    { ln with replies := [⟨0, 9, 0x83, some ⟨1, .ok, 0, []⟩⟩] }))).line 0).transmitting.map
    (fun f => f.take 8) = some [0x5A, 6, 16, 1, 9, 0x83, 0, 0] := by decide +kernel
theorem test_notice_frame_start : ((after (.noticeFrameStart 0 0)
    (base.raiseNotice 100 .waitExpired)).line 0).transmitting.map (fun f => f.take 8) =
    some [0x5A, 11, 16, 1, 0, 0xC2, 0, 1] := by decide +kernel
theorem test_session_ended_frame_start : ((after (.sessionEndedFrameStart 0 0) (base.updLine 0 (fun ln =>
    { ln with notices := [.sessionEnded 0] }))).session 0).state = .idle := by decide +kernel
theorem test_frame_end : ((after (.frameTransmissionEnd 0) (base.updLine 0 (fun ln =>
    { ln with transmitting := some [1] }))).line 0).transmitting = none := by decide +kernel
theorem test_time_stays : (after .timeCounterAdvance { base with time := 1099511627775 }).time =
    1099511627775 := by decide +kernel
theorem test_posting : (after .posting { base with deadlines := [⟨.lease 0, 1000⟩] }).expiries =
    [⟨.lease 0, 1000⟩] := by decide +kernel
theorem test_lease_expiry : ((after .leaseExpiry { base with expiries := [⟨.lease 0, 1100⟩] }).session 0).endCause =
    .leaseExpired := by decide +kernel
theorem test_wait_expiry_of_upgrade : ((after .waitExpiry
    { upgrading with expiries := [⟨.wait 100 1, 1000⟩] }).claim 100).notice = some .waitExpired := by
  decide +kernel
theorem test_ending_step : ((after (.endingSweepStep 0) (contended.updSession 0 (fun x =>
    { x with state := .ending, endCause := .closed, endingSweep := .starting }))).claim 101).state =
    .held := by decide +kernel
theorem test_ending_final : ((after (.endingSweepFinalStep 0) (base.updSession 0 (fun x =>
    { x with state := .ending, endCause := .leaseExpired, endingSweep := .running }))).session 0).state =
    .ended := by decide +kernel
theorem test_revoke_step : ((after (.revokeSweepStep 0) (contended.updNs 0 (fun x =>
    { x with state := .draining, revokeSweep := true }))).ns 0).sweepClaims = 2 := by decide +kernel
theorem test_revoke_final : (after (.revokeSweepFinalStep 0) (base.updNs 0 (fun x =>
    { x with state := .draining, revokeSweep := true, scanIndex := 2047, sweepEntries := 1,
              sweepClaims := 2 }))).result.toList.take 14 =
    [0, 1, 1, 1, 8, 8, 8, 0, 0, 0, 0, 1, 0, 2] := by decide +kernel
theorem test_clear_step : (after .clearStep
    { contended with service := .clearing, clearSweep := true }).clearClaims = 2 := by decide +kernel
theorem test_clear_final : (after .clearSweepFinalStep
    { State.reset with service := .clearing, clearSweep := true }).service = .suspended := by decide +kernel
theorem test_device_reset : (after .deviceReset contended).freeClaimCount = 4096 := by decide +kernel

/-! ### Hypotheses met: the queue, the window, the lines -/

theorem exists_tail {α : Type} {l : List α} {a : α} (h : l.head? = some a) : ∃ r, l = a :: r := by
  cases l with
  | nil => exact absurd h (by simp)
  | cons b r => exact ⟨r, by simpa using h⟩

/-- A command answers a next state. -/
def goesOn (o : Host.Outcome State Fault Refusal) : Bool :=
  match o with
  | .next _ => true
  | .fault _ => false
  | .refused _ => false

theorem exists_next {o : Host.Outcome State Fault Refusal} (h : goesOn o = true) :
    ∃ t, o = .next t := by
  cases o with
  | next t => exact ⟨t, rfl⟩
  | fault r => cases r
  | refused r => exact absurd h (by simp [goesOn])

theorem witness_step_idles : base.pending = [] := rfl

theorem witness_bucket :
    (0#32 ^^^ (0#32 >>> 9) ^^^ (0#32 >>> 18) ^^^ (0#32 >>> 27)).setWidth 9 =
      (0x201#32 ^^^ (0x201#32 >>> 9) ^^^ (0x201#32 >>> 18) ^^^ (0x201#32 >>> 27)).setWidth 9 ∧
    (15 : NsIx).val = (14 : NsIx).val + 1 := by decide

theorem witness_command_code : (0xC0#8).toNat % 64 = 0 ∧ 0xFE#8 ≠ 0xFF#8 ∧ base.mailbox = .idle ∧
    (order 1 [] base).mailbox ≠ .idle ∧ ({ base with mailbox := .done } : State).mailbox = .done ∧
    base.mailbox ≠ .done ∧ ByteTaken base .whole 0 ∧
    ByteTaken { base with spiWrite := some 0 } ⟨false, false⟩ 0 := by decide

theorem witness_window_writes :
    (0x54#8).toNat % 64 = 0x14 + (0 : Fin 20).val ∧ (0x27#8).toNat % 64 = 0x14 + (19 : Fin 20).val ∧
    (0x01#8).toNat % 64 = 0x01 ∧ (0x0A ≤ (0x0A#8).toNat % 64 ∧ (0x0A#8).toNat % 64 ≤ 0x13) ∧
    (0x0A ≤ (0x13#8).toNat % 64 ∧ (0x13#8).toNat % 64 ≤ 0x13) ∧ 0x28 ≤ (0x28#8).toNat % 64 ∧
    0x28 ≤ (0x3F#8).toNat % 64 ∧ ByteTaken base .whole ((0x54#8).toNat % 64) ∧
    ByteTaken { base with spiWrite := some 0x27 } ⟨false, true⟩ ((0x27#8).toNat % 64) ∧
      [0x03#8, 0x14#8].head? ≠ some 0x02#8 ∧ [0x02#8].length < 2 := by
  decide

/-- The second byte of a WRITE that began at 0x3F, at the address that follows and at others. -/
theorem witness_bytes_of_no_write :
    let s : State := { base with spiWrite := some 0 }
    (⟨false, true⟩ : SpiPlace).first = false ∧ s.spiWrite ≠ some ((0x41#8).toNat % 64) ∧
    base.spiWrite ≠ some 0 ∧ s.spiWrite ≠ some 2 ∧ s.spiWrite ≠ some 3 ∧
    s.spiWrite ≠ some (4 + (0 : LineIx).val) ∧ s.spiWrite ≠ some (4 + (5 : LineIx).val) ∧
    (∃ t, exec .deviceReset s = .next t) ∧ 0 < [0#8].length :=
  ⟨rfl, by decide, by decide, by decide, by decide, by decide, by decide, ⟨_, rfl⟩, by decide⟩

theorem witness_line_byte_writes :
    Instr.causeClear (.line 5) 0xFF = .causeClear (.line 5) 0xFF ∧
    Instr.maskWrite (.line 0) 0x70 = .maskWrite (.line 0) 0x70 ∧
    ByteTaken base .whole 2 ∧ ByteTaken base .whole 3 ∧ ByteTaken base .whole (4 + (5 : LineIx).val) ∧
    ByteTaken { base with spiWrite := some 4 } ⟨false, false⟩ (4 + (0 : LineIx).val) := by
  refine ⟨rfl, rfl, ?_⟩
  decide

/-- A cause of the part under a write of a line byte, and a cause of a line under a write of the part's. -/
theorem witness_causes_stay :
    ((Instr.causeClear (.line 0) 0xFF).wellFormed = true ∧
      (∃ t, exec (.causeClear (.line 0) 0xFF) { base with deviceCauses := 0x40#7 } = .next t) ∧
      Instr.causeClear (.line 0) 0xFF ≠ .deviceReset ∧
      (∀ p data, Instr.causeClear (.line 0) 0xFF ≠ .causeClear .device data p) ∧
      ({ base with deviceCauses := 0x40#7 } : State).deviceCauses.getLsbD 6 = true) ∧
    ((Instr.causeClear .device 0xFF).wellFormed = true ∧
      (∃ t, exec (.causeClear .device 0xFF) (base.updLine 5 (fun ln => { ln with causes := 4#3 })) =
        .next t) ∧
      Instr.causeClear .device 0xFF ≠ .deviceReset ∧
      (∀ p data, Instr.causeClear .device 0xFF ≠ .causeClear (.line 5) data p ∧
        Instr.causeClear .device 0xFF ≠ .maskWrite (.line 5) data p) ∧
      ((base.updLine 5 (fun ln => { ln with causes := 4#3 })).line 5).causes.getLsbD 2 = true) :=
  ⟨⟨by decide, ⟨_, rfl⟩, by simp, by simp, by decide +kernel⟩,
    ⟨by decide, ⟨_, rfl⟩, by simp, by simp, by decide +kernel⟩⟩

/-- `base` with the assembler of line 0 in this state. -/
def assembling (a : Assembler) : State := base.updLine 0 (fun ln => { ln with assembler := a })

theorem witness_frame_assembly :
    ((base.line 0).hears = true ∧ (base.line 0).assembler = .hunt) ∧
    (((assembling .length).line 0).hears = true ∧ ((assembling .length).line 0).assembler = .length) ∧
    (((assembling (.body 4 [16, 1, 9, 3] false)).line 0).hears = true ∧
      ((assembling (.body 4 [16, 1, 9, 3] false)).line 0).assembler = .body 4 [16, 1, 9, 3] false ∧
      [16#8, 1#8, 9#8, 3#8].length + 1 < 4 + 2) ∧
    (((assembling .length).line 0).state = .active ∧ ((assembling .length).line 0).assembler ≠ .hunt ∧
      ((assembling .length).line 0).config.gapLimit *
        characterTime ((assembling .length).line 0).config < 16641) ∧
    (base.line 1).hears = false := by decide +kernel

theorem witness_complete_frame :
    (((assembling (.body 4 [16, 1, 9, 3, 0] true)).line 0).hears = true ∧
      ((assembling (.body 4 [16, 1, 9, 3, 0] true)).line 0).assembler = .body 4 [16, 1, 9, 3, 0] true ∧
      [16#8, 1#8, 9#8, 3#8, 0#8].length + 1 = 4 + 2) ∧
    (((assembling (.body 44 (List.replicate 45 16#8) false)).line 0).hears = true ∧
      ((assembling (.body 44 (List.replicate 45 16#8) false)).line 0).assembler =
        .body 44 (List.replicate 45 16#8) false ∧
      (List.replicate 45 16#8).length + 1 = 44 + 2) := by decide +kernel

/-- Line 0 in HALF duplex with a frame in its transmitter. -/
def driving : State := base.updLine 0 (fun ln =>
  { ln with config := { ln.config with duplex := .half }, transmitting := some [0x5A] })

/-- Line 0 with this break hold. -/
def breaking (h : BreakHold) : State := base.updLine 0 (fun ln => { ln with breakHold := h })

theorem witness_break :
    ((base.line 0).state ≠ .disabled ∧ (base.line 0).breakHold ≠ .low ∧
      (base.line 0).config.duplex = .full ∧ 2 * characterTime (base.line 0).config < 4161 ∧
      ((breaking .settling).line 0).breakHold ≠ .low) ∧
    (base.line 1).state = .disabled ∧ ((breaking .low).line 0).breakHold = .low ∧
    ((driving.line 0).config.duplex = .half ∧ (driving.line 0).driverEnabled = true) ∧
    4160 ≤ 2 * characterTime (base.line 0).config ∧
    ((breaking .settling).line 0).breakHold ≠ .clear := by
  decide +kernel

/-- Line 0 restarting after a break: session 0 OPEN with a DETACHED claim 100 whose notice waits, session 1
ENDING, session 2 ENDED with its item on the list, session 3 IDLE. -/
def broken : State :=
  ((((place 100 .detached .exclusive 0 base).updClaim 100 (fun x => { x with notice := some .revoked })).updSession
    1 (fun x => { x with state := .ending, endCause := .closed })).updSession 2
    (fun x => { x with state := .ended, endCause := .evicted })).updLine 0
    (fun ln => { ln with state := .restarting, restartStepPending := true,
                         notices := [.claim 100, .sessionEnded 2] })

theorem witness_restart_step :
    broken.arbiterChoice = some (srcLine 0) ∧ (broken.line 0).state = .restarting ∧
    (broken.line 0).restartStepPending = true ∧ lineOf 0 = 0 ∧ (broken.session 0).state = .opened ∧
    lineOf 1 = 0 ∧ (broken.session 1).state = .ending ∧
    lineOf 2 = 0 ∧ (broken.session 2).state = .ended ∧ .sessionEnded 2 ∈ (broken.line 0).notices ∧
    lineOf 15 = 0 ∧ (broken.session 15).state = .idle ∧ .claim 100 ∈ (broken.line 0).notices ∧
    (broken.line 0).notices.Nodup ∧ lineOf 16 ≠ 0 ∧ (broken.session 16).state ≠ .ended := by
  decide +kernel

/-- Line 0 with a reserved reply slot before a filled one. -/
def replying : State := base.updLine 0 (fun ln =>
  { ln with replies := [⟨1, 8, 0x82, none⟩, ⟨0, 9, 0x83, some ⟨1, .ok, 0, []⟩⟩] })

theorem witness_reply_frame :
    ((replying.line 0).mayStart 0 = true ∧
      (replying.line 0).replies = [⟨1, 8, 0x82, none⟩] ++ ⟨0, 9, 0x83, some ⟨1, .ok, 0, []⟩⟩ :: [] ∧
      (∀ y ∈ [(⟨1, 8, 0x82, none⟩ : ReplySlot)], y.content = none) ∧
      (⟨0, 9, 0x83, some ⟨1, .ok, 0, []⟩⟩ : ReplySlot).content = some ⟨1, .ok, 0, []⟩) ∧
    (base.line 1).mayStart 0 = false := by decide +kernel

/-- Line 0 with a notice of this kind of claim 100, in this claim state, behind a reserved reply slot. -/
def noticing (st : ClaimState) (k : NoticeKind) : State :=
  ((place 100 st .exclusive 0 base).raiseNotice 100 k).updLine 0
    (fun ln => { ln with replies := [⟨1, 8, 0x82, none⟩] })

theorem witness_notice_frames :
    (∀ st k, (st, k) ∈ [(ClaimState.held, NoticeKind.granted), (.detached, .waitExpired),
        (.detached, .revoked), (.held, .waitExpired)] →
      ((noticing st k).line 0).mayStart 0 = true ∧
      (∀ x ∈ ((noticing st k).line 0).replies, x.content = none) ∧
      ((noticing st k).line 0).notices = [.claim 100] ∧ ((noticing st k).claim 100).notice = some k) ∧
    (((base.updLine 0 (fun ln => { ln with notices := [.sessionEnded 0] })).line 0).mayStart 0 = true ∧
      (∀ x ∈ ((base.updLine 0 (fun ln => { ln with notices := [.sessionEnded 0] })).line 0).replies,
        x.content = none) ∧
      ((base.updLine 0 (fun ln => { ln with notices := [.sessionEnded 0] })).line 0).notices =
        .sessionEnded 0 :: []) := by
  refine ⟨?_, by decide +kernel⟩
  intro st k h
  simp [List.mem_cons, Prod.mk.injEq, List.not_mem_nil, or_false] at h
  obtain ⟨rfl, rfl⟩ | ⟨rfl, rfl⟩ | ⟨rfl, rfl⟩ | ⟨rfl, rfl⟩ := h <;> decide +kernel

/-! ### Hypotheses met: deadlines -/

/-- Seven posted expiries and a due head. -/
def due : State := { base with deadlines := [⟨.lease 0, 1000⟩, ⟨.lease 1, 1001⟩],
                               expiries := List.replicate 7 ⟨.lease 3, 900⟩ }

theorem witness_posting :
    (due.deadlines = ⟨.lease 0, 1000⟩ :: [⟨.lease 1, 1001⟩] ∧ 1000 ≤ due.time ∧
      due.expiries.length < 8) ∧
    (∀ d ∈ base.deadlines.head?, base.time < d.time) ∧
    8 ≤ ({ due with expiries := List.replicate 8 ⟨.lease 3, 900⟩ } : State).expiries.length := by
  decide +kernel

theorem witness_insertion : [(⟨.lease 0, 5⟩ : Deadline), ⟨.lease 1, 5⟩, ⟨.lease 2, 6⟩].Pairwise
    (fun a b => a.time ≤ b.time) := by decide

/-- `base` with this expiry at the head of the queue. -/
def expiring (r : DeadlineRef) (t : Nat) (s : State) : State := { s with expiries := [⟨r, t⟩] }

theorem witness_lease_expiry :
    (ExpiryOffered (expiring (.lease 0) 1100 base) ⟨.lease 0, 1100⟩ ∧
      (expiring (.lease 0) 1100 base).service ≠ .halted ∧
      (expiring (.lease 0) 1100 base).service ≠ .clearing ∧
      ((expiring (.lease 0) 1100 base).session 0).state = .opened ∧
      ((expiring (.lease 0) 1100 base).session 0).leaseDeadline = some 1100) ∧
    (ExpiryOffered (expiring (.lease 0) 1099 base) ⟨.lease 0, 1099⟩ ∧
      (expiring (.lease 0) 1099 base).service ≠ .halted ∧
      ((expiring (.lease 0) 1099 base).session 0).leaseDeadline ≠ some 1099) ∧
    (ExpiryOffered (expiring (.lease 1) 9 base) ⟨.lease 1, 9⟩ ∧
      ((expiring (.lease 1) 9 base).session 1).state ≠ .opened) ∧
    (ExpiryOffered { expiring (.lease 0) 1100 base with service := .clearing } ⟨.lease 0, 1100⟩ ∧
      ({ expiring (.lease 0) 1100 base with service := .clearing } : State).service = .clearing) := by
  decide +kernel

/-- Claim 101 of `contended` waits until 1000. -/
def timed : State := contended.updClaim 101 (fun x => { x with waitDeadline := some 1000 })

theorem witness_wait_expiry :
    (ExpiryOffered (expiring (.wait 101 1) 1000 timed) ⟨.wait 101 1, 1000⟩ ∧
      (expiring (.wait 101 1) 1000 timed).service ≠ .halted ∧
      (expiring (.wait 101 1) 1000 timed).service ≠ .clearing ∧
      ((expiring (.wait 101 1) 1000 timed).claim 101).useCount = 1 ∧
      ((expiring (.wait 101 1) 1000 timed).claim 101).waitDeadline = some 1000 ∧
      ((expiring (.wait 101 1) 1000 timed).claim 101).state = .waiting) ∧
    (ExpiryOffered (expiring (.wait 100 1) 1000 upgrading) ⟨.wait 100 1, 1000⟩ ∧
      (expiring (.wait 100 1) 1000 upgrading).service ≠ .halted ∧
      (expiring (.wait 100 1) 1000 upgrading).service ≠ .clearing ∧
      ((expiring (.wait 100 1) 1000 upgrading).claim 100).useCount = 1 ∧
      ((expiring (.wait 100 1) 1000 upgrading).claim 100).waitDeadline = some 1000 ∧
      ((expiring (.wait 100 1) 1000 upgrading).claim 100).state = .held ∧
      ((expiring (.wait 100 1) 1000 upgrading).claim 100).upgrade = true) ∧
    (ExpiryOffered (expiring (.wait 101 2) 1000 timed) ⟨.wait 101 2, 1000⟩ ∧
      ((expiring (.wait 101 2) 1000 timed).claim 101).useCount ≠ 2) ∧
    (ExpiryOffered (expiring (.wait 101 1) 999 timed) ⟨.wait 101 1, 999⟩ ∧
      ((expiring (.wait 101 1) 999 timed).claim 101).waitDeadline ≠ some 999) ∧
    (ExpiryOffered (expiring (.wait 100 1) 7 contended) ⟨.wait 100 1, 7⟩ ∧
      ((expiring (.wait 100 1) 7 contended).claim 100).state ≠ .waiting ∧
      ((expiring (.wait 100 1) 7 contended).claim 100).upgrade ≠ true) := by decide +kernel

/-! ### Hypotheses met: claims and the grant pass -/

theorem witness_freeing : (contended.claim 100).state ≠ .free ∧ (contended.claim 101).state ≠ .free ∧
    (broken.claim 100).state ≠ .free := by decide +kernel

theorem witness_detaching :
    (contended.claim 100).state = .held ∧ (contended.claim 101).state = .waiting ∧
    (contended.claim 100).notice = none ∧
    ((contended.updClaim 100 (fun x => { x with notice := some .granted })).claim 100).notice =
      some .granted ∧
    (broken.claim 100).notice = some .revoked ∧
    ((contended.updClaim 101 (fun x => { x with notice := some .waitExpired })).claim 101).notice =
      some .waitExpired := by decide +kernel

/-- Claim 100 is the sole holder of entry 0 and its pending upgrade. -/
def ripe : State := upgrading.updEntry 0 (fun x => { x with holders := [100] })

theorem witness_pass_with_upgrade :
    ((upgrading.entry 0).upgrade = some 100 ∧
      (upgrading.session (upgrading.claim 100).session).state ≠ .ending ∧
      (upgrading.entry 0).holders ≠ [100]) ∧
    ((ripe.entry 0).upgrade = some 100 ∧
      (ripe.session (ripe.claim 100).session).state ≠ .ending ∧ (ripe.entry 0).holders = [100] ∧
      ripe.tokenCounter + 1 ≤ Config.tokenExhausted) ∧
    (({ ripe with tokenCounter := Config.tokenExhausted } : State).entry 0).holders = [100] ∧
    ({ ripe with tokenCounter := Config.tokenExhausted } : State).tokenCounter + 1 >
      Config.tokenExhausted := by decide +kernel

/-- Entry 0 of `contended` with its holder gone, so that the waiter is due. -/
def vacated : State := contended.updEntry 0 (fun x => { x with holders := [] })

theorem vacated_waiters : (vacated.entry 0).waiters = [101] := by decide +kernel

theorem witness_pass_from_head :
    (∀ c ∈ (vacated.entry 0).waiters, (vacated.session (vacated.claim c).session).state ≠ .ending) ∧
    (vacated.entry 0).upgrade = none ∧
    vacated.tokenCounter + (vacated.entry 0).waiters.length ≤ Config.tokenExhausted ∧
    (vacated.entry 0).waiters ≠ [] ∧ (contended.entry 0).holders ≠ [] ∧
    (0 < admitted ((vacated.ns (vacated.entry 0).key.ns).rules.sharerLimit)
      (vacated.entry 0).holders.length (vacated.entry 0).mode
      ((vacated.entry 0).waiters.map (fun c => (vacated.claim c).mode))) ∧
    (vacated.entry 0).waiters[0]? = some 101 ∧ (vacated.entry 0).waiters.count 101 = 1 := by
  rw [vacated_waiters]
  refine ⟨fun c hc => ?_, by decide +kernel⟩
  obtain rfl := List.mem_singleton.1 hc
  decide +kernel

/-- The state at the last token value. -/
def spent (s : State) : State := { s with tokenCounter := Config.tokenExhausted }

/-- The other passes: an entry left empty, a head of an ENDING session, heads that are granted or not, and an
exhausted counter beside holders and without them. -/
theorem witness_pass_one_head :
    ((vacated.updEntry 0 (fun x => { x with waiters := [] })).entry 0).holders = [] ∧
    ((vacated.updEntry 0 (fun x => { x with waiters := [] })).entry 0).waiters = [] ∧
    (vacated.entry 0).upgrade = none ∧ (vacated.entry 0).waiters = 101 :: [] ∧
    (vacated.entry 0).holders = [] ∧ (vacated.claim 101).state = .waiting ∧
    (vacated.claim 101).entry = 0 ∧ (vacated.claim 101).notice = none ∧
    (vacated.entry 0).waiters.Nodup ∧ (101 : ClaimIx) ∉ ([] : List ClaimIx) ∧
    ((vacated.updSession 1 (fun x => { x with state := .ending })).session 1).state = .ending ∧
    (vacated.session (vacated.claim 101).session).state ≠ .ending ∧
    vacated.tokenCounter + 1 ≤ Config.tokenExhausted ∧
    Config.tokenExhausted < (spent vacated).tokenCounter + 1 ∧
    (contended.entry 0).waiters = 101 :: [] ∧ (contended.entry 0).upgrade = none ∧
    ¬ ((contended.entry 0).holders = [] ∨ ((contended.claim 101).mode = .shared ∧
      (contended.entry 0).mode = .shared ∧
      (contended.entry 0).holders.length < (contended.ns (contended.entry 0).key.ns).rules.sharerLimit)) := by
  refine ⟨?_, ?_, ?_, ?_, ?_, ?_, ?_, ?_, ?_, ?_, ?_, ?_, ?_, ?_, ?_, ?_, ?_⟩ <;> decide +kernel

/-- A SHARED waiter on a SHARED entry with one holder: it is grantable beside that holder. -/
theorem witness_pass_shared_head :
    let s := lock .shared [100] [101] (place 101 .waiting .shared 1 (place 100 .held .shared 0 base))
    (s.entry 0).upgrade = none ∧ (s.entry 0).waiters = 101 :: [] ∧
    (s.session (s.claim 101).session).state ≠ .ending ∧
    ((s.claim 101).mode = .shared ∧ (s.entry 0).mode = .shared ∧
      (s.entry 0).holders.length < (s.ns (s.entry 0).key.ns).rules.sharerLimit) ∧
    (s.entry 0).holders ≠ [] ∧ Config.tokenExhausted < (spent s).tokenCounter + 1 := by decide +kernel

/-- The waiter of `vacated`, and the pending upgrade of `ripe`, in an ENDING session. -/
theorem witness_pass_ending :
    let s := vacated.updSession 1 (fun x => { x with state := .ending, endCause := .closed })
    let u := ripe.updSession 0 (fun x => { x with state := .ending, endCause := .closed })
    ((s.session (s.claim 101).session).state = .ending ∧ 101 ∈ (s.entry 0).waiters ∧
      (s.claim 101).state = .waiting ∧ (s.claim 101).entry = 0 ∧ (s.claim 101).state ≠ .held) ∧
    ((u.session (u.claim 100).session).state = .ending ∧ 100 ∉ (u.entry 0).waiters ∧
      (u.entry 0).upgrade = some 100) := by decide +kernel

/-! ### Hypotheses met: requests of stations -/

theorem all_mem {α : Type} {l : List α} {P : α → Prop} [DecidablePred P]
    (h : l.all (fun d => decide (P d)) = true) : ∀ d ∈ l, P d :=
  fun d hd => of_decide_eq_true (List.all_eq_true.1 h d hd)

/-- A state with another service state. -/
def serving (v : ServiceState) (s : State) : State := { s with service := v }

/-- A state with session 0 in this state. -/
def standing (v : SessionState) (s : State) : State := s.updSession 0 (fun x => { x with state := v })

theorem witness_refusals_by_service :
    (RequestOffered (serving .halted (ask 3 [] base)) 0 (frame 3 []) ∧
      RequestOffered (serving .clearing (ask 9 [] base)) 0 (frame 9 [])) ∧
    (RequestOffered (serving .suspended (ask 6 (keyBs ++ [2]) base)) 0 (frame 6 (keyBs ++ [2])) ∧
      (0x06#8 = 0x06#8 ∧ 6 ≤ (keyBs ++ [2]).length ∧ (keyBs ++ [2]).getD 5 0#8 = 2#8) ∧
      ((serving .suspended (ask 6 (keyBs ++ [2]) base)).session 0).state = .opened ∧
      (frame 6 (keyBs ++ [2])).incarnation =
        ((serving .suspended (ask 6 (keyBs ++ [2]) base)).session 0).incarnation) ∧
    (RequestOffered (serving .suspended (ask 4 [] (standing .idle base))) 0 (frame 4 []) ∧
      ((serving .suspended (ask 4 [] (standing .idle base))).session 0).state ≠ .opened) := by
  decide +kernel

theorem witness_refusals_by_session :
    (RequestOffered (ask 3 [] (standing .idle base)) 0 (frame 3 []) ∧ base.service = .running ∧
      (frame 3 []).kind ≠ 0x01#8 ∧ ((ask 3 [] (standing .idle base)).session 0).state = .idle) ∧
    (RequestOffered (serving .suspended (ask 6 keyBs (standing .ended base))) 0 (frame 6 keyBs) ∧
      ¬ (6 ≤ keyBs.length) ∧
      ((serving .suspended (ask 6 keyBs (standing .ended base))).session 0).state = .ended ∧
      (frame 6 keyBs).incarnation =
        ((serving .suspended (ask 6 keyBs (standing .ended base))).session 0).incarnation) ∧
    (RequestOffered (ask 2 [] (base.updSession 0 (fun x => { x with incarnation := 255 }))) 0
        (frame 2 []) ∧
      (frame 2 []).incarnation ≠
        ((ask 2 [] (base.updSession 0 (fun x => { x with incarnation := 255 }))).session 0).incarnation)
    := by decide +kernel

/-- Session 0 has answered a frame of this kind with tag 9. -/
def answered (kind : Byte) : State := base.updSession 0 (fun x => { x with cache := ⟨9, kind, ⟨.ok, []⟩, true⟩ })

theorem witness_duplicate : ∀ k ∈ [0x01#8, 0x03#8, 0xFF#8],
    RequestOffered (ask k [] (answered k)) 0 (frame k []) ∧
    serviceRefusal (ask k [] (answered k)).service (frame k []) = none ∧
    ((ask k [] (answered k)).session 0).state = .opened ∧
    (frame k []).incarnation = ((ask k [] (answered k)).session 0).incarnation ∧
    ((ask k [] (answered k)).session 0).cache.valid = true ∧
    ((ask k [] (answered k)).session 0).cache.tag = (frame k []).tag ∧
    ((ask k [] (answered k)).session 0).cache.kind = (frame k []).kind := by
  simp [List.not_mem_nil]
  decide +kernel

theorem witness_open :
    (RequestOffered (ask 1 [1, 0, 0] base) 0 (frame 1 [1, 0, 0]) ∧ base.service = .running ∧
      ((ask 1 [1, 0, 0] base).session 0).state = .opened ∧
      isDuplicate ((ask 1 [1, 0, 0] base).session 0) (frame 1 [1, 0, 0]) = false) ∧
    (RequestOffered (ask 1 [1, 0, 0] (standing .ending base)) 0 (frame 1 [1, 0, 0]) ∧
      ((ask 1 [1, 0, 0] (standing .ending base)).session 0).state = .ending) ∧
    (RequestOffered (ask 1 [1, 0] (standing .idle base)) 0 (frame 1 [1, 0]) ∧
      ((ask 1 [1, 0] (standing .idle base)).session 0).state = .idle ∧
      (frame 1 [1, 0]).payload.length ≠ 3) ∧
    (∀ b ∈ [0#8, 8#8, 1#8, 7#8],
      RequestOffered (ask 1 [b, 0xFF, 0xFF] (standing .ended base)) 0 (frame 1 [b, 0xFF, 0xFF]) ∧
      ((ask 1 [b, 0xFF, 0xFF] (standing .ended base)).session 0).state = .ended) ∧
    ((0#8).toNat = 0 ∧ 7 < (8#8).toNat ∧ 1 ≤ (1#8).toNat ∧ (7#8).toNat ≤ 7) ∧
    base.leaseMin ≤ base.leaseMax := by
  refine ⟨by decide +kernel, by decide +kernel, by decide +kernel, ?_, by decide, by decide +kernel⟩
  simp [List.not_mem_nil]
  decide +kernel

theorem witness_close : RequestAdmitted (ask 2 [] base) 0 (frame 2 []) ∧
    RequestAdmitted (ask 2 [0] base) 0 (frame 2 [0]) := by decide +kernel

theorem witness_renew_and_unknown : RequestAdmitted (ask 3 [] base) 0 (frame 3 []) ∧
    RequestAdmitted (ask 0 [] base) 0 (frame 0 []) ∧
    RequestAdmitted (ask 10 [1] base) 0 (frame 10 [1]) ∧
    RequestAdmitted (serving .suspended (ask 0xFF [] base)) 0 (frame 0xFF []) := by decide +kernel

/-- An ACQUIRE of the key in this mode and with this wait limit. -/
def acquire (m w : Byte) : List Byte := keyBs ++ [m, 0, w]

/-- Session 1 alone shares entry 0. -/
def shared1 : State := lock .shared [101] [] (place 101 .held .shared 1
  (base.updSession 1 (fun x => { x with state := .opened, incarnation := 1, ring := 1 })))

theorem witness_acquire_granted :
    ((RequestAdmitted (ask 4 (acquire 2 0) base) 0 (frame 4 (acquire 2 0)) ∧
      AcquirePasses (ask 4 (acquire 2 0) base) 0 (frame 4 (acquire 2 0)) ⟨key, .exclusive, 0⟩ ∧
      ({ base with tokenCounter := 281474976710654 } : State).tokenCounter + 1 ≤ 281474976710655 ∧
      base.lookup key = none ∧ base.lowestFreeEntry = some 0 ∧
      (base.ns 0).occupied < (base.ns 0).rules.quota ∧ (base.chain (bucketOf key)).length < 8) ∧
    (RequestAdmitted (ask 4 (acquire 1 0) shared1) 0 (frame 4 (acquire 1 0)) ∧
      AcquirePasses (ask 4 (acquire 1 0) shared1) 0 (frame 4 (acquire 1 0)) ⟨key, .shared, 0⟩ ∧
      shared1.lookup key = some 0 ∧ shared1.ownClaim 0 0 = .none ∧ (shared1.entry 0).mode = .shared ∧
      (shared1.entry 0).upgrade = none ∧ (shared1.entry 0).waiters = [] ∧
      (shared1.entry 0).holders.length < (shared1.ns 0).rules.sharerLimit)) ∧
    (∃ free, base.freeList = 0 :: free) ∧ ∃ free, shared1.freeList = 0 :: free :=
  ⟨by decide +kernel, exists_tail (by decide +kernel), exists_tail (by decide +kernel)⟩

/-- Sessions 1 and 2 stand on entry 0 as `contended` says of sessions 1 and 0; session 0 does not. -/
def apart : State := contended.updClaim 100 (fun x => { x with session := 2 })

theorem witness_acquire_queued :
    ((∀ w ∈ [1#8, 0xFF#8], RequestAdmitted (ask 4 (acquire 2 w) apart) 0 (frame 4 (acquire 2 w)) ∧
      AcquirePasses (ask 4 (acquire 2 w) apart) 0 (frame 4 (acquire 2 w)) ⟨key, .exclusive, w.toNat⟩) ∧
    acquirePayload (keyBs ++ [2, 0xFF, 0xFF]) = some ⟨key, .exclusive, 65535⟩ ∧
    apart.lookup key = some 0 ∧ apart.ownClaim 0 0 = .none ∧ NotGrantableNow apart 0 .exclusive ∧
    (apart.entry 0).waiters.length < (apart.ns 0).rules.queueLimit) ∧
    ∃ free, apart.freeList = 0 :: free := by
  refine ⟨?_, exists_tail (by decide +kernel)⟩
  simp [List.not_mem_nil]
  decide +kernel

theorem witness_acquire_refused :
    (RequestAdmitted (ask 4 [] base) 0 (frame 4 []) ∧ acquirePayload (frame 4 []).payload = none) ∧
    (RequestAdmitted (ask 4 [15, 0, 0, 0, 5, 2, 0, 0] base) 0 (frame 4 [15, 0, 0, 0, 5, 2, 0, 0]) ∧
      acquirePayload [15, 0, 0, 0, 5, 2, 0, 0] = some ⟨⟨15, 5⟩, .exclusive, 0⟩ ∧
      (base.ns 15).state ≠ .enabled) ∧
    (RequestAdmitted (ask 4 (acquire 1 0) base) 0 (frame 4 (acquire 1 0)) ∧
      (base.ns 0).state = .enabled ∧
      (base.ns 0).rules.sharedLimit < ((base.updSession 0 (fun x => { x with ring := 2 })).session 0).ring)
    ∧
    (AcquirePasses (ask 4 (acquire 2 0) base) 0 (frame 4 (acquire 2 0)) ⟨key, .exclusive, 0⟩ ∧
      base.lookup key = none ∧
      (base.ns 0).rules.quota ≤ ((base.updNs 0 (fun x => { x with occupied := 2048 })).ns 0).occupied ∧
      8 ≤ ((base.updChain 5 (fun _ => [0, 1, 2, 3, 4, 5, 6, 7])).chain (bucketOf key)).length ∧
      (base.updChain 5 (fun _ => [0, 1, 2, 3, 4, 5, 6, 7])).lookup key = none ∧
      base.lowestFreeEntry ≠ none ∧ ({ base with freeList := [] } : State).freeList = [] ∧
      base.freeList ≠ [] ∧
      281474976710655 < ({ base with tokenCounter := 281474976710655 } : State).tokenCounter + 1) ∧
    (AcquirePasses (ask 4 (acquire 2 0) contended) 0 (frame 4 (acquire 2 0)) ⟨key, .exclusive, 0⟩ ∧
      contended.lookup key = some 0 ∧ contended.ownClaim 0 0 ≠ .none) ∧
    (AcquirePasses (ask 4 (acquire 1 0) apart) 0 (frame 4 (acquire 1 0)) ⟨key, .shared, 0⟩ ∧
      apart.lookup key = some 0 ∧ apart.ownClaim 0 0 = .none ∧ NotGrantableNow apart 0 .shared ∧
      (apart.updNs 0 (fun x => { x with rules := { x.rules with queueLimit := 1 } })).ownClaim 0 0 = .none
      ∧ ((apart.updNs 0 (fun x => { x with rules := { x.rules with queueLimit := 1 } })).ns
        0).rules.queueLimit ≤ (apart.entry 0).waiters.length) ∧
    (AcquirePasses (ask 4 (acquire 1 0) shared1) 0 (frame 4 (acquire 1 0)) ⟨key, .shared, 0⟩ ∧
      shared1.lookup key = some 0 ∧ shared1.ownClaim 0 0 = .none ∧
      ¬ NotGrantableNow shared1 0 .shared) := by
  refine ⟨?_, ?_, ?_, ⟨?_, ?_, ?_, ?_, ?_, ?_, ?_, ?_, ?_⟩, ?_, ?_, ?_⟩ <;> decide +kernel

theorem witness_release :
    (RequestAdmitted (ask 5 keyBs contended) 0 (frame 5 keyBs) ∧ keyPayload keyBs = some key ∧
      (ask 5 keyBs contended).ownClaimOn key 0 = .held 100) ∧
    (RequestAdmitted (ask 5 keyBs upgrading) 0 (frame 5 keyBs) ∧
      (ask 5 keyBs upgrading).ownClaimOn key 0 = .upgrading 100) ∧
    (RequestAdmitted (ask 5 keyBs base) 0 (frame 5 keyBs) ∧
      (ask 5 keyBs base).ownClaimOn key 0 = .none) ∧
    (RequestAdmitted (ask 5 [16, 0, 0, 0, 5] base) 0 (frame 5 [16, 0, 0, 0, 5]) ∧
      keyPayload [16, 0, 0, 0, 5] = none) := by decide +kernel

/-- Session 0 is the waiter of entry 0. -/
def waiting0 : State := apart.updClaim 101 (fun x => { x with session := 0 })

theorem witness_cancel :
    (RequestAdmitted (ask 7 keyBs waiting0) 0 (frame 7 keyBs) ∧
      (ask 7 keyBs waiting0).ownClaimOn key 0 = .waiting 101) ∧
    (RequestAdmitted (ask 7 keyBs upgrading) 0 (frame 7 keyBs) ∧
      (ask 7 keyBs upgrading).ownClaimOn key 0 = .upgrading 100) ∧
    (RequestAdmitted (ask 7 keyBs contended) 0 (frame 7 keyBs) ∧
      (ask 7 keyBs contended).ownClaimOn key 0 = .held 100) ∧
    (RequestAdmitted (ask 7 [] base) 0 (frame 7 []) ∧ keyPayload [] = none) := by decide +kernel

/-- Session 0 alone shares entry 0. -/
def sole : State := lock .shared [100] [] (place 100 .held .shared 0 base)

theorem witness_convert :
    (RequestAdmitted (ask 6 (acquire 2 0) contended) 0 (frame 6 (acquire 2 0)) ∧
      ConvertPasses (ask 6 (acquire 2 0) contended) 0 (frame 6 (acquire 2 0)) ⟨key, .exclusive, 0⟩ 100 ∧
      (contended.claim 100).mode = .exclusive) ∧
    (RequestAdmitted (ask 6 (acquire 1 0) contended) 0 (frame 6 (acquire 1 0)) ∧
      ConvertPasses (ask 6 (acquire 1 0) contended) 0 (frame 6 (acquire 1 0)) ⟨key, .shared, 0⟩ 100) ∧
    (RequestAdmitted (ask 6 (acquire 2 0) sole) 0 (frame 6 (acquire 2 0)) ∧
      ConvertPasses (ask 6 (acquire 2 0) sole) 0 (frame 6 (acquire 2 0)) ⟨key, .exclusive, 0⟩ 100 ∧
      (sole.claim 100).mode = .shared ∧ (sole.claim 100).entry = 0 ∧ (sole.entry 0).holders = [100] ∧
      sole.tokenCounter + 1 ≤ 281474976710655 ∧
      281474976710655 < ({ sole with tokenCounter := 281474976710655 } : State).tokenCounter + 1) ∧
    (RequestAdmitted (ask 6 (acquire 2 1) sharing) 0 (frame 6 (acquire 2 1)) ∧
      ConvertPasses (ask 6 (acquire 2 1) sharing) 0 (frame 6 (acquire 2 1)) ⟨key, .exclusive, 1⟩ 100 ∧
      ConvertPasses (ask 6 (acquire 2 0) sharing) 0 (frame 6 (acquire 2 0)) ⟨key, .exclusive, 0⟩ 100 ∧
      (sharing.claim 100).mode = .shared ∧ (sharing.claim 100).entry = 0 ∧
      (sharing.entry 0).holders ≠ [100] ∧ (sharing.entry 0).upgrade = none) ∧
    (ConvertPasses (ask 6 (acquire 2 1) upgrading) 0 (frame 6 (acquire 2 1)) ⟨key, .exclusive, 1⟩ 100 ∧
      (upgrading.entry 0).upgrade ≠ none) := by
  refine ⟨?_, ?_, ?_, ?_, ?_⟩ <;> decide +kernel

/-- The refusals before the claim: payload, namespace, ring, and no claim held. -/
theorem witness_convert_refused :
    (RequestAdmitted (ask 6 keyBs base) 0 (frame 6 keyBs) ∧ acquirePayload (frame 6 keyBs).payload = none) ∧
    (RequestAdmitted (ask 6 [15, 0, 0, 0, 5, 2, 0, 0] base) 0 (frame 6 [15, 0, 0, 0, 5, 2, 0, 0]) ∧
      acquirePayload [15, 0, 0, 0, 5, 2, 0, 0] = some ⟨⟨15, 5⟩, .exclusive, 0⟩ ∧
      acquirePayload [15, 0, 0, 0, 5, 1, 0, 0] = some ⟨⟨15, 5⟩, .shared, 0⟩ ∧
      (base.ns 15).state ≠ .enabled ∧ (base.ns 15).state = .disabled) ∧
    (RequestAdmitted (ask 6 (acquire 2 0) base) 0 (frame 6 (acquire 2 0)) ∧
      acquirePayload (acquire 2 0) = some ⟨key, .exclusive, 0⟩ ∧ (base.ns 0).state = .enabled ∧
      (base.ns 0).rules.exclusiveLimit < ((base.updSession 0 (fun x => { x with ring := 2 })).session 0).ring ∧
      (base.session 0).ring ≤ (base.ns 0).rules.exclusiveLimit) ∧
    (acquirePayload (acquire 1 0) = some ⟨key, .shared, 0⟩ ∧ (base.ns 0).state ≠ .disabled ∧
      base.ownClaimOn key 0 = .none ∧ waiting0.ownClaimOn key 0 = .waiting 101) := by
  refine ⟨?_, ?_, ?_, ?_⟩ <;> decide +kernel

theorem witness_query :
    (RequestAdmitted (ask 8 [] base) 0 (frame 8 []) ∧ keyPayload [] = none) ∧
    (RequestAdmitted (ask 8 [15, 0, 0, 0, 5] base) 0 (frame 8 [15, 0, 0, 0, 5]) ∧
      keyPayload [15, 0, 0, 0, 5] = some ⟨15, 5⟩ ∧ (base.ns 15).state = .disabled) ∧
    (RequestAdmitted (ask 8 keyBs base) 0 (frame 8 keyBs) ∧ keyPayload keyBs = some key ∧
      (base.ns 0).state ≠ .disabled ∧ (base.session 0).ring ≤ (base.ns 0).rules.queryLimit ∧
      base.lookup key = none ∧
      (base.ns 0).rules.queryLimit < ((base.updSession 0 (fun x => { x with ring := 2 })).session 0).ring)
    ∧ (RequestAdmitted (ask 8 keyBs contended) 0 (frame 8 keyBs) ∧ contended.lookup key = some 0) := by
  decide +kernel

/-- The elements of a group of the key and of (0, 6). -/
def pair : List GroupElement := [⟨key, .exclusive⟩, ⟨⟨0, 6⟩, .shared⟩]

/-- Their GROUP payload. -/
def pairBs : List Byte := [2] ++ keyBs ++ [2] ++ [0, 0, 0, 0, 6, 1]

/-- The frame of `pairBs` heads line 0's queue. -/
def asked (s : State) : State := ask 9 pairBs s

/-- Both elements pass their checks where namespace 0 is ENABLED, session 0 has ring 1 at most and neither key
has an entry. -/
theorem pair_passes (s : State) (hn : (s.ns 0).state = .enabled)
    (hx : (s.session 0).ring ≤ (s.ns 0).rules.exclusiveLimit)
    (hs : (s.session 0).ring ≤ (s.ns 0).rules.sharedLimit) (h5 : s.lookup key = none)
    (h6 : s.lookup ⟨0, 6⟩ = none) : ∀ el ∈ pair, ∀ st, ¬ ElementFails s 0 el st := by
  intro el hel st h
  rcases List.mem_cons.1 hel with rfl | hel
  · rcases h with ⟨h, -⟩ | ⟨-, h, -⟩ | ⟨-, -, e, h, -⟩
    · exact h hn
    · exact absurd hx (Nat.not_le.2 h)
    · rw [h5] at h; cases h
  · rw [List.mem_singleton] at hel; subst hel
    rcases h with ⟨h, -⟩ | ⟨-, h, -⟩ | ⟨-, -, e, h, -⟩
    · exact h hn
    · exact absurd hs (Nat.not_le.2 h)
    · rw [h6] at h; cases h

/-- A refused size, a namespace of 16 in element 2, and a key that comes twice; and a payload that passes. -/
theorem witness_group_payload :
    (∀ bs ∈ [[], pairBs, [2] ++ keyBs ++ [2] ++ [16, 0, 0, 0, 6, 1], [2] ++ keyBs ++ [2] ++ keyBs ++ [1]],
      RequestAdmitted (ask 9 bs base) 0 (frame 9 bs)) ∧
    ¬ ([] : List Byte).length = 1 + 6 * (([] : List Byte).getD 0 0#8).toNat ∧
    (pairBs.length = 1 + 6 * 2 ∧ pairBs.getD 0 0#8 = 2#8) ∧
    (ElementInRange ([2] ++ keyBs ++ [2] ++ [16, 0, 0, 0, 6, 1]) 0 ∧
      ¬ ElementInRange ([2] ++ keyBs ++ [2] ++ [16, 0, 0, 0, 6, 1]) 1) ∧
    ((∀ k, k < 2 → ElementInRange ([2] ++ keyBs ++ [2] ++ keyBs ++ [1]) k) ∧
      SameKeyAt ([2] ++ keyBs ++ [2] ++ keyBs ++ [1]) 0 1) ∧
    (∀ k, k < 2 → ElementInRange pairBs k) ∧ (∀ k, k < 2 → ∀ j, j < k → ¬ SameKeyAt pairBs j k) := by
  refine ⟨all_mem (by decide +kernel), ?_⟩
  decide +kernel

theorem witness_group_elements : pair.length = 2 ∧
    (∀ k el, pair[k]? = some el → ElementAt pairBs k el) ∧
    RequestAdmitted (asked contended) 0 (frame 9 pairBs) ∧
    ElementFails (asked contended) 0 ⟨key, .exclusive⟩ .alreadyClaimed := by
  refine ⟨rfl, fun k el h => ?_, by decide +kernel,
    .inr (.inr ⟨by decide +kernel, by decide +kernel, 0, by decide +kernel, .inl ⟨by decide +kernel, rfl⟩⟩)⟩
  match k, h with
  | 0, h => injection h with h; subst h; exact ⟨rfl, rfl, rfl⟩
  | 1, h => injection h with h; subst h; exact ⟨rfl, rfl, rfl⟩
  | k + 2, h => simp [pair] at h

/-- Elements that pass, in a namespace of quota 1, with a full chain 5, with no free entry, with one free
record, with one token left, and with room for both. -/
theorem witness_group_resources :
    (∀ s ∈ [base.updNs 0 (fun x => { x with rules := { x.rules with quota := 1 } }),
        base.updChain 5 (fun _ => List.replicate 8 1),
        { base with entries := Vector.replicate 2048 { Entry.reset with occupied := true } },
        { base with freeList := [0] }, { base with tokenCounter := 281474976710654 }, base],
      RequestAdmitted (asked s) 0 (frame 9 pairBs) ∧ ((asked s).ns 0).state = .enabled ∧
        ((asked s).session 0).ring = 1 ∧ ((asked s).ns 0).rules.exclusiveLimit = 1 ∧
        ((asked s).ns 0).rules.sharedLimit = 1 ∧ (asked s).lookup key = none ∧
        (asked s).lookup ⟨0, 6⟩ = none) ∧
    1 < (base.ns 0).occupied + [key, ⟨0, 6⟩].countP (fun j : Key => j.ns == 0) ∧
    8 < (List.replicate 8 (1 : EntryIx)).length + [key, ⟨0, 6⟩].countP (fun j => bucketOf j == 5) ∧
    bucketOf key = 5 ∧ (base.ns 0).rules.quota = 2048 ∧
    (Vector.replicate 2048 { Entry.reset with occupied := true }).toList.countP (fun x => !x.occupied) < 2 ∧
    base.entries.toList.countP (fun x => !x.occupied) = 2048 ∧ 2 ≤ base.freeList.length ∧
    281474976710655 < 281474976710654 + 2 ∧ base.tokenCounter + 2 ≤ 281474976710655 := by
  refine ⟨all_mem (by decide +kernel), by decide +kernel⟩

theorem witness_group_element : (∃ free, base.freeList = 0 :: free) ∧ base.lookup key = none ∧
    base.lowestFreeEntry = some 0 ∧ sharing.lookup key = some 0 ∧
    (⟨key, .shared⟩ : GroupElement).mode = .shared :=
  ⟨exists_tail (by decide +kernel), by decide +kernel, by decide +kernel, by decide +kernel, rfl⟩

theorem witness_other_lines : (∃ t, exec (requestCommand 0x05 0) (ask 5 keyBs contended) = .next t) ∧
    (1 : LineIx) ≠ 0 ∧ (16 : SlotIx) ≠ slotOf 0 (stationOf 16) :=
  ⟨exists_next (by decide +kernel), by decide, by decide⟩

/-! ### Hypotheses met: management commands -/

theorem witness_token_base :
    (CommandOffered (order 1 [0, 0, 0, 0, 0, 1] State.reset) 0x01#8 ∧ State.reset.service = .halted ∧
      (order 1 [0, 0, 0, 0, 0, 1] State.reset).param 0 6 ≠ 0) ∧
    (CommandOffered (order 1 [0xFF, 0xFF, 0xFF, 0xFF, 0xFF, 0xFF] base) 0x01#8 ∧
      base.service ≠ .halted ∧
      base.tokenCounter < (order 1 [0xFF, 0xFF, 0xFF, 0xFF, 0xFF, 0xFF] base).param 0 6) ∧
    (CommandOffered (order 1 [0, 0, 0, 0, 0, 7] base) 0x01#8 ∧
      ¬ base.tokenCounter < (order 1 [0, 0, 0, 0, 0, 7] base).param 0 6) := by decide +kernel

theorem witness_service_commands :
    (∀ v ∈ [ServiceState.halted, .running, .suspended],
      CommandOffered (serving v (order 2 [] base)) 0x02#8 ∧
      CommandOffered (serving v (order 3 [] base)) 0x03#8 ∧
      CommandOffered (serving v (order 4 [] base)) 0x04#8) ∧
    CommandOffered (order 2 [] State.reset) 0x02#8 ∧ State.reset.tokenLoaded = false ∧
    base.tokenLoaded = true := by
  refine ⟨?_, by decide +kernel⟩
  simp [List.not_mem_nil]
  decide +kernel

theorem witness_namespaces_defined :
    (CommandOffered (order 0x10 [16] base) 0x10#8 ∧ (order 0x10 [16] base).paramNs = none ∧
      CommandOffered (order 0x11 [16] base) 0x11#8 ∧ (order 0x11 [16] base).paramNs = none) ∧
    (CommandOffered (order 0x10 [0, 1, 1, 7, 16, 32, 8, 0] base) 0x10#8 ∧
      (order 0x10 [0, 1, 1, 7, 16, 32, 8, 0] base).paramNs = some 0 ∧ (base.ns 0).state ≠ .disabled) ∧
    (CommandOffered (order 0x10 [15, 1, 1, 7, 16, 32, 8, 0] base) 0x10#8 ∧
      (order 0x10 [15, 1, 1, 7, 16, 32, 8, 0] base).paramNs = some 15 ∧
      (base.ns 15).state = .disabled ∧
      (order 0x10 [15, 1, 1, 7, 16, 32, 8, 0] base).param 6 2 = 2048 ∧
      (order 0x10 [15, 1, 1, 7, 17, 32, 8, 0] base).param 4 1 = 17) ∧
    (CommandOffered (order 0x11 [0, 1, 1, 1, 8, 8, 0, 1] contended) 0x11#8 ∧
      (order 0x11 [0, 1, 1, 1, 8, 8, 0, 1] contended).paramNs = some 0 ∧
      ((order 0x11 [0, 1, 1, 1, 8, 8, 0, 1] contended).ns 0).occupied ≤
        (order 0x11 [0, 1, 1, 1, 8, 8, 0, 1] contended).param 6 2 ∧
      (contended.ns 0).occupied ≠ 0 ∧
      (order 0x11 [0, 1, 1, 1, 7, 8, 0, 1] contended).param 4 1 < (contended.ns 0).rules.sharerLimit ∧
      (base.ns 0).occupied = 0) := by decide +kernel

theorem witness_namespaces_disabled :
    (CommandOffered (order 0x12 [0, 3] base) 0x12#8 ∧ (order 0x12 [0, 3] base).paramNs = some 0 ∧
      (order 0x12 [0, 3] base).param 1 1 ≠ 1 ∧ (order 0x12 [0, 3] base).param 1 1 ≠ 2) ∧
    (CommandOffered (order 0x12 [16, 1] base) 0x12#8 ∧ (order 0x12 [16, 1] base).param 1 1 = 1 ∧
      (order 0x12 [16, 1] base).paramNs = none) ∧
    (CommandOffered (order 0x12 [15, 2] base) 0x12#8 ∧ (order 0x12 [15, 2] base).param 1 1 = 2 ∧
      (order 0x12 [15, 2] base).paramNs = some 15 ∧ (base.ns 15).state = .disabled) ∧
    (((base.updNs 0 (fun x => { x with state := .draining })).ns 0).state = .draining ∧
      (base.ns 0).state = .enabled ∧ (base.ns 0).revokeSweep = false ∧ (base.ns 0).occupied = 0 ∧
      (contended.ns 0).state = .enabled ∧ (contended.ns 0).revokeSweep = false ∧
      0 < (contended.ns 0).occupied ∧ CommandOffered (order 0x12 [0, 1] contended) 0x12#8) := by
  decide +kernel

theorem witness_evict :
    (CommandOffered (order 0x20 [6, 0] base) 0x20#8 ∧ (order 0x20 [6, 0] base).paramSlot = none ∧
      (order 0x20 [5, 16] base).paramSlot = none) ∧
    (CommandOffered (order 0x20 [5, 15] base) 0x20#8 ∧ (order 0x20 [5, 15] base).paramSlot = some 95 ∧
      (base.session 95).state = .idle) ∧
    (CommandOffered (order 0x20 [0, 0] base) 0x20#8 ∧ (order 0x20 [0, 0] base).paramSlot = some 0 ∧
      (base.session 0).state = .opened ∧ ((standing .ending base).session 0).state = .ending ∧
      ((standing .ended base).session 0).state = .ended) := by decide +kernel

theorem witness_inspections :
    (CommandOffered (order 0x21 [6, 0] base) 0x21#8 ∧ (order 0x21 [6, 0] base).paramSlot = none) ∧
    (order 0x21 [5, 15] base).paramSlot = some 95 ∧
    (CommandOffered (order 0x31 [16, 0, 0, 0, 5, 0] base) 0x31#8 ∧
      (order 0x31 [16, 0, 0, 0, 5, 0] base).paramNs = none ∧
      15 < (order 0x31 [0, 0, 0, 0, 5, 16] base).param 5 1) ∧
    (CommandOffered (order 0x31 (keyBs ++ [15]) contended) 0x31#8 ∧
      (order 0x31 (keyBs ++ [15]) contended).paramNs = some 0 ∧
      (order 0x31 (keyBs ++ [15]) contended).param 5 1 ≤ 15 ∧
      (order 0x31 (keyBs ++ [15]) contended).param 1 4 = 5 ∧
      (order 0x31 (keyBs ++ [15]) contended).lookup ⟨0, 5⟩ = some 0 ∧
      (order 0x31 (keyBs ++ [15]) base).lookup ⟨0, 5⟩ = none) := by decide +kernel

theorem witness_locks_revoked :
    (CommandOffered (order 0x30 [16, 0, 0, 0, 5, 1] base) 0x30#8 ∧
      (order 0x30 [16, 0, 0, 0, 5, 1] base).paramNs = none ∧
      (order 0x30 [16, 0, 0, 0, 5, 1] base).param 5 1 ≠ 2) ∧
    ((order 0x30 (keyBs ++ [3]) base).param 5 1 ≠ 1 ∧ (order 0x30 (keyBs ++ [3]) base).param 5 1 ≠ 2) ∧
    ((order 0x30 (keyBs ++ [1]) base).paramNs = some 0 ∧ (order 0x30 (keyBs ++ [1]) base).param 5 1 = 1 ∧
      (order 0x30 (keyBs ++ [1]) base).lookup key = none) ∧
    (CommandOffered (order 0x30 (keyBs ++ [2]) contended) 0x30#8 ∧
      (order 0x30 (keyBs ++ [2]) contended).param 5 1 = 2 ∧
      (order 0x30 (keyBs ++ [2]) contended).param 1 4 = 5 ∧
      (order 0x30 (keyBs ++ [2]) contended).lookup ⟨0, 5⟩ = some 0) := by decide +kernel

theorem witness_revoked_claims :
    100 ∈ [(100 : ClaimIx), 101] ∧ (99 : ClaimIx) ∉ [(100 : ClaimIx), 101] ∧
    [(100 : ClaimIx), 101].count 100 = 1 ∧ (contended.claim 100).state = .held ∧
    (contended.claim 101).state = .waiting := by decide +kernel

/-- The parameter bytes of LINE CONFIG lie in the ranges of Table 8.1. -/
abbrev fits (s : State) : Prop := 1 ≤ s.param 1 2 ∧ s.param 3 1 ≤ 2 ∧ s.param 4 1 ≤ 1 ∧
  1 ≤ s.param 5 1 ∧ s.param 5 1 ≤ 16 ∧ 2 ≤ s.param 6 1 ∧ s.param 6 1 ≤ 32 ∧
  1 ≤ s.param 7 1 ∧ s.param 7 1 ≤ 7 ∧ s.param 8 1 ≤ 1

theorem witness_lines_configured :
    (∀ c ∈ [0x40#8, 0x41#8, 0x42#8, 0x43#8], CommandOffered (order c [6] base) c ∧
      (order c [6] base).paramLine = none ∧ CommandOffered (order c [5] base) c ∧
      (order c [5] base).paramLine = some 5 ∧ CommandOffered (order c [0] base) c ∧
      (order c [0] base).paramLine = some 0) ∧
    (base.line 5).state = .disabled ∧ (base.line 0).state = .active ∧ (broken.line 0).state = .restarting ∧
    (∀ ps ∈ [[5, 0, 1, 0, 0, 1, 2, 1, 0], [5, 255, 255, 2, 1, 16, 32, 7, 1]],
      CommandOffered (order 0x40 ps base) 0x40#8 ∧ fits (order 0x40 ps base)) ∧
    ∀ ps ∈ [[5, 0, 0, 0, 0, 1, 2, 1, 0], [5, 0, 1, 3, 0, 1, 2, 1, 0], [5, 0, 1, 0, 2, 1, 2, 1, 0],
        [5, 0, 1, 0, 0, 17, 2, 1, 0], [5, 0, 1, 0, 0, 1, 33, 1, 0], [5, 0, 1, 0, 0, 1, 2, 8, 0],
        [5, 0, 1, 0, 0, 1, 2, 1, 2]],
      CommandOffered (order 0x40 ps base) 0x40#8 ∧ ¬ fits (order 0x40 ps base) := by
  refine ⟨?_, by decide +kernel⟩
  simp [List.not_mem_nil]
  decide +kernel

theorem witness_lines_restarted :
    (CommandOffered (order 0x43 [0] contended) 0x43#8 ∧ (order 0x43 [0] contended).paramLine = some 0 ∧
      ((order 0x43 [0] contended).line 0).state = .active) ∧
    (CommandOffered (order 0x42 [5] base) 0x42#8 ∧ (order 0x42 [5] base).paramLine = some 5 ∧
      ((order 0x42 [5] base).line 5).state = .disabled) ∧
    (∃ s : State, CommandOffered s 0x42#8 ∧ s.paramLine = some 0 ∧ (s.line 0).state = .restarting) ∧
    lineOf 0 = 0 ∧ (broken.session 0).state = .opened ∧ (broken.session 1).state = .ending ∧
    (broken.session 2).state = .ended ∧ .sessionEnded 2 ∈ (broken.line 0).notices ∧
    .claim 100 ∈ (broken.line 0).notices := by
  refine ⟨by decide +kernel, by decide +kernel, ⟨order 0x42 [0] (base.updLine 0 (fun ln =>
    { ln with state := .restarting })), by decide +kernel⟩, by decide +kernel⟩

theorem witness_settings :
    (CommandOffered (order 0x50 [0, 50, 0, 50] base) 0x50#8 ∧
      50 ≤ (order 0x50 [0, 50, 0, 50] base).param 0 2 ∧
      (order 0x50 [0, 50, 0, 50] base).param 0 2 ≤ (order 0x50 [0, 50, 0, 50] base).param 2 2 ∧
      ¬ (50 ≤ (order 0x50 [0, 49, 0, 50] base).param 0 2)) ∧
    (CommandOffered (order 0x51 [0x10, 0] base) 0x51#8 ∧ (order 0x51 [0x10, 0] base).param 0 2 ≤ 4096 ∧
      4096 < (order 0x51 [0x10, 1] base).param 0 2) ∧
    (CommandOffered (order 0x60 [5] base) 0x60#8 ∧ (order 0x60 [5] base).paramLine = some 5 ∧
      (order 0x60 [6] base).param 0 1 = 6 ∧ 6 < (order 0x60 [7] base).param 0 1) ∧
    ((order 0x05 [] base).arbiterChoice = some srcManagement ∧
      (order 0x05 [] base).commandCode ∉ [0x01#8, 0x02#8, 0x03#8, 0x04#8, 0x10#8, 0x11#8, 0x12#8, 0x20#8,
        0x21#8, 0x30#8, 0x31#8, 0x40#8, 0x41#8, 0x42#8, 0x43#8, 0x50#8, 0x51#8, 0x60#8]) := by
  decide +kernel

/-! ### Hypotheses met: sweeps -/

/-- Session 0 is ENDING with this cause and its sweep stands here. -/
def sweeping (c : EndCause) (g : EndingSweep) (s : State) : State :=
  s.updSession 0 (fun x => { x with state := .ending, endCause := c, endingSweep := g })

/-- Session 0 has a DETACHED claim 100 whose notice waits. -/
def leaving : State :=
  (place 100 .detached .exclusive 0 base).raiseNotice 100 .revoked

theorem witness_ending_step :
    (SweepOffered (sweeping .closed .starting contended) (sweepEnding 0) ∧
      ((sweeping .closed .starting contended).session 0).claimList = [] ++ 100 :: [] ∧
      ((sweeping .closed .starting contended).claim 100).state = .held) ∧
    (∀ d ∈ ((sweeping .closed .starting contended).session 0).claimList,
      ((sweeping .closed .starting contended).claim d).state ≠ .waiting ∧
      ((sweeping .closed .starting contended).claim d).state ≠ .detached) ∧
    (SweepOffered (sweeping .closed .running (place 102 .waiting .shared 0 contended)) (sweepEnding 0) ∧
      ((sweeping .closed .running (place 102 .waiting .shared 0 contended)).session 0).claimList =
        [100] ++ 102 :: [] ∧
      ((sweeping .closed .running (place 102 .waiting .shared 0 contended)).claim 102).state = .waiting) ∧
    (∀ d ∈ [(100 : ClaimIx)],
      ((sweeping .closed .running (place 102 .waiting .shared 0 contended)).claim d).state ≠ .waiting) ∧
    (SweepOffered (sweeping .evicted .starting leaving) (sweepEnding 0) ∧
      ((sweeping .evicted .starting leaving).session 0).claimList = [] ++ 100 :: [] ∧
      ((sweeping .evicted .starting leaving).claim 100).state = .detached) ∧
    (∀ d ∈ ((sweeping .evicted .starting leaving).session 0).claimList,
      ((sweeping .evicted .starting leaving).claim d).state ≠ .waiting) :=
  ⟨by decide +kernel, all_mem (by decide +kernel), by decide +kernel, all_mem (by decide +kernel),
    by decide +kernel, all_mem (by decide +kernel)⟩

theorem witness_ending_final :
    (SweepOffered (sweeping .closed .starting base) (sweepEnding 0) ∧
      ((sweeping .closed .starting base).session 0).claimList = [] ∧
      ((sweeping .closed .starting base).session 0).endCause ≠ .none) ∧
    (SweepOffered (sweeping .lineBreak .running base) (sweepEnding 0) ∧
      ((sweeping .lineBreak .running base).session 0).claimList = [] ∧
      ((sweeping .lineBreak .running base).session 0).noticeSuppressed = false ∧
      ((sweeping .lineBreak .running base).line (lineOf 0)).state = .active) ∧
    (SweepOffered { sweeping .evicted .running base with longCommand := some (.evict 0) } (sweepEnding 0) ∧
      ({ sweeping .evicted .running base with longCommand := some (.evict 0) } : State).longCommand =
        some (.evict 0)) ∧
    (SweepOffered { sweeping .lineRestart .running base with longCommand := some (.restartLine 0) }
        (sweepEnding 0) ∧
      ({ sweeping .lineRestart .running base with longCommand := some (.restartLine 0) } : State).longCommand =
        some (.restartLine (lineOf 0))) := by decide +kernel

/-- Namespace 0's revoke sweep is active. -/
def draining (s : State) : State := s.updNs 0 (fun x => { x with state := .draining, revokeSweep := true })

theorem witness_revoke_step :
    (SweepOffered (draining contended) (sweepRevoke 0) ∧ ((draining contended).entry 0).occupied = true ∧
      ((draining contended).entry 0).key.ns = 0 ∧
      ((draining contended).ns 0).scanIndex ≤ (0 : EntryIx).val) ∧
    ∀ d : EntryIx, d < 0 → ¬ (((draining contended).entry d).occupied = true) :=
  ⟨by decide +kernel, fun d h => absurd h (Fin.not_lt_zero d)⟩

theorem witness_revoke_final :
    SweepOffered (draining base) (sweepRevoke 0) ∧
    ∀ e : EntryIx, ¬ (((draining base).entry e).occupied = true ∧ ((draining base).entry e).key.ns = 0 ∧
      ((draining base).ns 0).scanIndex ≤ e.val) := by
  refine ⟨by decide +kernel, fun e h => ?_⟩
  have hr : (draining base).entry e = Entry.reset := by
    simp [draining, base, State.reset, State.entry, State.updNs, State.updSession, State.updLine]
  rw [hr] at h
  exact absurd h.1 (by decide)

theorem witness_clear_step :
    (SweepOffered { contended with service := .clearing, clearSweep := true } sweepClear ∧
      (({ contended with service := .clearing, clearSweep := true } : State).session 0).state ≠ .idle) ∧
    (∀ j : SlotIx, j < 0 → (contended.session j).state = .idle) ∧
    (SweepOffered { State.reset with service := .clearing, clearSweep := true } sweepClear ∧
      ∀ i, (({ State.reset with service := .clearing, clearSweep := true } : State).session i).state =
        .idle) :=
  ⟨by decide +kernel, fun j h => absurd h (Fin.not_lt_zero j), by decide +kernel⟩

/-- Session 0 is ENDING in a clear sweep, with a pending CLOSE; line 0 has these reply slots. -/
def closingWith (slots : List ReplySlot) : State :=
  { (base.updSession 0 (fun x => { x with state := .ending, closeReply := true })).updLine 0
      (fun ln => { ln with replies := slots }) with service := .clearing, clearSweep := true }

/-- The slot reserved for the CLOSE stands before a filled one; and a line with no reserved slot. -/
theorem witness_clear_step_close :
    (∀ slots ∈ [[⟨0, 8, 0x82, none⟩, ⟨0, 9, 0x83, some ⟨1, .ok, 0, []⟩⟩], [⟨1, 8, 0x82, none⟩]],
      SweepOffered (closingWith slots) sweepClear ∧ ((closingWith slots).session 0).state ≠ .idle ∧
        ((closingWith slots).session 0).closeReply = true ∧ lineOf 0 = 0 ∧
        ((closingWith slots).line 0).replies = slots) ∧
    (stationOf 0 = 0 ∧ (⟨0, 8, 0x82, none⟩ : ReplySlot).content = none ∧
      (⟨0, 9, 0x83, some ⟨1, .ok, 0, []⟩⟩ : ReplySlot).content ≠ none) ∧
    (⟨1, 8, 0x82, none⟩ : ReplySlot).station ≠ stationOf 0 ∧ (1 : LineIx) ≠ lineOf 0 ∧
    (contended.session 0).closeReply = false :=
  ⟨all_mem (by decide +kernel), by decide +kernel⟩

/-- R96 step 4: the reserved slot takes OK with the session's incarnation and notice counter. -/
theorem test_clear_step_answers_close :
    ((after .clearStep (closingWith [⟨0, 8, 0x82, none⟩])).line 0).replies =
      [⟨0, 8, 0x82, some ⟨1, .ok, 0, []⟩⟩] := by decide +kernel

/-! ### Hypotheses met: the laws of the lock table -/

/-- `contended` in a clear sweep, with its free list and its counts as its tables have them. -/
def lawful : State :=
  { contended with
    freeList := (indicesFrom 4096 4096 0).filter (fun c => c != 100 && c != 101),
    freeClaimCount := 4094, freeEntryCount := 2047, service := .clearing, clearSweep := true,
    pending := [.clearStep] }

theorem lawful_entry (e : EntryIx) : lawful.entry e = if e = 0 then
    { occupied := true, key := key, mode := .exclusive, holders := [100], waiters := [101],
      upgrade := none, latestToken := 3 } else Entry.reset := by
  show contended.entry e = _
  have h : ∀ f, base.entry f = Entry.reset := by
    intro f; simp [base, State.entry, State.reset]
  simp [contended, lock, place, State.updNs_entry, State.updChain_entry, State.updEntry_entry, h]
  by_cases he : e = 0
  · subst he; rfl
  · rw [if_neg (fun h => he h.symm), if_neg he]

theorem lawful_claim (c : ClaimIx) : lawful.claim c =
    if c = 100 then { Claim.reset with state := .held, mode := .exclusive, key := key, session := 0,
                                       token := 3, useCount := 1 }
    else if c = 101 then { Claim.reset with state := .waiting, mode := .exclusive, key := key, session := 1,
                                            token := 3, useCount := 1 }
    else Claim.reset := by
  show contended.claim c = _
  have h : ∀ f, base.claim f = Claim.reset := by
    intro f; simp [base, State.claim, State.reset]
  simp [contended, lock, place, State.updNs_claim, State.updChain_claim, State.updEntry_claim,
    State.updSession_claim, State.updClaim_claim, h]
  by_cases h1 : c = 101
  · subst h1; rfl
  · by_cases h0 : c = 100
    · subst h0; rfl
    · rw [if_neg h0, if_neg h1, if_neg (fun h => h1 h.symm), if_neg (fun h => h0 h.symm)]

theorem lawful_session (i : SlotIx) :
    (lawful.session i).claimList = (if i = 0 then [100] else if i = 1 then [101] else []) ∧
    (lawful.session i).heldCount = (if i = 0 then 1 else 0) ∧
    (lawful.session i).waitingCount = (if i = 1 then 1 else 0) ∧
    (lawful.session i).state = (if i = 0 ∨ i = 1 then .opened else .idle) ∧
    (lawful.session i).endingSweep = .inactive := by
  revert i; decide +kernel

theorem lawful_chain (b : BucketIx) : lawful.chain b = if b = 5 then [0] else [] := by
  revert b; decide +kernel

theorem lawful_notices (l : LineIx) : (lawful.line l).notices = [] := by
  revert l; decide +kernel

theorem lawful_occupied (n : NsIx) : (lawful.ns n).occupied =
    lawful.entries.toList.countP (fun x => x.occupied && x.key.ns == n) := by
  revert n; decide +kernel

theorem indices_nodup : (indicesFrom 4096 4096 0).Nodup :=
  List.Nodup.of_map (fun c : ClaimIx => c.val)
    (by rw [indicesFrom_map_val 4096 4096 0 (by omega)]; exact List.nodup_range')

theorem lawful_laws : LockTableLaws lawful where
  chains b e := by
    rw [lawful_chain, lawful_entry]
    by_cases he : e = 0
    · subst he; rw [if_pos rfl]
      have : bucketOf key = 5 := by decide +kernel
      simp [this]; by_cases hb : b = 5 <;> simp [hb, eq_comm]
    · rw [if_neg he]; split <;> simp [he, Entry.reset]
  chainsOnce b := by rw [lawful_chain]; split <;> simp
  keysDiffer e f := by
    rw [lawful_entry, lawful_entry]; split <;> split <;> simp_all [Entry.reset]
  freeEntry e := by rw [lawful_entry]; split <;> simp
  hasHolder e := by rw [lawful_entry]; split <;> simp [Entry.reset]
  soleHolder e := by rw [lawful_entry]; split <;> simp [Entry.reset]
  upgradeHolds e c := by rw [lawful_entry]; split <;> simp [Entry.reset]
  occupiedCount := lawful_occupied
  freeCount := by decide +kernel
  freeList := by
    have h : lawful.freeList = (indicesFrom 4096 4096 0).filter (fun c => c != 100 && c != 101) := by
      simp [lawful]
    rw [h]
    refine ⟨indices_nodup.filter _, fun c => ?_⟩
    rw [lawful_claim, List.mem_filter, mem_indicesFrom (by omega)]
    split <;> [skip; split] <;> simp_all [Claim.reset]
  holders e := by
    rw [lawful_entry]; refine ⟨by split <;> simp [Entry.reset], fun c => ?_⟩
    rw [lawful_claim]
    by_cases he : e = 0 <;> by_cases h0 : c = 100 <;> by_cases h1 : c = 101 <;>
      simp_all [Entry.reset, Claim.reset, eq_comm]
  waiters e := by
    rw [lawful_entry]; refine ⟨by split <;> simp [Entry.reset], fun c => ?_⟩
    rw [lawful_claim]
    by_cases he : e = 0 <;> by_cases h0 : c = 100 <;> by_cases h1 : c = 101 <;>
      simp_all [Entry.reset, Claim.reset, eq_comm]
  notice c := by rw [lawful_claim]; split <;> [skip; split] <;> simp [Claim.reset]
  claimList i := by
    rw [(lawful_session i).1]; refine ⟨by split <;> [skip; split] <;> simp, fun c => ?_⟩
    rw [lawful_claim]
    by_cases hi : i = 0 <;> by_cases hj : i = 1 <;> by_cases h0 : c = 100 <;>
      by_cases h1 : c = 101 <;> simp_all [Claim.reset, eq_comm]
  counts i := by
    obtain ⟨h1, h2, h3, -⟩ := lawful_session i
    rw [h1, h2, h3]; by_cases hi : i = 0 <;> by_cases hj : i = 1 <;> simp_all [lawful_claim, Claim.reset]
  noClaims i := by
    obtain ⟨h1, -, -, h4, -⟩ := lawful_session i
    rw [h1, h4]; by_cases hi : i = 0 <;> by_cases hj : i = 1 <;> simp_all
  sweeps i := by rw [(lawful_session i).2.2.2.2]; simp
  endedItem l i := by rw [lawful_notices]; simp

/-- A clear step of session 0 in `lawful`: entry 0 is left without holders and its waiter, of session 1, is
freed with it; entry 1 and claim 5 stay. -/
theorem witness_clear_step_lawful :
    LockTableLaws lawful ∧ SweepOffered lawful sweepClear ∧ (lawful.session 0).state ≠ .idle ∧
    ((lawful.entry 0).occupied = true ∧ (lawful.entry 0).holders.filter
      (fun c => !(lawful.session 0).claimList.contains c) = []) ∧
    ((lawful.claim 101).state = .waiting ∧ (lawful.claim 101).entry = 0) ∧
    (100 : ClaimIx) ∈ (lawful.session 0).claimList ∧ (5 : ClaimIx) ∉ (lawful.session 0).claimList ∧
    (lawful.claim 5).state ≠ .waiting ∧ ¬ (lawful.entry 1).occupied = true :=
  ⟨lawful_laws, by decide +kernel⟩

/-- Session 0 has one claim, HELD, the only holder of its entry. -/
theorem witness_clear_step_order : (∀ c ∈ (lawful.session 0).claimList, ∀ d ∈ (lawful.session 0).claimList,
      (lawful.claim c).entry = (lawful.claim d).entry → c = d) ∧
    (lawful.claim 100).state = .held ∧ (lawful.entry (lawful.claim 100).entry).holders = [100] := by
  rw [(lawful_session 0).1]
  simp [lawful_claim, lawful_entry, Claim.reset]

/-- The laws of the lock table do not read a line but for its notices, nor a namespace but for its count. -/
theorem lawful_but {s : State} (h : LockTableLaws s) (n : NsIx) (l : LineIx) (x : NsState) (ln : LineState)
    (b : Bool) : LockTableLaws ((s.updNs n (fun y => { y with state := x })).updLine l
      (fun y => { y with state := ln, restartStepPending := b })) where
  chains := h.chains
  chainsOnce := h.chainsOnce
  keysDiffer := h.keysDiffer
  freeEntry := h.freeEntry
  hasHolder := h.hasHolder
  soleHolder := h.soleHolder
  upgradeHolds := h.upgradeHolds
  occupiedCount m := by
    have hm := h.occupiedCount m
    simp only [State.updLine_ns, State.updNs_ns, State.updLine_entries, State.updNs_entries]
    by_cases hn : n = m
    · subst hn; simpa using hm
    · simpa [hn] using hm
  freeCount := h.freeCount
  freeList := h.freeList
  holders := h.holders
  waiters := h.waiters
  notice := h.notice
  claimList := h.claimList
  counts := h.counts
  noClaims := h.noClaims
  sweeps := h.sweeps
  endedItem m i := by
    have hm := h.endedItem m i
    by_cases hl : l = m
    · subst hl; simpa [State.updLine_line] using hm
    · simpa [State.updLine_line, hl] using hm

/-- `lawful` with namespace 0 DRAINING: the clear step of session 0 brings its count to 0. -/
def lawfulDraining : State := (lawful.updNs 0 (fun y => { y with state := .draining })).updLine 0
  (fun y => { y with state := .active, restartStepPending := false })

theorem witness_clear_step_drains : LockTableLaws lawfulDraining ∧ SweepOffered lawfulDraining sweepClear ∧
    (lawfulDraining.session 0).state ≠ .idle ∧ (lawfulDraining.ns 0).state = .draining ∧
    (lawfulDraining.ns 0).revokeSweep = false ∧ (lawfulDraining.ns 0).occupied ≠ 0 ∧
    ((after .clearStep lawfulDraining).ns 0).occupied = 0 ∧
    ((after .clearStep lawful).ns 0).occupied = 0 ∧ (lawful.ns 0).state ≠ .draining :=
  ⟨lawful_but lawful_laws 0 0 .draining .active false, by decide +kernel⟩

/-- A line restart and a LINE RESTART of line 0 in a lawful state with no item on the line's list; session 16
is of line 1. -/
theorem witness_restart_lawful :
    (∃ s, LockTableLaws s ∧ s.arbiterChoice = some (srcLine 0) ∧ (s.line 0).state = .restarting ∧
      (s.line 0).restartStepPending = true ∧ (s.line 0).notices = [] ∧ lineOf 16 ≠ 0) ∧
    ∃ s, LockTableLaws s ∧ CommandOffered (order 0x43 [0] s) 0x43#8 ∧
      (order 0x43 [0] s).paramLine = some 0 ∧ ((order 0x43 [0] s).line 0).state = .active ∧
      (s.line 0).notices = [] ∧ (s.session 15).state = .idle :=
  ⟨⟨_, lawful_but lawful_laws 0 0 .enabled .restarting true, by decide +kernel⟩,
    ⟨_, lawful_laws, by decide +kernel⟩⟩

theorem witness_lawful_steps : LockTableLaws lawful ∧ ∃ t, step lawful = .next t :=
  ⟨lawful_laws, exists_next (by decide +kernel)⟩

/-! ### Hypotheses met: invariants -/

/-- A RELEASE waits in the queue of `contended`, its frame on line 0, beside a due deadline. -/
def busy : State :=
  { ask 5 keyBs contended with pending := [.reqRelease 0, .reqRenew 0],
                               deadlines := [⟨.lease 0, 1100⟩] }

theorem witness_busy_steps : ∃ t, step busy = .next t := exists_next (by decide +kernel)

theorem witness_invariants : QueuesBounded busy ∧ SettingsInRange busy ∧ DeadlinesOrdered busy ∧
    TokenCounterLaw busy ∧ FreeCountMatches busy ∧ LongCommandLaw busy := by
  simp [QueuesBounded, SettingsInRange, DeadlinesOrdered, TokenCounterLaw, FreeCountMatches,
    LongCommandLaw]
  decide +kernel

theorem witness_tokens_in_service : Instr.reqAcquire 0 ≠ .deviceReset ∧
    (∃ t, exec (.reqAcquire 0) (ask 4 (acquire 2 0) base) = .next t) ∧
    (ask 4 (acquire 2 0) base).service ≠ .halted :=
  ⟨by decide, exists_next (by decide +kernel), by decide +kernel⟩

end Sys2Proof.Tests
end

section
/-!
The books that the table operations keep without any law of the lock table: the free claim count follows the
free list (R26), and no operation on claims or entries moves a SESSION_ENDED item (R91, R94).
-/

namespace Sys2Proof.Machine

/-! ### The grant of a waiter, read record by record (R37) -/

theorem State.grantWaiting_session (s : State) (e : EntryIx) (c : ClaimIx) (i : SlotIx) :
    (s.grantWaiting e c).session i = if (s.claim c).session = i then
      { s.session i with waitingCount := (s.session i).waitingCount - 1,
                         heldCount := (s.session i).heldCount + 1 } else s.session i := by
  unfold State.grantWaiting
  by_cases h : (s.claim c).session = i
  · subst h; simp
  · simp [State.updSession_session, h]

theorem State.grantWaiting_line (s : State) (e : EntryIx) (c : ClaimIx) (l : LineIx) :
    (s.grantWaiting e c).line l = if lineOf (s.claim c).session = l then
      { s.line l with notices := if (s.claim c).notice = none then (s.line l).notices ++ [.claim c]
          else (s.line l).notices } else s.line l := by
  unfold State.grantWaiting
  simp [State.raiseNotice_line]

/-- The parts of the state that the grant of a waiter writes. -/
theorem State.grantWaiting_writes (s : State) (e : EntryIx) (c : ClaimIx) : s.grantWaiting e c =
    { s with
      claims := (s.grantWaiting e c).claims, entries := (s.grantWaiting e c).entries,
      sessions := (s.grantWaiting e c).sessions, lines := (s.grantWaiting e c).lines,
      deadlines := s.deadlines.filter (fun d => !refersToWait c d.ref),
      tokenCounter := s.tokenCounter + 1,
      deviceCauses := s.deviceCauses |||
        (if s.tokenCounter + 1 = Config.tokensLowMark then 0x40#7 else 0#7),
      counters := { s.counters with grants := countUp s.counters.grants } } := by
  have ht := fun v : State => State.issueToken_writes v c e
  apply State.eq_of_fields <;> simp <;> simp [State.grantWaiting] <;> rw [ht] <;>
    simp [State.countGrant]

/-- What the grant of a waiter leaves, record by record. -/
theorem State.grantWaiting_spec (s : State) (e : EntryIx) (c : ClaimIx) :
    WaiterGranted s (s.grantWaiting e c) e c := by
  refine ⟨State.grantWaiting_writes s e c, ?_, ?_, ?_, ?_, ?_, ?_, ?_, ?_⟩
  · exact (State.grantWaiting_claim s e c c).trans (if_pos rfl)
  · intro d hd
    rw [State.grantWaiting_claim, if_neg (fun h => hd (by simp [h]))]
  · simp [State.grantWaiting_entry]
  · intro f hf
    rw [State.grantWaiting_entry, if_neg (fun h => hf (by simp [h]))]
  · simp [State.grantWaiting_session]
  · intro j hj
    rw [State.grantWaiting_session, if_neg (fun h => hj (by simp [h]))]
  · simp [State.grantWaiting_line]
  · intro l hl
    rw [State.grantWaiting_line, if_neg (fun h => hl (by simp [h]))]

/-! ### The free count and the SESSION_ENDED items -/

/-- From `s` to `t` the free count still follows the free list if it did, and every SESSION_ENDED item stands
where it stood. -/
structure PoolStep (s t : State) : Prop where
  freeCount : FreeCountMatches s → FreeCountMatches t
  items : ∀ l i, (t.line l).notices.count (.sessionEnded i) =
    (s.line l).notices.count (.sessionEnded i)

namespace PoolStep

theorem refl (s : State) : PoolStep s s := ⟨id, fun _ _ => rfl⟩

theorem trans {s t u : State} (h : PoolStep s t) (g : PoolStep t u) : PoolStep s u :=
  ⟨g.freeCount ∘ h.freeCount, fun l i => (g.items l i).trans (h.items l i)⟩

theorem ite {s a b : State} {p : Prop} [Decidable p] (ha : p → PoolStep s a)
    (hb : ¬ p → PoolStep s b) : PoolStep s (if p then a else b) := by
  split
  · exact ha ‹_›
  · exact hb ‹_›

theorem foldl {α : Type} (f : State → α → State) (hf : ∀ s a, PoolStep s (f s a)) (as : List α)
    (s : State) : PoolStep s (as.foldl f s) := by
  induction as generalizing s with
  | nil => exact refl s
  | cons a as ih => exact (hf s a).trans (ih _)

/-- An operation that leaves the pool and the notice lists alone. -/
theorem of_same {s t : State} (hf : t.freeList = s.freeList)
    (hn : t.freeClaimCount = s.freeClaimCount) (hl : t.lines = s.lines) : PoolStep s t :=
  ⟨fun h => by rw [FreeCountMatches, hf, hn]; exact h,
    fun l i => by rw [State.line_congr hl]⟩

theorem setNotices {s t : State} (hf : t.freeList = s.freeList)
    (hn : t.freeClaimCount = s.freeClaimCount)
    (hl : ∀ l i, (t.line l).notices.count (.sessionEnded i) =
      (s.line l).notices.count (.sessionEnded i)) : PoolStep s t :=
  ⟨fun h => by rw [FreeCountMatches, hf, hn]; exact h, hl⟩

/-! ### Notices and claims -/

theorem raiseNotice (s : State) (c : ClaimIx) (k : NoticeKind) : PoolStep s (s.raiseNotice c k) := by
  refine setNotices (by simp) (by simp) fun l i => ?_
  rw [State.raiseNotice_line]
  split
  · dsimp only; split
    · simp [List.count_append]
    · rfl
  · rfl

theorem withdrawNotice_items (s : State) (c : ClaimIx) (l : LineIx) (i : SlotIx) :
    ((s.withdrawNotice c).line l).notices.count (.sessionEnded i) =
      (s.line l).notices.count (.sessionEnded i) := by
  rw [State.withdrawNotice_line]
  split
  · dsimp only; split
    · rfl
    · exact List.count_filter (by simp)
  · rfl

theorem freeClaim (s : State) (c : ClaimIx) : PoolStep s (s.freeClaim c) where
  freeCount := State.freeClaim_count
  items l i := by
    rw [State.freeClaim_line, ← withdrawNotice_items s c l i, State.withdrawNotice_line]

theorem detachClaim (s : State) (c : ClaimIx) (k : NoticeKind) : PoolStep s (s.detachClaim c k) := by
  refine setNotices (by simp) (by simp) fun l i => ?_
  rw [State.detachClaim_line, ← (raiseNotice s c k).items l i, State.raiseNotice_line]

theorem dropClaim (s : State) (c : ClaimIx) (k : NoticeKind) : PoolStep s (s.dropClaim c k) :=
  ite (fun _ => detachClaim s c k) (fun _ => freeClaim s c)

theorem revokeClaim (s : State) (c : ClaimIx) : PoolStep s (s.revokeClaim c) :=
  (of_same rfl rfl rfl : PoolStep s s.countRevoke).trans (dropClaim _ _ _)

theorem revokeClaims (s : State) (cs : List ClaimIx) : PoolStep s (s.revokeClaims cs) :=
  foldl _ revokeClaim cs s

/-- A record leaves the free list's head: one record fewer, or none where the list is empty. -/
theorem takeClaim (s : State) (c : ClaimIx) (w : Bool) (m : Mode) (e : EntryIx) (k : Key)
    (i : SlotIx) : PoolStep s (s.takeClaim c w m e k i) where
  freeCount h := by
    rw [FreeCountMatches] at h ⊢
    rw [State.takeClaim_writes]
    simp [h]
  items l j := by simp

/-! ### Entries -/

theorem retireEntry (s : State) (e : EntryIx) : PoolStep s (s.retireEntry e) :=
  of_same (by simp) (by simp) (by simp)

theorem clearUpgrade (s : State) (e : EntryIx) (c : ClaimIx) : PoolStep s (s.clearUpgrade e c) :=
  of_same (by simp) (by simp) (by simp)

theorem upgradeClaim (s : State) (e : EntryIx) (c : ClaimIx) : PoolStep s (s.upgradeClaim e c) :=
  of_same (by simp) (by simp) (by simp)

theorem makePending (s : State) (e : EntryIx) (c : ClaimIx) (w : Nat) :
    PoolStep s (s.makePending e c w) := of_same (by simp) (by simp) (by simp)

theorem grantNew (s : State) (i : SlotIx) (k : Key) (m : Mode) (e : EntryIx) (c : ClaimIx) :
    PoolStep s (s.grantNew i k m e c) :=
  (takeClaim s c false m e k i).trans (of_same (by simp [State.grantNew]) (by simp [State.grantNew])
    (by simp [State.grantNew]))

theorem grantJoin (s : State) (i : SlotIx) (k : Key) (e : EntryIx) (c : ClaimIx) :
    PoolStep s (s.grantJoin i k e c) :=
  (takeClaim s c false .shared e k i).trans (of_same (by simp [State.grantJoin])
    (by simp [State.grantJoin]) (by simp [State.grantJoin]))

theorem queueClaim (s : State) (i : SlotIx) (k : Key) (m : Mode) (w : Nat) (e : EntryIx)
    (c : ClaimIx) : PoolStep s (s.queueClaim i k m w e c) :=
  (takeClaim s c true m e k i).trans (of_same (by simp [State.queueClaim])
    (by simp [State.queueClaim]) (by simp [State.queueClaim]))

theorem grantElement (s : State) (i : SlotIx) (el : GroupElement) :
    PoolStep s (s.grantElement i el) := by
  unfold State.grantElement
  split
  · exact refl s
  · split
    · exact grantJoin _ _ _ _ _
    · split
      · exact grantNew _ _ _ _ _ _
      · exact refl s

theorem detachWaiters (s : State) (e : EntryIx) : PoolStep s (s.detachWaiters e) :=
  (foldl _ (fun s c => dropClaim s c .waitExpired) _ s).trans (retireEntry _ e)

/-! ### The grant pass -/

theorem grantWaiting (s : State) (e : EntryIx) (c : ClaimIx) : PoolStep s (s.grantWaiting e c) := by
  obtain ⟨-, hfree, -, -, hcount⟩ := State.grantWaiting_fields s e c
  refine setNotices hfree hcount fun l i => ?_
  rw [State.grantWaiting_line, ← (raiseNotice s c .granted).items l i, State.raiseNotice_line]

theorem grantHeads (fuel : Nat) (s : State) (e : EntryIx) :
    PoolStep s (State.grantHeads fuel s e) := by
  induction fuel generalizing s with
  | zero => exact refl s
  | succ fuel ih =>
    rw [State.grantHeads]
    split
    · exact refl s
    · refine ite (fun _ => (freeClaim s _).trans (ih _)) fun _ => ?_
      refine ite (fun _ => ?_) fun _ => refl s
      refine ite (fun _ => ?_) fun _ => of_same rfl rfl rfl
      exact ite (fun _ => grantWaiting s e _) fun _ => (grantWaiting s e _).trans (ih _)

theorem settleEntry (s : State) (e : EntryIx) : PoolStep s (s.settleEntry e) :=
  ite (fun _ => ite (fun _ => retireEntry s e) fun _ => detachWaiters s e) fun _ => refl s

theorem clearEndingUpgrade (s : State) (e : EntryIx) : PoolStep s (s.clearEndingUpgrade e) := by
  unfold State.clearEndingUpgrade
  split
  · exact ite (fun _ => clearUpgrade s e _) fun _ => refl s
  · exact refl s

theorem grantPass (s : State) (e : EntryIx) : PoolStep s (s.grantPass e) := by
  refine (clearEndingUpgrade s e).trans ?_
  unfold State.grantPass
  generalize s.clearEndingUpgrade e = u
  dsimp only
  split
  · refine ite (fun _ => ite (fun _ => ?_) fun _ => of_same rfl rfl rfl) fun _ => refl u
    exact (upgradeClaim u e _).trans (raiseNotice _ _ _)
  · exact (grantHeads _ u e).trans (settleEntry _ e)

end PoolStep

end Sys2Proof.Machine
end

section
/-!
The laws of the lock table in four parts, one for each block that keeps them, with the entry whose grant pass
is still to come excused from having a holder (`LawsBut`); and the rules by which one claim moves between lists.
-/

namespace Sys2Proof.Machine

/-! ### Counting -/

/-- Changing a test at one member of a list without repetitions changes the count by that member. -/
theorem countP_change {α : Type} [DecidableEq α] {L : List α} (hn : L.Nodup) {c : α} (hc : c ∈ L)
    {p q : α → Bool} (h : ∀ d, c ≠ d → q d = p d) :
    L.countP q + (p c).toNat = L.countP p + (q c).toNat := by
  induction L with
  | nil => cases hc
  | cons x L ih =>
    obtain ⟨hx, hL⟩ := List.nodup_cons.1 hn
    simp only [List.countP_cons]
    by_cases hxc : c = x
    · subst hxc
      have hrest : L.countP q = L.countP p :=
        List.countP_congr fun d hd => by rw [h d (fun he => hx (he ▸ hd))]
      rw [hrest]
      cases p c <;> cases q c <;> simp
    · have hcL : c ∈ L := (List.mem_cons.1 hc).resolve_left hxc
      rw [h x hxc]
      have := ih hL hcL
      omega

/-- The entries as a list, in the order of their indices. -/
theorem State.entries_toList (s : State) : s.entries.toList = (List.finRange 2048).map s.entry := by
  apply List.ext_getElem
  · simp
  · intro k h₁ h₂
    simp [State.entry]

/-- The number of entries that satisfy a test. -/
theorem State.countP_entries (s : State) (p : Entry → Bool) :
    s.entries.toList.countP p = (List.finRange 2048).countP (fun e => p (s.entry e)) := by
  rw [s.entries_toList, List.countP_map]; rfl

/-- Changing one entry changes the number of entries that satisfy a test by that entry. -/
theorem State.countP_entries_change {s t : State} {e : EntryIx}
    (h : ∀ f, e ≠ f → t.entry f = s.entry f) (p : Entry → Bool) :
    t.entries.toList.countP p + (p (s.entry e)).toNat =
      s.entries.toList.countP p + (p (t.entry e)).toNat := by
  rw [s.countP_entries, t.countP_entries]
  exact countP_change (List.nodup_finRange _) (List.mem_finRange e)
    (p := fun f => p (s.entry f)) (q := fun f => p (t.entry f)) fun d hd => by rw [h d hd]

/-! ### A list of the claims in one place -/

/-- The list holds exactly the claims whose records satisfy `P`, once each. -/
def Lists (s : State) (L : List ClaimIx) (P : Claim → Prop) : Prop :=
  L.Nodup ∧ ∀ c, c ∈ L ↔ P (s.claim c)

/-- From `s` to `t` no claim record but `c`'s changes. -/
def OnlyClaim (c : ClaimIx) (s t : State) : Prop := ∀ d, c ≠ d → t.claim d = s.claim d

namespace Lists

variable {s t : State} {L L' : List ClaimIx} {P : Claim → Prop} {c : ClaimIx}

theorem same (h : Lists s L P) (ho : OnlyClaim c s t) (hc : P (t.claim c) ↔ P (s.claim c)) :
    Lists t L P := by
  refine ⟨h.1, fun d => ?_⟩
  by_cases hd : c = d
  · subst hd; rw [h.2, hc]
  · rw [h.2, ho d hd]

theorem remove (h : Lists s L P) (ho : OnlyClaim c s t) (hc : ¬ P (t.claim c)) :
    Lists t (L.filter (fun d => d != c)) P := by
  refine ⟨h.1.filter _, fun d => ?_⟩
  by_cases hd : c = d
  · subst hd; simp [hc]
  · simp [h.2, ho d hd, Ne.symm hd]

theorem append (h : Lists s L P) (ho : OnlyClaim c s t) (hs : ¬ P (s.claim c)) (ht : P (t.claim c)) :
    Lists t (L ++ [c]) P := by
  have hc : c ∉ L := fun hm => hs ((h.2 c).1 hm)
  refine ⟨h.1.append (List.nodup_singleton c) (by simpa using hc), fun d => ?_⟩
  by_cases hd : c = d
  · subst hd; simp [ht]
  · simp [h.2, ho d hd, Ne.symm hd]

/-- The head of a list without repetitions is its first occurrence. -/
theorem filter_head (h : L.Nodup) (hh : L.head? = some c) : L.filter (fun d => d != c) = L.tail := by
  cases L with
  | nil => cases hh
  | cons x rest =>
    cases hh
    rw [List.filter_cons_of_neg (by simp), List.tail_cons, List.filter_eq_self]
    intro d hd
    have := (List.nodup_cons.1 h).1
    simp only [bne_iff_ne, ne_eq]
    rintro rfl
    exact this hd

theorem tail (h : Lists s L P) (ho : OnlyClaim c s t) (hc : ¬ P (t.claim c)) (hh : L.head? = some c) :
    Lists t L.tail P := by
  rw [← filter_head h.1 hh]; exact h.remove ho hc

/-- A list that does not hold a claim is not changed by its removal. -/
theorem filter_absent (h : Lists s L P) (hc : ¬ P (s.claim c)) : L.filter (fun d => d != c) = L := by
  rw [List.filter_eq_self]
  intro d hd
  simp only [bne_iff_ne, ne_eq]
  rintro rfl
  exact hc ((h.2 d).1 hd)

/-- A count over the list is a count over all claims. -/
theorem countP_eq [DecidablePred P] (h : Lists s L P) (q : ClaimIx → Bool) :
    L.countP q = (List.finRange 4096).countP (fun d => decide (P (s.claim d)) && q d) := by
  have hperm : L.Perm ((List.finRange 4096).filter (fun d => decide (P (s.claim d)))) :=
    (List.perm_ext_iff_of_nodup h.1 ((List.nodup_finRange _).filter _)).2 fun d => by simp [h.2]
  rw [hperm.countP_eq, List.countP_filter]
  exact List.countP_congr fun d _ => by simp [and_comm]

/-- How the number of claims in one state changes on a list when one claim moves. -/
theorem count_move [DecidablePred P] (h : Lists s L P) (g : Lists t L' P) (ho : OnlyClaim c s t)
    (st : ClaimState) :
    L'.countP (fun d => (t.claim d).state == st) +
        (if P (s.claim c) ∧ (s.claim c).state = st then 1 else 0) =
      L.countP (fun d => (s.claim d).state == st) +
        (if P (t.claim c) ∧ (t.claim c).state = st then 1 else 0) := by
  rw [h.countP_eq, g.countP_eq]
  have := countP_change (List.nodup_finRange _) (List.mem_finRange c)
    (p := fun d => decide (P (s.claim d)) && (s.claim d).state == st)
    (q := fun d => decide (P (t.claim d)) && (t.claim d).state == st)
    (fun d hd => by rw [ho d hd])
  simp only [Bool.toNat, Bool.cond_eq_ite, Bool.and_eq_true, decide_eq_true_eq, beq_iff_eq] at this
  exact this

end Lists

/-! ### The laws in four parts -/

/-- The laws of entries, chains and their counts (R1, R5, R6, R13, R14). -/
structure EntryLaws (s : State) : Prop where
  chains : ∀ b e, e ∈ s.chain b ↔ (s.entry e).occupied = true ∧ bucketOf (s.entry e).key = b
  chainsOnce : ∀ b, (s.chain b).Nodup
  keysDiffer : ∀ e f, (s.entry e).occupied = true → (s.entry f).occupied = true →
    (s.entry e).key = (s.entry f).key → e = f
  freeEntry : ∀ e, (s.entry e).occupied = false → s.entry e = Entry.reset
  occupiedCount : ∀ n, (s.ns n).occupied =
    s.entries.toList.countP (fun x => x.occupied && x.key.ns == n)
  freeCount : s.freeEntryCount = s.freeEntries

/-- The laws of claim records and the lists they stand in (R24, R27 to R30). -/
structure ClaimLaws (s : State) : Prop where
  upgradeHolds : ∀ e c, (s.entry e).upgrade = some c → c ∈ (s.entry e).holders
  freeList : Lists s s.freeList (fun x => x.state = .free)
  holders : ∀ e, Lists s (s.entry e).holders (fun x => x.state = .held ∧ x.entry = e)
  waiters : ∀ e, Lists s (s.entry e).waiters (fun x => x.state = .waiting ∧ x.entry = e)
  notice : ∀ c, ((s.claim c).state = .waiting → (s.claim c).notice = none) ∧
    ((s.claim c).state = .detached → (s.claim c).notice ≠ none)
  claimList : ∀ i, Lists s (s.session i).claimList (fun x => x.state ≠ .free ∧ x.session = i)
  counts : ∀ i,
    (s.session i).heldCount =
      (s.session i).claimList.countP (fun c => (s.claim c).state == .held) ∧
    (s.session i).waitingCount =
      (s.session i).claimList.countP (fun c => (s.claim c).state == .waiting)

/-- The laws of session states and SESSION_ENDED items (R73, R86, R91, R94). -/
structure SessionLaws (s : State) : Prop where
  noClaims : ∀ i, (s.session i).state = .idle ∨ (s.session i).state = .ended →
    (s.session i).claimList = []
  sweeps : ∀ i, (s.session i).endingSweep ≠ .inactive → (s.session i).state = .ending
  endedItem : ∀ l i, (s.line l).notices.count (.sessionEnded i) ≤ 1 ∧
    (.sessionEnded i ∈ (s.line l).notices → l = lineOf i ∧ (s.session i).state = .ended)

/-- The laws of the lock table, but that the entry `o`, where one is named, need have no holder: its grant
pass or its retirement is still to come (R12, R38 step 4). -/
structure LawsBut (o : Option EntryIx) (s : State) : Prop where
  table : EntryLaws s
  pool : ClaimLaws s
  people : SessionLaws s
  hasHolder : ∀ e, o ≠ some e → (s.entry e).occupied = true → (s.entry e).holders ≠ []
  soleHolder : ∀ e, (s.entry e).occupied = true → (s.entry e).mode = .exclusive →
    (s.entry e).holders.length ≤ 1

/-- With no entry excused these are the laws of the lock table. -/
theorem lawsBut_none_iff {s : State} : LawsBut none s ↔ LockTableLaws s := by
  constructor
  · intro h
    refine { h.table, h.pool, h.people with
      hasHolder := fun e => h.hasHolder e (by simp), soleHolder := fun e ho hm => ?_ }
    have hpos := List.length_pos_iff.2 (h.hasHolder e (by simp) ho)
    have hle := h.soleHolder e ho hm
    omega
  · intro h
    exact { table := { h with }, pool := { h with }, people := { h with },
            hasHolder := fun e _ => h.hasHolder e,
            soleHolder := fun e ho hm => le_of_eq (h.soleHolder e ho hm) }

namespace LawsBut

variable {o : Option EntryIx} {s : State}

/-- Excusing an entry asks for less. -/
theorem excuse (h : LawsBut none s) : LawsBut o s :=
  { h with hasHolder := fun e _ => h.hasHolder e (by simp) }

/-- An entry that has a holder, or is free, need not be excused. -/
theorem settle {e : EntryIx} (h : LawsBut (some e) s)
    (he : (s.entry e).occupied = true → (s.entry e).holders ≠ []) : LawsBut none s :=
  { h with
    hasHolder := fun f _ hf => by
      by_cases hef : e = f
      · subst hef; exact he hf
      · exact h.hasHolder f (by simpa using hef) hf }

/-- The entry of a HELD claim is occupied. -/
theorem occupied_of_holder {e : EntryIx} {c : ClaimIx} (h : LawsBut o s)
    (hc : c ∈ (s.entry e).holders) : (s.entry e).occupied = true := by
  by_contra hne
  rw [h.table.freeEntry e (by simpa using hne)] at hc
  simp [Entry.reset] at hc

theorem occupied_of_waiter {e : EntryIx} {c : ClaimIx} (h : LawsBut o s)
    (hc : c ∈ (s.entry e).waiters) : (s.entry e).occupied = true := by
  by_contra hne
  rw [h.table.freeEntry e (by simpa using hne)] at hc
  simp [Entry.reset] at hc

/-- The entry of a HELD or WAITING claim is occupied. -/
theorem occupied_of_claim {c : ClaimIx} (h : LawsBut o s)
    (hc : (s.claim c).state = .held ∨ (s.claim c).state = .waiting) :
    (s.entry (s.claim c).entry).occupied = true := by
  rcases hc with hc | hc
  · exact h.occupied_of_holder ((((h.pool.holders _).2 c)).2 ⟨hc, rfl⟩)
  · exact h.occupied_of_waiter ((((h.pool.waiters _).2 c)).2 ⟨hc, rfl⟩)

end LawsBut

/-! ### Parts kept where nothing they read changes -/

/-- The laws of entries read occupation and keys, and the whole of a free entry. -/
theorem EntryLaws.of_same {s t : State} (h : EntryLaws s)
    (he : ∀ e, (t.entry e).occupied = (s.entry e).occupied ∧ (t.entry e).key = (s.entry e).key ∧
      ((s.entry e).occupied = false → t.entry e = s.entry e))
    (hc : ∀ b, t.chain b = s.chain b) (hn : ∀ n, (t.ns n).occupied = (s.ns n).occupied)
    (hf : t.freeEntryCount = s.freeEntryCount) : EntryLaws t where
  chains b e := by rw [hc, (he e).1, (he e).2.1]; exact h.chains b e
  chainsOnce b := by rw [hc]; exact h.chainsOnce b
  keysDiffer e f := by
    rw [(he e).1, (he e).2.1, (he f).1, (he f).2.1]; exact h.keysDiffer e f
  freeEntry e ho := by
    rw [(he e).1] at ho
    rw [(he e).2.2 ho]; exact h.freeEntry e ho
  occupiedCount n := by
    rw [hn, h.occupiedCount, State.countP_entries, State.countP_entries]
    exact List.countP_congr fun e _ => by rw [(he e).1, (he e).2.1]
  freeCount := by
    rw [hf, h.freeCount, State.freeEntries, State.freeEntries, State.countP_entries,
      State.countP_entries]
    exact List.countP_congr fun e _ => by rw [(he e).1]

/-- The laws of sessions read states, sweeps, whether claim lists are empty, and SESSION_ENDED items. -/
theorem SessionLaws.of_same {s t : State} (h : SessionLaws s)
    (hs : ∀ i, (t.session i).state = (s.session i).state ∧
      (t.session i).endingSweep = (s.session i).endingSweep)
    (hl : ∀ i, (s.session i).claimList = [] → (t.session i).claimList = [])
    (hi : ∀ l i, (t.line l).notices.count (.sessionEnded i) =
      (s.line l).notices.count (.sessionEnded i)) : SessionLaws t where
  noClaims i hst := hl i (h.noClaims i (by rwa [(hs i).1] at hst))
  sweeps i hsw := by rw [(hs i).1]; exact h.sweeps i (by rwa [(hs i).2] at hsw)
  endedItem l i := by
    have hmem : NoticeItem.sessionEnded i ∈ (t.line l).notices ↔
        NoticeItem.sessionEnded i ∈ (s.line l).notices := by
      rw [← List.count_pos_iff, ← List.count_pos_iff, hi]
    rw [hi, hmem, (hs i).1]; exact h.endedItem l i

/-- The laws of sessions through an operation on claims and entries. -/
theorem SessionLaws.step {s t : State} (h : SessionLaws s) (ht : TableStep s t) (hp : PoolStep s t)
    (hl : ∀ i, (s.session i).claimList = [] → (t.session i).claimList = []) : SessionLaws t :=
  h.of_same (fun i => by rw [ht.sessions i]; exact ⟨rfl, rfl⟩) hl hp.items

/-- An entry as the laws see it is unchanged: its locks and lists are as before, its pending upgrade is as
before, absent or one of its holders, and it is not newly EXCLUSIVE with several holders. -/
def SameLock (x y : Entry) : Prop :=
  y.occupied = x.occupied ∧ y.key = x.key ∧ y.holders = x.holders ∧ y.waiters = x.waiters ∧
    (x.occupied = false → y = x) ∧
    (∀ c, y.upgrade = some c → x.upgrade = some c ∨ c ∈ x.holders) ∧
    (y.mode = .exclusive → x.mode = .exclusive ∨ x.holders.length ≤ 1)

theorem SameLock.refl (x : Entry) : SameLock x x :=
  ⟨rfl, rfl, rfl, rfl, fun _ => rfl, fun _ => .inl, .inl⟩

/-- A claim as the laws see it is unchanged: its place and session are as before, and its notice if it is
WAITING or DETACHED. -/
def SamePlace (x y : Claim) : Prop :=
  y.state = x.state ∧ y.entry = x.entry ∧ y.session = x.session ∧
    (x.state = .waiting ∨ x.state = .detached → y.notice = x.notice)

theorem SamePlace.refl (x : Claim) : SamePlace x x := ⟨rfl, rfl, rfl, fun _ => rfl⟩

/-- From `s` to `t` nothing that the laws of the lock table read has changed. -/
structure SameForLaws (s t : State) : Prop where
  entry : ∀ e, SameLock (s.entry e) (t.entry e)
  claim : ∀ c, SamePlace (s.claim c) (t.claim c)
  chain : ∀ b, t.chain b = s.chain b
  freeList : t.freeList = s.freeList
  freeEntryCount : t.freeEntryCount = s.freeEntryCount
  occupied : ∀ n, (t.ns n).occupied = (s.ns n).occupied
  session : ∀ i, (t.session i).state = (s.session i).state ∧
    (t.session i).endingSweep = (s.session i).endingSweep ∧
    (t.session i).claimList = (s.session i).claimList ∧
    (t.session i).heldCount = (s.session i).heldCount ∧
    (t.session i).waitingCount = (s.session i).waitingCount
  items : ∀ l i, (t.line l).notices.count (.sessionEnded i) =
    (s.line l).notices.count (.sessionEnded i)

theorem Lists.of_samePlace {s t : State} {L : List ClaimIx} {P : Claim → Prop} (h : Lists s L P)
    (hP : ∀ c, P (t.claim c) ↔ P (s.claim c)) : Lists t L P :=
  ⟨h.1, fun c => by rw [h.2, hP]⟩

/-- The laws of claims read the lists, the place of each record, and which claims have a notice. -/
theorem ClaimLaws.of_same {s t : State} (h : ClaimLaws s)
    (he : ∀ e, (t.entry e).holders = (s.entry e).holders ∧
      (t.entry e).waiters = (s.entry e).waiters ∧
      ∀ c, (t.entry e).upgrade = some c → (s.entry e).upgrade = some c ∨ c ∈ (s.entry e).holders)
    (hc : ∀ c, SamePlace (s.claim c) (t.claim c)) (hf : t.freeList = s.freeList)
    (hs : ∀ i, (t.session i).claimList = (s.session i).claimList ∧
      (t.session i).heldCount = (s.session i).heldCount ∧
      (t.session i).waitingCount = (s.session i).waitingCount) : ClaimLaws t := by
  have hst : ∀ c, (t.claim c).state = (s.claim c).state := fun c => (hc c).1
  have hen : ∀ c, (t.claim c).entry = (s.claim c).entry := fun c => (hc c).2.1
  have hse : ∀ c, (t.claim c).session = (s.claim c).session := fun c => (hc c).2.2.1
  constructor
  case upgradeHolds =>
    intro e c hu
    obtain ⟨hh, -, hup⟩ := he e
    rw [hh]
    exact (hup c hu).elim (h.upgradeHolds e c) id
  case freeList => rw [hf]; exact h.freeList.of_samePlace fun c => by rw [hst]
  case holders =>
    intro e; rw [(he e).1]
    exact (h.holders e).of_samePlace fun c => by rw [hst, hen]
  case waiters =>
    intro e; rw [(he e).2.1]
    exact (h.waiters e).of_samePlace fun c => by rw [hst, hen]
  case notice =>
    intro c
    have hn := (hc c).2.2.2
    refine ⟨fun hw => ?_, fun hd => ?_⟩
    · rw [hst] at hw; rw [hn (.inl hw)]; exact (h.notice c).1 hw
    · rw [hst] at hd; rw [hn (.inr hd)]; exact (h.notice c).2 hd
  case claimList =>
    intro i; rw [(hs i).1]
    exact (h.claimList i).of_samePlace fun c => by rw [hst, hse]
  case counts =>
    intro i
    obtain ⟨hl, hh, hw⟩ := hs i
    rw [hl, hh, hw]; simp only [hst]; exact h.counts i

/-- A change outside the tables, in fields of sessions, namespaces and lines that the laws do not read. -/
theorem SameForLaws.of_tables {s t : State} (he : t.entries = s.entries) (hc : t.claims = s.claims)
    (hb : t.chains = s.chains) (hf : t.freeList = s.freeList)
    (hn : t.freeEntryCount = s.freeEntryCount)
    (ho : ∀ n, (t.ns n).occupied = (s.ns n).occupied)
    (hs : ∀ i, (t.session i).state = (s.session i).state ∧
      (t.session i).endingSweep = (s.session i).endingSweep ∧
      (t.session i).claimList = (s.session i).claimList ∧
      (t.session i).heldCount = (s.session i).heldCount ∧
      (t.session i).waitingCount = (s.session i).waitingCount)
    (hi : ∀ l i, (t.line l).notices.count (.sessionEnded i) =
      (s.line l).notices.count (.sessionEnded i)) : SameForLaws s t where
  entry e := by rw [State.entry_congr he]; exact SameLock.refl _
  claim c := by rw [State.claim_congr hc]; exact SamePlace.refl _
  chain b := State.chain_congr hb b
  freeList := hf
  freeEntryCount := hn
  occupied := ho
  session := hs
  items := hi

/-- The laws through a change that they do not see. -/
theorem LawsBut.of_same {o : Option EntryIx} {s t : State} (h : LawsBut o s) (g : SameForLaws s t) :
    LawsBut o t where
  table := h.table.of_same (fun e => ⟨(g.entry e).1, (g.entry e).2.1, (g.entry e).2.2.2.2.1⟩) g.chain
    g.occupied g.freeEntryCount
  pool := h.pool.of_same
    (fun e => ⟨(g.entry e).2.2.1, (g.entry e).2.2.2.1, (g.entry e).2.2.2.2.2.1⟩) g.claim g.freeList
    (fun i => (g.session i).2.2)
  people := h.people.of_same (fun i => ⟨(g.session i).1, (g.session i).2.1⟩)
    (fun i hi => by rw [(g.session i).2.2.1]; exact hi) g.items
  hasHolder e ho hocc := by
    obtain ⟨h1, -, h3, -⟩ := g.entry e
    rw [h1] at hocc; rw [h3]; exact h.hasHolder e ho hocc
  soleHolder e hocc hm := by
    obtain ⟨h1, -, h3, -, -, -, h7⟩ := g.entry e
    rw [h1] at hocc; rw [h3]
    exact (h7 hm).elim (h.soleHolder e hocc) id

end Sys2Proof.Machine
end

section
/-!
The laws of the lock table through each operation on one claim: freeing (R25), detaching (R11, R44, R46), taking
a record (R24, R30), the grant of a waiter (R37), and the changes of upgrades and modes (R60 to R65).
-/

namespace Sys2Proof.Machine

variable {o : Option EntryIx} {s : State}

/-! ### A claim leaves its lock -/

/-- An entry after a claim has left it: both lists lose the claim, and so does the pending upgrade. -/
theorem ClaimLaws.entryWithout (h : ClaimLaws s) (c : ClaimIx) (e : EntryIx) {y : Entry}
    (hy : y = if (s.claim c).entry = e then entryWithout (s.claim c).state c (s.entry e)
      else s.entry e) :
    y.holders = (s.entry e).holders.filter (fun d => d != c) ∧
    y.waiters = (s.entry e).waiters.filter (fun d => d != c) ∧
    y.occupied = (s.entry e).occupied ∧ y.key = (s.entry e).key ∧ y.mode = (s.entry e).mode ∧
    ∀ d, y.upgrade = some d → (s.entry e).upgrade = some d ∧ d ≠ c := by
  have hup : ∀ d, (s.entry e).upgrade = some d → (s.claim d).state = .held ∧ (s.claim d).entry = e :=
    fun d hd => ((h.holders e).2 d).1 (h.upgradeHolds e d hd)
  have hH : ¬ ((s.claim c).state = .held ∧ (s.claim c).entry = e) →
      (s.entry e).holders.filter (fun d => d != c) = (s.entry e).holders :=
    (h.holders e).filter_absent
  have hW : ¬ ((s.claim c).state = .waiting ∧ (s.claim c).entry = e) →
      (s.entry e).waiters.filter (fun d => d != c) = (s.entry e).waiters :=
    (h.waiters e).filter_absent
  have hother : ¬ ((s.claim c).state = .held ∧ (s.claim c).entry = e) →
      ∀ d, (s.entry e).upgrade = some d → (s.entry e).upgrade = some d ∧ d ≠ c :=
    fun hn d hd => ⟨hd, fun hdc => hn (hdc ▸ hup d hd)⟩
  subst hy
  by_cases he : (s.claim c).entry = e
  · rw [if_pos he]
    unfold Machine.entryWithout
    cases hst : (s.claim c).state with
    | held =>
      refine ⟨rfl, (hW (by simp [hst])).symm, rfl, rfl, rfl, fun d hd => ?_⟩
      dsimp only at hd
      split at hd
      · cases hd
      · rename_i hne
        exact ⟨hd, fun hdc => hne (hdc ▸ hd)⟩
    | waiting => exact ⟨(hH (by simp [hst])).symm, rfl, rfl, rfl, rfl, hother (by simp [hst])⟩
    | detached =>
      exact ⟨(hH (by simp [hst])).symm, (hW (by simp [hst])).symm, rfl, rfl, rfl,
        hother (by simp [hst])⟩
    | free =>
      exact ⟨(hH (by simp [hst])).symm, (hW (by simp [hst])).symm, rfl, rfl, rfl,
        hother (by simp [hst])⟩
  · rw [if_neg he]
    have hn : ∀ {p : Prop}, ¬ (p ∧ (s.claim c).entry = e) := fun hp => he hp.2
    exact ⟨(hH hn).symm, (hW hn).symm, rfl, rfl, rfl, hother hn⟩

/-- From `s` to `t` the claim `c` leaves its lock, and is FREE or DETACHED after it. -/
structure LeftLock (c : ClaimIx) (s t : State) : Prop where
  only : OnlyClaim c s t
  state : (t.claim c).state = .free ∨ (t.claim c).state = .detached
  entry : ∀ e, t.entry e = if (s.claim c).entry = e then
    entryWithout (s.claim c).state c (s.entry e) else s.entry e
  chain : ∀ b, t.chain b = s.chain b
  occupied : ∀ n, (t.ns n).occupied = (s.ns n).occupied
  freeEntryCount : t.freeEntryCount = s.freeEntryCount

theorem LeftLock.freeClaim (s : State) (c : ClaimIx) : LeftLock c s (s.freeClaim c) where
  only d hd := by simp [hd]
  state := by simp [Claim.reset]
  entry e := s.freeClaim_entry c e
  chain b := by simp
  occupied n := by simp
  freeEntryCount := by simp

theorem LeftLock.detachClaim (s : State) (c : ClaimIx) (k : NoticeKind) :
    LeftLock c s (s.detachClaim c k) where
  only d hd := by simp [hd]
  state := by simp
  entry e := s.detachClaim_entry c k e
  chain b := by simp
  occupied n := by simp
  freeEntryCount := by simp

namespace LeftLock

variable {c : ClaimIx} {t : State}

/-- The claim was on the lock that changes, which is occupied. -/
theorem freeEntry_same (g : LeftLock c s t) (h : LawsBut o s) {e : EntryIx}
    (he : (s.entry e).occupied = false) : t.entry e = s.entry e := by
  rw [g.entry]
  split
  · rename_i hce
    have hno : ∀ st, st = ClaimState.held ∨ st = .waiting → (s.claim c).state ≠ st := by
      rintro st hst heq
      have := h.occupied_of_claim (c := c) (by rcases hst with rfl | rfl <;> simp [heq])
      rw [hce, he] at this; cases this
    have h1 := hno _ (.inl rfl)
    have h2 := hno _ (.inr rfl)
    unfold Machine.entryWithout
    cases hst : (s.claim c).state <;> simp_all
  · rfl

/-- The lists of the locks, through a claim that leaves. -/
theorem lists (g : LeftLock c s t) (h : ClaimLaws s) :
    (∀ e d, (t.entry e).upgrade = some d → d ∈ (t.entry e).holders) ∧
    (∀ e, Lists t (t.entry e).holders (fun x => x.state = .held ∧ x.entry = e)) ∧
    ∀ e, Lists t (t.entry e).waiters (fun x => x.state = .waiting ∧ x.entry = e) := by
  refine ⟨fun e d hd => ?_, fun e => ?_, fun e => ?_⟩
  all_goals obtain ⟨hh, hw, -, -, -, hu⟩ := h.entryWithout c e (g.entry e)
  · obtain ⟨hd, hdc⟩ := hu d hd
    rw [hh]
    simpa [hdc] using h.upgradeHolds e d hd
  · rw [hh]
    exact (h.holders e).remove g.only (by rcases g.state with hs | hs <;> simp [hs])
  · rw [hw]
    exact (h.waiters e).remove g.only (by rcases g.state with hs | hs <;> simp [hs])

/-- The laws of entries, holders and modes, through a claim that leaves. -/
theorem laws (g : LeftLock c s t) (h : LawsBut o s) (hp : ClaimLaws t) (hs : SessionLaws t)
    (ho : (s.claim c).state = .held → o = some (s.claim c).entry) : LawsBut o t where
  table := by
    refine h.table.of_same (fun e => ?_) g.chain g.occupied g.freeEntryCount
    obtain ⟨-, -, hocc, hk, -⟩ := h.pool.entryWithout c e (g.entry e)
    exact ⟨hocc, hk, g.freeEntry_same h⟩
  pool := hp
  people := hs
  hasHolder e hoe hocc := by
    obtain ⟨hh, -, ho', -⟩ := h.pool.entryWithout c e (g.entry e)
    rw [ho'] at hocc
    rw [hh, (h.pool.holders e).filter_absent]
    · exact h.hasHolder e hoe hocc
    · rintro ⟨hheld, rfl⟩; exact hoe (ho hheld)
  soleHolder e hocc hm := by
    obtain ⟨hh, -, ho', -, hm', -⟩ := h.pool.entryWithout c e (g.entry e)
    rw [ho'] at hocc; rw [hm'] at hm; rw [hh]
    exact (List.length_filter_le _ _).trans (h.soleHolder e hocc hm)

end LeftLock

/-- One if the record is a claim of session `i` in a state, for the session's count of such claims. -/
def countsFor (x : Claim) (i : SlotIx) (st : ClaimState) : Nat :=
  if x.state = st ∧ x.session = i then 1 else 0

/-- The counts of sessions follow one claim that moves. -/
theorem ClaimLaws.counts_move (h : ClaimLaws s) {t : State} {c : ClaimIx} (ho : OnlyClaim c s t)
    (hl : ∀ i, Lists t (t.session i).claimList (fun x => x.state ≠ .free ∧ x.session = i))
    (hh : ∀ i, (t.session i).heldCount = (s.session i).heldCount + countsFor (t.claim c) i .held -
      countsFor (s.claim c) i .held)
    (hw : ∀ i, (t.session i).waitingCount = (s.session i).waitingCount +
      countsFor (t.claim c) i .waiting - countsFor (s.claim c) i .waiting) (i : SlotIx) :
    (t.session i).heldCount = (t.session i).claimList.countP (fun c => (t.claim c).state == .held) ∧
    (t.session i).waitingCount =
      (t.session i).claimList.countP (fun c => (t.claim c).state == .waiting) := by
  have key : ∀ st, st ≠ .free → ∀ x : Claim,
      (if (x.state ≠ .free ∧ x.session = i) ∧ x.state = st then 1 else 0) = countsFor x i st := by
    intro st hst x
    refine if_congr ⟨fun hx => ⟨hx.2, hx.1.2⟩, fun hx => ⟨⟨hx.1 ▸ hst, hx.2⟩, hx.1⟩⟩ rfl rfl
  have m1 := (h.claimList i).count_move (hl i) ho .held
  have m2 := (h.claimList i).count_move (hl i) ho .waiting
  rw [key _ (by simp), key _ (by simp), ← (h.counts i).1] at m1
  rw [key _ (by simp), key _ (by simp), ← (h.counts i).2] at m2
  rw [hh, hw]
  omega

/-- Freeing keeps the laws of claims (R25). -/
theorem ClaimLaws.freeClaim (h : ClaimLaws s) {c : ClaimIx} (hc : (s.claim c).state ≠ .free) :
    ClaimLaws (s.freeClaim c) := by
  have g := LeftLock.freeClaim s c
  obtain ⟨hu, hh, hw⟩ := g.lists h
  have hfree : ((s.freeClaim c).claim c).state = .free := by simp [Claim.reset]
  have hlist : ∀ i, ((s.freeClaim c).session i).claimList =
      (s.session i).claimList.filter (fun d => d != c) := by
    intro i
    rw [State.freeClaim_session]
    split
    · rfl
    · rename_i hi
      exact ((h.claimList i).filter_absent fun hp => hi hp.2).symm
  have hclaims : ∀ i, Lists (s.freeClaim c) ((s.freeClaim c).session i).claimList
      (fun x => x.state ≠ .free ∧ x.session = i) := fun i => by
    rw [hlist]; exact (h.claimList i).remove g.only (fun hp => hp.1 hfree)
  exact {
    upgradeHolds := hu
    holders := hh
    waiters := hw
    claimList := hclaims
    freeList := by
      have hl : (s.freeClaim c).freeList = s.freeList ++ [c] := by rw [State.freeClaim_writes]
      rw [hl]; exact h.freeList.append g.only hc hfree
    notice := fun d => by
      by_cases hd : c = d
      · subst hd; rw [hfree]; simp
      · rw [g.only d hd]; exact h.notice d
    counts := h.counts_move g.only hclaims
      (fun i => by
        rw [State.freeClaim_session]
        split
        · simp [countsFor, Claim.reset, *]; split <;> rfl
        · simp [countsFor, Claim.reset, *])
      (fun i => by
        rw [State.freeClaim_session]
        split
        · simp [countsFor, Claim.reset, *]; split <;> rfl
        · simp [countsFor, Claim.reset, *]) }

/-- Detaching keeps the laws of claims (R11, R44, R46). -/
theorem ClaimLaws.detachClaim (h : ClaimLaws s) {c : ClaimIx} (hc : (s.claim c).state ≠ .free)
    (k : NoticeKind) : ClaimLaws (s.detachClaim c k) := by
  have g := LeftLock.detachClaim s c k
  obtain ⟨hu, hh, hw⟩ := g.lists h
  have hdet : ((s.detachClaim c k).claim c).state = .detached := by simp
  have hlist : ∀ i, ((s.detachClaim c k).session i).claimList = (s.session i).claimList := by
    intro i; rw [State.detachClaim_session]; split <;> rfl
  have hclaims : ∀ i, Lists (s.detachClaim c k) ((s.detachClaim c k).session i).claimList
      (fun x => x.state ≠ .free ∧ x.session = i) := fun i => by
    rw [hlist]; exact (h.claimList i).same g.only (by simp [hc])
  exact {
    upgradeHolds := hu
    holders := hh
    waiters := hw
    claimList := hclaims
    freeList := by
      have hl : (s.detachClaim c k).freeList = s.freeList := by simp
      rw [hl]; exact h.freeList.same g.only (by simp [hc])
    notice := fun d => by
      by_cases hd : c = d
      · subst hd; simp
      · rw [g.only d hd]; exact h.notice d
    counts := h.counts_move g.only hclaims
      (fun i => by
        rw [State.detachClaim_session]
        split
        · simp [countsFor, *]; split <;> rfl
        · simp [countsFor, *])
      (fun i => by
        rw [State.detachClaim_session]
        split
        · simp [countsFor, *]; split <;> rfl
        · simp [countsFor, *]) }

namespace LawsBut

/-- Freeing a claim keeps the laws; where it was HELD its entry is the one excused. -/
theorem freeClaim (h : LawsBut o s) {c : ClaimIx} (hc : (s.claim c).state ≠ .free)
    (ho : (s.claim c).state = .held → o = some (s.claim c).entry) : LawsBut o (s.freeClaim c) := by
  refine (LeftLock.freeClaim s c).laws h (h.pool.freeClaim hc)
    (h.people.step (TableStep.freeClaim s c) (PoolStep.freeClaim s c) fun i hi => ?_) ho
  rw [State.freeClaim_session]; split <;> simp [hi]

theorem detachClaim (h : LawsBut o s) {c : ClaimIx} (hc : (s.claim c).state ≠ .free) (k : NoticeKind)
    (ho : (s.claim c).state = .held → o = some (s.claim c).entry) :
    LawsBut o (s.detachClaim c k) := by
  refine (LeftLock.detachClaim s c k).laws h (h.pool.detachClaim hc k)
    (h.people.step (TableStep.detachClaim s c k) (PoolStep.detachClaim s c k) fun i hi => ?_) ho
  rw [State.detachClaim_session]; split <;> simp [hi]

end LawsBut

end Sys2Proof.Machine
end

section
/-!
The laws of the lock table through the taking of a record (R24, R33, R34, R36), the grant of a waiter (R37), the
creation and the retirement of an entry (R8, R10), and the changes of upgrades and modes (R60 to R65).
-/

namespace Sys2Proof.Machine

variable {o : Option EntryIx} {s t : State}

/-! ### Lookup under the laws (R6) -/

/-- A key is absent exactly where no occupied entry has it. -/
theorem EntryLaws.lookup_none_iff (h : EntryLaws s) {k : Key} :
    s.lookup k = none ↔ ∀ e, (s.entry e).occupied = true → (s.entry e).key ≠ k := by
  rw [State.lookup, List.find?_eq_none]
  constructor
  · intro hn e ho hk
    exact hn e ((h.chains _ e).2 ⟨ho, by rw [hk]⟩) (by simp [hk])
  · intro hn e he hk
    exact hn e ((h.chains _ e).1 he).1 (by simpa using hk)

/-- The entry that a lookup finds is occupied and has the key. -/
theorem EntryLaws.lookup_some (h : EntryLaws s) {k : Key} {e : EntryIx} (hl : s.lookup k = some e) :
    (s.entry e).occupied = true ∧ (s.entry e).key = k :=
  ⟨((h.chains _ e).1 (List.mem_of_find?_eq_some hl)).1, by simpa using List.find?_some hl⟩

theorem State.lowestFreeEntry_free {e : EntryIx} (hl : s.lowestFreeEntry = some e) :
    (s.entry e).occupied = false := by
  simpa using (lowest_eq_some_iff.1 hl).1

/-! ### A record is taken -/

/-- From `s` to `t` the record `c` at the head of the free list becomes a claim of session `i` on the entry
`e`, WAITING if `w` says so and HELD otherwise, at the tail of each list it joins. -/
structure Taken (c : ClaimIx) (e : EntryIx) (i : SlotIx) (w : Bool) (s t : State) : Prop where
  only : OnlyClaim c s t
  state : (t.claim c).state = if w = true then .waiting else .held
  claimEntry : (t.claim c).entry = e
  claimSession : (t.claim c).session = i
  notice : (t.claim c).notice = none
  freeList : t.freeList = s.freeList.tail
  holders : ∀ f, (t.entry f).holders = (s.entry f).holders ++ if e = f ∧ w = false then [c] else []
  waiters : ∀ f, (t.entry f).waiters = (s.entry f).waiters ++ if e = f ∧ w = true then [c] else []
  upgrade : ∀ f, (t.entry f).upgrade = (s.entry f).upgrade
  session : ∀ j, (t.session j).claimList = (s.session j).claimList ++ (if i = j then [c] else []) ∧
    (t.session j).heldCount = (s.session j).heldCount + (if i = j ∧ w = false then 1 else 0) ∧
    (t.session j).waitingCount = (s.session j).waitingCount + (if i = j ∧ w = true then 1 else 0)

/-- Taking a free record keeps the laws of claims. -/
theorem ClaimLaws.taken (h : ClaimLaws s) {c : ClaimIx} {e : EntryIx} {i : SlotIx} {w : Bool}
    (g : Taken c e i w s t) (hc : s.freeList.head? = some c) : ClaimLaws t := by
  have hfree : (s.claim c).state = .free := (h.freeList.2 c).1 (List.mem_of_mem_head? hc)
  have hsome : (t.claim c).state ≠ .free := by rw [g.state]; split <;> simp
  have hclaims : ∀ j, Lists t (t.session j).claimList (fun x => x.state ≠ .free ∧ x.session = j) := by
    intro j
    rw [(g.session j).1]
    split
    · rename_i hj
      exact (h.claimList j).append g.only (by simp [hfree]) ⟨hsome, g.claimSession.trans hj⟩
    · rename_i hj
      rw [List.append_nil]
      exact (h.claimList j).same g.only (by simp [hfree, g.claimSession, hj])
  exact {
    upgradeHolds := fun f d hd => by
      rw [g.upgrade] at hd; rw [g.holders]
      exact List.mem_append_left _ (h.upgradeHolds f d hd)
    freeList := by rw [g.freeList]; exact h.freeList.tail g.only hsome hc
    holders := fun f => by
      rw [g.holders]
      split
      · rename_i hf
        exact (h.holders f).append g.only (by simp [hfree]) ⟨by simp [g.state, hf.2],
          g.claimEntry.trans hf.1⟩
      · rename_i hf
        rw [List.append_nil]
        refine (h.holders f).same g.only ?_
        rw [g.state, g.claimEntry, hfree]
        cases w <;> simp_all
    waiters := fun f => by
      rw [g.waiters]
      split
      · rename_i hf
        exact (h.waiters f).append g.only (by simp [hfree]) ⟨by simp [g.state, hf.2],
          g.claimEntry.trans hf.1⟩
      · rename_i hf
        rw [List.append_nil]
        refine (h.waiters f).same g.only ?_
        rw [g.state, g.claimEntry, hfree]
        cases w <;> simp_all
    notice := fun d => by
      by_cases hd : c = d
      · subst hd; rw [g.notice, g.state]; cases w <;> simp
      · rw [g.only d hd]; exact h.notice d
    claimList := hclaims
    counts := h.counts_move g.only hclaims
      (fun j => by rw [(g.session j).2.1]; cases w <;> simp [countsFor, g.state, g.claimSession, hfree])
      (fun j => by
        rw [(g.session j).2.2]; cases w <;> simp [countsFor, g.state, g.claimSession, hfree]) }

/-- Taking a record for an OPEN session keeps the laws of sessions. -/
theorem SessionLaws.taken (h : SessionLaws s) {c : ClaimIx} {e : EntryIx} {i : SlotIx} {w : Bool}
    (g : Taken c e i w s t) (hi : (s.session i).state = .opened) (ht : TableStep s t)
    (hp : PoolStep s t) : SessionLaws t where
  noClaims j hj := by
    have hst : (t.session j).state = (s.session j).state := by rw [ht.sessions j]
    rw [hst] at hj
    have hij : ¬ i = j := by rintro rfl; simp [hi] at hj
    rw [(g.session j).1, if_neg hij, h.noClaims j hj, List.append_nil]
  sweeps j hj := by
    rw [ht.sessions j] at hj ⊢; exact h.sweeps j hj
  endedItem l j := by
    have hmem : NoticeItem.sessionEnded j ∈ (t.line l).notices ↔
        NoticeItem.sessionEnded j ∈ (s.line l).notices := by
      rw [← List.count_pos_iff, ← List.count_pos_iff, hp.items]
    rw [hp.items, hmem, ht.sessions j]; exact h.endedItem l j

theorem State.grantNew_taken (s : State) (i : SlotIx) (k : Key) (m : Mode) {e : EntryIx} {c : ClaimIx}
    (he : s.entry e = Entry.reset) : Taken c e i false s (s.grantNew i k m e c) := by
  obtain ⟨⟨hw, hc, hother, hi, hs⟩, hE, hEs, -⟩ := State.grantNew_spec s i k m e c
  have hentry : ∀ f, ¬ e = f → (s.grantNew i k m e c).entry f = s.entry f := fun f hf =>
    hEs f (by simpa using fun hx => hf hx.symm)
  have hsess : ∀ j, ¬ i = j → (s.grantNew i k m e c).session j = s.session j := fun j hj =>
    hs j (by simpa using fun hx => hj hx.symm)
  constructor
  case only => exact fun d hd => hother d (by simpa using fun hx => hd hx.symm)
  case freeList => rw [hw]
  case session =>
    intro j
    by_cases hj : i = j
    · subst hj; rw [hi]; simp
    · rw [hsess j hj]; simp [hj]
  case holders | waiters | upgrade =>
    intro f
    by_cases hf : e = f
    · subst hf; rw [hE, he]; simp [Entry.reset]
    · simp [hentry f hf, hf]
  all_goals (rw [hc]; rfl)

theorem State.grantJoin_taken (s : State) (i : SlotIx) (k : Key) (e : EntryIx) (c : ClaimIx) :
    Taken c e i false s (s.grantJoin i k e c) := by
  obtain ⟨⟨hw, hc, hother, hi, hs⟩, hE, hEs, -⟩ := State.grantJoin_spec s i k e c
  have hentry : ∀ f, ¬ e = f → (s.grantJoin i k e c).entry f = s.entry f := fun f hf =>
    hEs f (by simpa using fun hx => hf hx.symm)
  have hsess : ∀ j, ¬ i = j → (s.grantJoin i k e c).session j = s.session j := fun j hj =>
    hs j (by simpa using fun hx => hj hx.symm)
  constructor
  case only => exact fun d hd => hother d (by simpa using fun hx => hd hx.symm)
  case freeList => rw [hw]
  case session =>
    intro j
    by_cases hj : i = j
    · subst hj; rw [hi]; simp
    · rw [hsess j hj]; simp [hj]
  case holders | waiters | upgrade =>
    intro f
    by_cases hf : e = f
    · subst hf; simp [hE]
    · simp [hentry f hf, hf]
  all_goals (rw [hc]; rfl)

theorem State.queueClaim_taken (s : State) (i : SlotIx) (k : Key) (m : Mode) (wait : Nat)
    (e : EntryIx) (c : ClaimIx) : Taken c e i true s (s.queueClaim i k m wait e c) := by
  constructor
  case only => exact fun d hd => by rw [State.queueClaim_claim, if_neg hd]
  case freeList =>
    have hl : (s.queueClaim i k m wait e c).freeList = (s.takeClaim c true m e k i).freeList := by
      simp [State.queueClaim]
    rw [hl, State.takeClaim_writes]
  case session => intro j; rw [State.queueClaim_session]; split <;> simp [*]
  case holders | waiters | upgrade => intro f; rw [State.queueClaim_entry]; split <;> simp [*]
  all_goals rw [State.queueClaim_claim, if_pos rfl] <;> rfl

namespace LawsBut

/-- The laws of entries, holders and modes through the taking of a record on an occupied entry. -/
theorem joined (h : LawsBut o s) {c : ClaimIx} {e : EntryIx} {i : SlotIx} {w : Bool}
    (g : Taken c e i w s t) (hc : s.freeList.head? = some c) (hi : (s.session i).state = .opened)
    (he : (s.entry e).occupied = true)
    (hm : w = false → (t.entry e).mode ≠ .exclusive)
    (hE : ∀ f, (t.entry f).occupied = (s.entry f).occupied ∧ (t.entry f).key = (s.entry f).key ∧
      (t.entry f).mode = (s.entry f).mode ∧ (¬ e = f → t.entry f = s.entry f))
    (hb : t.chains = s.chains) (hn : t.namespaces = s.namespaces)
    (hf : t.freeEntryCount = s.freeEntryCount) (ht : TableStep s t) (hp : PoolStep s t) :
    LawsBut o t where
  table := by
    refine h.table.of_same (fun f => ⟨(hE f).1, (hE f).2.1, fun hfree => (hE f).2.2.2 ?_⟩)
      (State.chain_congr hb) (fun n => by rw [State.ns_congr hn]) hf
    rintro rfl; rw [he] at hfree; cases hfree
  pool := h.pool.taken g hc
  people := h.people.taken g hi ht hp
  hasHolder f hof hocc := by
    rw [(hE f).1] at hocc; rw [g.holders]
    simp [h.hasHolder f hof hocc]
  soleHolder f hocc hmode := by
    have hone : ¬ (e = f ∧ w = false) := by rintro ⟨rfl, hw⟩; exact hm hw hmode
    rw [(hE f).1] at hocc; rw [(hE f).2.2.1] at hmode
    rw [g.holders, if_neg hone, List.append_nil]; exact h.soleHolder f hocc hmode

/-- A further sharer (R34). -/
theorem grantJoin (h : LawsBut o s) {i : SlotIx} (k : Key) {e : EntryIx} {c : ClaimIx}
    (hc : s.freeList.head? = some c) (hi : (s.session i).state = .opened)
    (he : (s.entry e).occupied = true) (hm : (s.entry e).mode = .shared) :
    LawsBut o (s.grantJoin i k e c) := by
  obtain ⟨-, hE, hEs, hch, hns, hfc⟩ := State.grantJoin_spec s i k e c
  have hmode : ((s.grantJoin i k e c).entry e).mode = .shared := by rw [hE]; exact hm
  refine h.joined (State.grantJoin_taken s i k e c) hc hi he (fun _ => by simp [hmode]) (fun f => ?_)
    hch hns hfc (TableStep.grantJoin s i k e c) (PoolStep.grantJoin s i k e c)
  by_cases hf : e = f
  · subst hf; rw [hE]; simp
  · rw [hEs f (by simpa using fun hx => hf hx.symm)]; simp

/-- A further waiter (R36). -/
theorem queueClaim (h : LawsBut o s) {i : SlotIx} (k : Key) (m : Mode) (wait : Nat) {e : EntryIx}
    {c : ClaimIx} (hc : s.freeList.head? = some c) (hi : (s.session i).state = .opened)
    (he : (s.entry e).occupied = true) : LawsBut o (s.queueClaim i k m wait e c) := by
  refine h.joined (State.queueClaim_taken s i k m wait e c) hc hi he (fun hw => by cases hw)
    (fun f => ?_) (by simp) (by simp) (by simp) (TableStep.queueClaim s i k m wait e c)
    (PoolStep.queueClaim s i k m wait e c)
  rw [State.queueClaim_entry]
  split
  · rename_i hf; subst hf; simp
  · simp

/-- A new entry (R8, R33). -/
theorem grantNew (h : LawsBut o s) {i : SlotIx} {k : Key} (m : Mode) {e : EntryIx} {c : ClaimIx}
    (hc : s.freeList.head? = some c) (hi : (s.session i).state = .opened)
    (he : (s.entry e).occupied = false) (hk : s.lookup k = none) :
    LawsBut o (s.grantNew i k m e c) := by
  obtain ⟨-, hE, hEs, hch, hchs, hns, hnss, hfc⟩ := State.grantNew_spec s i k m e c
  have g := State.grantNew_taken (c := c) s i k m (h.table.freeEntry e he)
  have hentry : ∀ f, e ≠ f → (s.grantNew i k m e c).entry f = s.entry f := fun f hf =>
    hEs f (by simpa using hf.symm)
  have habsent := h.table.lookup_none_iff.1 hk
  have hcount := State.countP_entries_change hentry
  have hnot : ∀ b, e ∉ s.chain b := fun b hb => by
    rw [((h.table.chains b e).1 hb).1] at he; cases he
  constructor
  case pool => exact h.pool.taken g hc
  case people =>
    exact h.people.taken g hi (TableStep.grantNew s i k m e c) (PoolStep.grantNew s i k m e c)
  case hasHolder =>
    intro f hof hocc
    by_cases hf : e = f
    · subst hf; rw [hE]; simp
    · rw [hentry f hf] at hocc ⊢; exact h.hasHolder f hof hocc
  case soleHolder =>
    intro f hocc hmode
    by_cases hf : e = f
    · subst hf; rw [hE]; simp
    · rw [hentry f hf] at hocc hmode ⊢; exact h.soleHolder f hocc hmode
  constructor
  case chains =>
    intro b f
    have hmem : f ∈ (s.grantNew i k m e c).chain b ↔ f ∈ s.chain b ∨ (bucketOf k = b ∧ f = e) := by
      by_cases hb : bucketOf k = b
      · subst hb; rw [hch]; simp
      · rw [hchs b (by simpa using fun hx => hb hx.symm)]; simp [hb]
    rw [hmem]
    by_cases hf : e = f
    · subst hf; rw [hE]; simp [hnot]
    · rw [hentry f hf, h.table.chains]; simp [Ne.symm hf]
  case chainsOnce =>
    intro b
    by_cases hb : bucketOf k = b
    · subst hb; rw [hch]
      exact (h.table.chainsOnce _).append (List.nodup_singleton e) (by simpa using hnot _)
    · rw [hchs b (by simpa using fun hx => hb hx.symm)]; exact h.table.chainsOnce b
  case keysDiffer =>
    intro f f' hf hf' hkey
    by_cases hef : e = f <;> by_cases hef' : e = f'
    · exact hef.symm.trans hef'
    · subst hef; rw [hentry f' hef'] at hf' hkey; rw [hE] at hkey
      exact absurd hkey.symm (habsent f' hf')
    · subst hef'; rw [hentry f hef] at hf hkey; rw [hE] at hkey
      exact absurd hkey (habsent f hf)
    · rw [hentry f hef] at hf hkey; rw [hentry f' hef'] at hf' hkey
      exact h.table.keysDiffer f f' hf hf' hkey
  case freeEntry =>
    intro f hf
    by_cases hef : e = f
    · subst hef; rw [hE] at hf; cases hf
    · rw [hentry f hef] at hf ⊢; exact h.table.freeEntry f hf
  case occupiedCount =>
    intro n
    have hn := hcount (fun x => x.occupied && x.key.ns == n)
    rw [hE] at hn
    simp only [he, Bool.false_and, Bool.toNat_false, Bool.true_and, Nat.add_zero] at hn
    by_cases hkn : k.ns = n
    · subst hkn
      rw [hns, hn, h.table.occupiedCount]
      simp only [beq_self_eq_true, Bool.toNat_true]
    · rw [hnss n (by simpa using fun hx => hkn hx.symm), hn, h.table.occupiedCount,
        beq_eq_false_iff_ne.2 hkn, Bool.toNat_false, Nat.add_zero]
  case freeCount =>
    have hn := hcount (fun x => !x.occupied)
    rw [hE] at hn
    simp only [he, Bool.not_false, Bool.toNat_true, Bool.not_true, Bool.toNat_false] at hn
    have hfree := h.table.freeCount
    unfold State.freeEntries at hfree ⊢
    omega

end LawsBut

end Sys2Proof.Machine
end

section
/-!
The laws of the lock table through the grant of a waiter (R37), the retirement of an entry (R10, R108), and the
changes of upgrades and modes, which the laws hardly see (R60 to R65).
-/

namespace Sys2Proof.Machine

variable {o : Option EntryIx} {s t : State}

/-! ### The grant of a waiter -/

/-- Granting the head of a queue keeps the laws of claims. -/
theorem ClaimLaws.grantWaiting (h : ClaimLaws s) {e : EntryIx} {c : ClaimIx}
    (hc : (s.entry e).waiters.head? = some c) : ClaimLaws (s.grantWaiting e c) := by
  obtain ⟨hst, hce⟩ := ((h.waiters e).2 c).1 (List.mem_of_mem_head? hc)
  have only : OnlyClaim c s (s.grantWaiting e c) := fun d hd => by
    rw [State.grantWaiting_claim, if_neg hd]
  have hrec := State.grantWaiting_claim s e c c
  rw [if_pos rfl] at hrec
  have hstate : ((s.grantWaiting e c).claim c).state = .held := by rw [hrec]
  have hentry : ((s.grantWaiting e c).claim c).entry = e := by rw [hrec]; exact hce
  have hsess : ((s.grantWaiting e c).claim c).session = (s.claim c).session := by rw [hrec]
  have hclaims : ∀ i, Lists (s.grantWaiting e c) ((s.grantWaiting e c).session i).claimList
      (fun x => x.state ≠ .free ∧ x.session = i) := by
    intro i
    have hl : ((s.grantWaiting e c).session i).claimList = (s.session i).claimList := by
      rw [State.grantWaiting_session]; split <;> rfl
    rw [hl]
    exact (h.claimList i).same only (by simp [hstate, hsess, hst])
  exact {
    upgradeHolds := fun f d hd => by
      rw [State.grantWaiting_entry] at hd ⊢
      split at hd
      · rename_i hf; subst hf
        rw [if_pos rfl]; exact List.mem_append_left _ (h.upgradeHolds e d hd)
      · rename_i hf
        rw [if_neg hf]; exact h.upgradeHolds f d hd
    freeList := by
      rw [(State.grantWaiting_fields s e c).2.1]
      exact h.freeList.same only (by simp [hstate, hst])
    holders := fun f => by
      rw [State.grantWaiting_entry]
      split
      · rename_i hf; subst hf
        exact (h.holders e).append only (by simp [hst]) ⟨hstate, hentry⟩
      · rename_i hf
        exact (h.holders f).same only (by simp [hstate, hentry, hst, hf])
    waiters := fun f => by
      rw [State.grantWaiting_entry]
      split
      · rename_i hf; subst hf
        exact (h.waiters e).tail only (by simp [hstate]) hc
      · rename_i hf
        exact (h.waiters f).same only (by simp [hstate, hst, hce, hf])
    notice := fun d => by
      by_cases hd : c = d
      · subst hd; simp [hstate]
      · rw [only d hd]; exact h.notice d
    claimList := hclaims
    counts := h.counts_move only hclaims
      (fun i => by
        rw [State.grantWaiting_session]
        split <;> simp [countsFor, *])
      (fun i => by
        rw [State.grantWaiting_session]
        split <;> simp [countsFor, *]) }

/-- Granting a head that is grantable keeps the laws. -/
theorem LawsBut.grantWaiting (h : LawsBut o s) {e : EntryIx} {c : ClaimIx}
    (hc : (s.entry e).waiters.head? = some c) (hg : s.headGrantable e (s.claim c).mode = true) :
    LawsBut o (s.grantWaiting e c) := by
  have hE := State.grantWaiting_entry s e c
  have hocc : (s.entry e).occupied = true := h.occupied_of_waiter (List.mem_of_mem_head? hc)
  obtain ⟨-, -, hch, hns, -⟩ := State.grantWaiting_fields s e c
  constructor
  case table =>
    refine h.table.of_same (fun f => ?_) (State.chain_congr hch) (fun n => by rw [State.ns_congr hns])
      (by rw [State.grantWaiting_writes])
    rw [hE]
    split
    · rename_i hf; subst hf; simp [hocc]
    · simp
  case pool => exact h.pool.grantWaiting hc
  case people =>
    refine h.people.step (TableStep.grantWaiting s e c) (PoolStep.grantWaiting s e c) fun i hi => ?_
    rw [State.grantWaiting_session]; split <;> exact hi
  case hasHolder =>
    intro f hof hf
    rw [hE] at hf ⊢
    split at hf
    · rename_i hef; rw [if_pos hef]; simp
    · rename_i hef; rw [if_neg hef]; exact h.hasHolder f hof hf
  case soleHolder =>
    intro f hf hm
    rw [hE] at hf hm ⊢
    split at hf
    · rename_i hef
      rw [if_pos hef] at hm ⊢
      cases hh : (s.entry e).holders with
      | nil => simp
      | cons x xs => simp_all [State.headGrantable]
    · rename_i hef
      rw [if_neg hef] at hm ⊢; exact h.soleHolder f hf hm

/-! ### The retirement of an entry -/

/-- Retiring an empty entry keeps the laws of entries: its chain closes over it and the counts follow. -/
theorem EntryLaws.retireEntry (h : EntryLaws s) {e : EntryIx} (he : (s.entry e).occupied = true) :
    EntryLaws (s.retireEntry e) := by
  have hE := State.retireEntry_entry s e
  have hother : ∀ f, e ≠ f → (s.retireEntry e).entry f = s.entry f := fun f hf => by
    rw [hE, if_neg hf]
  have hself : (s.retireEntry e).entry e = Entry.reset := by rw [hE, if_pos rfl]
  have hocc : ∀ f, ((s.retireEntry e).entry f).occupied = true → e ≠ f := by
    rintro f hf rfl; rw [hself] at hf; cases hf
  have hcount := State.countP_entries_change hother
  constructor
  case chains =>
    intro b f
    have hmem : f ∈ (s.retireEntry e).chain b ↔ f ∈ s.chain b ∧ e ≠ f := by
      rw [State.retireEntry_chain]
      split
      · rename_i hb; subst hb
        rw [List.mem_filter, bne_iff_ne, ne_comm]
      · rename_i hb
        refine ⟨fun hf => ⟨hf, ?_⟩, And.left⟩
        rintro rfl; exact hb ((h.chains b e).1 hf).2
    rw [hmem, h.chains]
    by_cases hf : e = f
    · subst hf; simp [hself, Entry.reset]
    · rw [hother f hf]; simp [hf]
  case chainsOnce =>
    intro b; rw [State.retireEntry_chain]
    split
    · exact (h.chainsOnce _).filter _
    · exact h.chainsOnce b
  case keysDiffer =>
    intro f f' hf hf' hk
    have g := hother f (hocc f hf)
    have g' := hother f' (hocc f' hf')
    rw [g] at hf hk; rw [g'] at hf' hk
    exact h.keysDiffer f f' hf hf' hk
  case freeEntry =>
    intro f hf
    by_cases hef : e = f
    · subst hef; exact hself
    · rw [hother f hef] at hf ⊢; exact h.freeEntry f hf
  case occupiedCount =>
    intro n
    have hn := hcount (fun x => x.occupied && x.key.ns == n)
    rw [hself] at hn
    simp only [he, Entry.reset, Bool.false_and, Bool.toNat_false, Bool.true_and,
      Nat.add_zero] at hn
    rw [State.retireEntry_ns]
    by_cases hkn : (s.entry e).key.ns = n
    · subst hkn
      rw [if_pos rfl, h.occupiedCount, ← hn]
      simp only [beq_self_eq_true, Bool.toNat_true, Nat.add_sub_cancel]
    · rw [beq_eq_false_iff_ne.2 hkn, Bool.toNat_false, Nat.add_zero] at hn
      rw [if_neg hkn, hn]; exact h.occupiedCount n
  case freeCount =>
    have hn := hcount (fun x => !x.occupied)
    rw [hself] at hn
    simp only [he, Entry.reset, Bool.not_false, Bool.toNat_true, Bool.not_true,
      Bool.toNat_false, Nat.add_zero] at hn
    have hfree := h.freeCount
    rw [State.retireEntry_freeEntryCount]
    unfold State.freeEntries at hfree ⊢
    omega

/-- Retiring an entry without holders and waiters settles it. -/
theorem LawsBut.retireEntry {e : EntryIx} (h : LawsBut (some e) s)
    (he : (s.entry e).occupied = true) (hh : (s.entry e).holders = [])
    (hw : (s.entry e).waiters = []) : LawsBut none (s.retireEntry e) := by
  have hE := State.retireEntry_entry s e
  have hsame : ∀ i, (s.retireEntry e).session i = s.session i := fun i => by simp
  refine LawsBut.settle (e := e) ?_ (by simp [hE, Entry.reset])
  constructor
  case table => exact h.table.retireEntry he
  case pool =>
    refine h.pool.of_same (fun f => ?_) (fun c => by simpa using SamePlace.refl _) (by simp)
      (fun i => by simp)
    rw [hE]
    split
    · rename_i hf; subst hf; simp [Entry.reset, hh, hw]
    · exact ⟨rfl, rfl, fun _ => .inl⟩
  case people =>
    exact h.people.step (TableStep.retireEntry s e) (PoolStep.retireEntry s e)
      fun i hi => by rw [hsame]; exact hi
  case hasHolder =>
    intro f hof hf
    have hef : ¬ e = f := by simpa using hof
    rw [hE, if_neg hef] at hf ⊢; exact h.hasHolder f hof hf
  case soleHolder =>
    intro f hf hm
    rw [hE] at hf hm ⊢
    split at hf
    · cases hf
    · rename_i hef; rw [if_neg hef] at hm ⊢; exact h.soleHolder f hf hm

/-! ### Upgrades, modes and notices -/

/-- A change of one entry and one claim's record that the laws do not see, with nothing else read by them. -/
theorem SameForLaws.of_lock {e : EntryIx} {c : ClaimIx}
    (he : SameLock (s.entry e) (t.entry e)) (heo : ∀ f, e ≠ f → t.entry f = s.entry f)
    (hc : SamePlace (s.claim c) (t.claim c)) (hco : OnlyClaim c s t) (hb : t.chains = s.chains)
    (hf : t.freeList = s.freeList) (hfc : t.freeEntryCount = s.freeEntryCount)
    (hn : t.namespaces = s.namespaces) (hs : t.sessions = s.sessions)
    (hi : ∀ l i, (t.line l).notices.count (.sessionEnded i) =
      (s.line l).notices.count (.sessionEnded i)) : SameForLaws s t where
  entry f := by
    by_cases hef : e = f
    · subst hef; exact he
    · rw [heo f hef]; exact SameLock.refl _
  claim d := by
    by_cases hd : c = d
    · subst hd; exact hc
    · rw [hco d hd]; exact SamePlace.refl _
  chain := State.chain_congr hb
  freeList := hf
  freeEntryCount := hfc
  occupied n := by rw [State.ns_congr hn]
  session i := by rw [State.session_congr hs]; simp
  items := hi

theorem SameForLaws.clearUpgrade {e : EntryIx} {c : ClaimIx} (he : (s.entry e).occupied = true) :
    SameForLaws s (s.clearUpgrade e c) := by
  refine SameForLaws.of_lock (e := e) (c := c) ?_ (fun f hf => ?_) ?_ (fun d hd => ?_) (by simp)
    (by simp) (by simp) (by simp) (by simp) (PoolStep.clearUpgrade s e c).items
  · simpa [State.clearUpgrade_entry, SameLock, he] using .inl
  · rw [State.clearUpgrade_entry, if_neg hf]
  · simp [State.clearUpgrade_claim, SamePlace]
  · rw [State.clearUpgrade_claim, if_neg hd]

theorem SameForLaws.makePending {e : EntryIx} {c : ClaimIx} (he : (s.entry e).occupied = true)
    (hc : c ∈ (s.entry e).holders) (wait : Nat) : SameForLaws s (s.makePending e c wait) := by
  refine SameForLaws.of_lock (e := e) (c := c) ?_ (fun f hf => ?_) ?_ (fun d hd => ?_) (by simp)
    (by simp) (by simp) (by simp) (by simp) (PoolStep.makePending s e c wait).items
  · rw [State.makePending_entry, if_pos rfl]
    refine ⟨rfl, rfl, rfl, rfl, by simp [he], fun d hd => .inr ?_, .inl⟩
    cases hd; exact hc
  · rw [State.makePending_entry, if_neg hf]
  · simp [State.makePending_claim, SamePlace]
  · rw [State.makePending_claim, if_neg hd]

theorem State.upgradeClaim_entry (s : State) (e : EntryIx) (c : ClaimIx) (f : EntryIx) :
    (s.upgradeClaim e c).entry f = if e = f then
      { s.entry e with
        upgrade := if (s.entry e).upgrade = some c then none else (s.entry e).upgrade,
        mode := .exclusive, latestToken := s.tokenCounter } else s.entry f := by
  unfold State.upgradeClaim
  by_cases hu : (s.entry e).upgrade = some c <;> by_cases hf : e = f
  · subst hf; simp [hu, State.clearUpgrade_entry]
  · simp [hu, hf, State.updEntry_entry, State.clearUpgrade_entry]
  · subst hf; simp [hu]
  · simp [hu, hf, State.updEntry_entry]

theorem State.upgradeClaim_claim (s : State) (e : EntryIx) (c d : ClaimIx) :
    (s.upgradeClaim e c).claim d = if c = d then
      { s.claim c with
        upgrade := if (s.entry e).upgrade = some c then false else (s.claim c).upgrade,
        waitDeadline := if (s.entry e).upgrade = some c then none else (s.claim c).waitDeadline,
        mode := .exclusive, token := s.tokenCounter } else s.claim d := by
  unfold State.upgradeClaim
  by_cases hu : (s.entry e).upgrade = some c <;> by_cases hd : c = d
  · subst hd; simp [hu, State.clearUpgrade_claim]
  · simp [hu, hd, State.updClaim_claim, State.clearUpgrade_claim]
  · subst hd; simp [hu]
  · simp [hu, hd, State.updClaim_claim]

/-- An upgrade makes a sole holder EXCLUSIVE. -/
theorem SameForLaws.upgradeClaim {e : EntryIx} {c : ClaimIx} (he : (s.entry e).occupied = true)
    (hc : (s.entry e).holders = [c]) : SameForLaws s (s.upgradeClaim e c) := by
  refine SameForLaws.of_lock (e := e) (c := c) ?_ (fun f hf => ?_) ?_ (fun d hd => ?_) (by simp)
    (by simp) (by simp) (by simp) (by simp) (PoolStep.upgradeClaim s e c).items
  · rw [State.upgradeClaim_entry, if_pos rfl]
    refine ⟨rfl, rfl, rfl, rfl, by simp [he], fun d hd => .inl ?_, fun _ => .inr (by simp [hc])⟩
    dsimp only at hd
    split at hd
    · cases hd
    · exact hd
  · rw [State.upgradeClaim_entry, if_neg hf]
  · simp [State.upgradeClaim_claim, SamePlace]
  · rw [State.upgradeClaim_claim, if_neg hd]

/-- A CONVERT down makes a claim and its entry SHARED (R60). -/
theorem SameForLaws.downgrade {e : EntryIx} (he : (s.entry e).occupied = true) (c : ClaimIx) :
    SameForLaws s ((s.updClaim c (fun x => { x with mode := .shared })).updEntry e
      (fun x => { x with mode := .shared })) := by
  refine SameForLaws.of_lock (e := e) (c := c) ?_ (fun f hf => ?_) ?_ (fun d hd => ?_) (by simp)
    (by simp) (by simp) (by simp) (by simp) (fun l i => by simp)
  · simp only [State.updEntry_entry_same, State.updClaim_entry]
    exact ⟨rfl, rfl, rfl, rfl, by simp [he], fun _ => .inl, by simp⟩
  · simp [State.updEntry_entry, hf]
  · simp [SamePlace]
  · simp [State.updClaim_claim, hd]

/-- A notice raised for a HELD claim. -/
theorem SameForLaws.raiseNotice {c : ClaimIx} (hc : (s.claim c).state = .held) (k : NoticeKind) :
    SameForLaws s (s.raiseNotice c k) := by
  refine SameForLaws.of_lock (e := 0) (c := c) (by simpa using SameLock.refl _) (fun f hf => by simp)
    ?_ (fun d hd => ?_) (by simp) (by simp) (by simp) (by simp) (by simp)
    (PoolStep.raiseNotice s c k).items
  · simp [SamePlace, hc]
  · rw [State.raiseNotice_claim, if_neg hd]

/-- A cause raised. -/
theorem SameForLaws.raise (s : State) (k : DeviceCause) : SameForLaws s (s.raise k) :=
  .of_tables rfl rfl rfl rfl rfl (fun _ => rfl) (fun _ => ⟨rfl, rfl, rfl, rfl, rfl⟩) (fun _ _ => rfl)

end Sys2Proof.Machine
end

section
/-!
The laws of the lock table through lists of claims that leave one lock (R11, R46, R53) and through the grant pass
(R37 to R40), which settles the entry it runs on and keeps every HELD claim where it is.
-/

namespace Sys2Proof.Machine

variable {o : Option EntryIx} {s t u : State}

/-! ### Several claims leave one lock -/

/-- The operation takes a HELD or WAITING claim off its lock and keeps the laws. -/
structure TakesOff (f : State → ClaimIx → State) : Prop where
  left : ∀ s c, LeftLock c s (f s c)
  laws : ∀ {o s c}, LawsBut o s → (s.claim c).state = .held ∨ (s.claim c).state = .waiting →
    ((s.claim c).state = .held → o = some (s.claim c).entry) → LawsBut o (f s c)

theorem not_free_of_on_lock {c : ClaimIx}
    (h : (s.claim c).state = .held ∨ (s.claim c).state = .waiting) : (s.claim c).state ≠ .free := by
  rcases h with h | h <;> simp [h]

theorem TakesOff.freeClaim : TakesOff State.freeClaim where
  left := LeftLock.freeClaim
  laws h hc ho := h.freeClaim (not_free_of_on_lock hc) ho

theorem TakesOff.dropClaim (k : NoticeKind) : TakesOff (fun s c => s.dropClaim c k) where
  left s c := by
    unfold State.dropClaim
    split
    · exact LeftLock.detachClaim s c k
    · exact LeftLock.freeClaim s c
  laws {o s c} h hc ho := by
    unfold State.dropClaim
    split
    · exact h.detachClaim (not_free_of_on_lock hc) k ho
    · exact h.freeClaim (not_free_of_on_lock hc) ho

/-- Counting a revoke changes nothing the laws read. -/
theorem SameForLaws.countRevoke (s : State) : SameForLaws s s.countRevoke :=
  .of_tables rfl rfl rfl rfl rfl (fun _ => rfl) (fun _ => ⟨rfl, rfl, rfl, rfl, rfl⟩) (fun _ _ => rfl)

theorem TakesOff.revokeClaim : TakesOff State.revokeClaim where
  left s c := { (TakesOff.dropClaim .revoked).left s.countRevoke c with }
  laws h hc ho := (TakesOff.dropClaim .revoked).laws (h.of_same (.countRevoke _)) hc ho

/-- Claims of one entry leave it one by one: the entry loses exactly these, and stays occupied until its
retirement or its grant pass. -/
theorem TakesOff.foldl {f : State → ClaimIx → State} (hf : TakesOff f) {e : EntryIx}
    {cs : List ClaimIx} (hn : cs.Nodup) (h : LawsBut (some e) s)
    (hcs : ∀ c ∈ cs, ((s.claim c).state = .held ∨ (s.claim c).state = .waiting) ∧
      (s.claim c).entry = e) :
    LawsBut (some e) (cs.foldl f s) ∧
    (∀ d, d ∉ cs → (cs.foldl f s).claim d = s.claim d) ∧
    ((cs.foldl f s).entry e).holders = (s.entry e).holders.filter (fun d => !cs.contains d) ∧
    ((cs.foldl f s).entry e).waiters = (s.entry e).waiters.filter (fun d => !cs.contains d) ∧
    ((cs.foldl f s).entry e).occupied = (s.entry e).occupied := by
  induction cs generalizing s with
  | nil => simpa using h
  | cons c rest ih =>
    obtain ⟨hc, hrest⟩ := List.nodup_cons.1 hn
    obtain ⟨hstate, hentry⟩ := hcs c (by simp)
    have g := hf.left s c
    obtain ⟨hh, hw, hocc, -⟩ := h.pool.entryWithout c e (g.entry e)
    have hne : ∀ d ∈ rest, c ≠ d := by rintro d hd rfl; exact hc hd
    obtain ⟨i1, i2, i3, i4, i5⟩ := ih hrest (hf.laws h hstate fun _ => by rw [hentry])
      (fun d hd => by rw [g.only d (hne d hd)]; exact hcs d (List.mem_cons_of_mem _ hd))
    have hfilter : ∀ L : List ClaimIx, (L.filter (fun d => d != c)).filter (fun d => !rest.contains d) =
        L.filter (fun d => !(c :: rest).contains d) := fun L => by
      rw [List.filter_filter]
      exact List.filter_congr fun d _ => by rw [List.contains_cons, Bool.not_or, Bool.and_comm]; rfl
    rw [List.foldl_cons]
    refine ⟨i1, fun d hd => ?_, ?_, ?_, i5.trans hocc⟩
    · rw [List.mem_cons, not_or] at hd
      rw [i2 d hd.2, g.only d (Ne.symm hd.1)]
    · rw [i3, hh, hfilter]
    · rw [i4, hw, hfilter]

theorem State.revokeClaims_append (s : State) (cs ds : List ClaimIx) :
    s.revokeClaims (cs ++ ds) = (s.revokeClaims cs).revokeClaims ds := by
  simp [State.revokeClaims]

/-- The claims of a list are gone from it. -/
theorem filter_not_contains_self (L : List ClaimIx) : L.filter (fun d => !L.contains d) = [] := by
  simp [List.filter_eq_nil_iff]

/-- The claims of an entry stand on it, holders and waiters apart. -/
theorem ClaimLaws.on_lock (h : ClaimLaws s) (e : EntryIx) :
    ((s.entry e).holders ++ (s.entry e).waiters).Nodup ∧
    ∀ c ∈ (s.entry e).holders ++ (s.entry e).waiters,
      ((s.claim c).state = .held ∨ (s.claim c).state = .waiting) ∧ (s.claim c).entry = e := by
  have hh := h.holders e
  have hw := h.waiters e
  refine ⟨hh.1.append hw.1 fun c hc hc' => ?_, fun c hc => ?_⟩
  · have h1 := ((hh.2 c).1 hc).1
    rw [((hw.2 c).1 hc').1] at h1; cases h1
  · rcases List.mem_append.1 hc with hc | hc
    · exact ⟨.inl ((hh.2 c).1 hc).1, ((hh.2 c).1 hc).2⟩
    · exact ⟨.inr ((hw.2 c).1 hc).1, ((hw.2 c).1 hc).2⟩

/-- Every claim of an entry is revoked and the entry retired (R110, R172). -/
theorem LawsBut.revokeEntry (h : LawsBut none s) {e : EntryIx} (he : (s.entry e).occupied = true) :
    LawsBut none ((s.revokeClaims ((s.entry e).holders ++ (s.entry e).waiters)).retireEntry e) := by
  obtain ⟨hn, hcs⟩ := h.pool.on_lock e
  obtain ⟨h1, -, h3, h4, h5⟩ := TakesOff.revokeClaim.foldl hn (h.excuse (o := some e)) hcs
  refine LawsBut.retireEntry h1 (h5.trans he) (h3.trans ?_) (h4.trans ?_) <;>
    · rw [List.filter_eq_nil_iff]
      intro d hd
      simp [hd]

/-! ### HELD claims stay -/

/-- Every HELD claim is still HELD, on the same entry. -/
def HeldKept (s t : State) : Prop :=
  ∀ d, (s.claim d).state = .held → (t.claim d).state = .held ∧ (t.claim d).entry = (s.claim d).entry

theorem HeldKept.refl (s : State) : HeldKept s s := fun _ hd => ⟨hd, rfl⟩

theorem HeldKept.trans (h : HeldKept s t) (g : HeldKept t u) : HeldKept s u := fun d hd => by
  obtain ⟨h1, h2⟩ := h d hd
  obtain ⟨g1, g2⟩ := g d h1
  exact ⟨g1, g2.trans h2⟩

theorem SameForLaws.heldKept (h : SameForLaws s t) : HeldKept s t := fun d hd =>
  ⟨(h.claim d).1.trans hd, (h.claim d).2.1⟩

/-- A change of claims that are not HELD. -/
theorem HeldKept.of_others (h : ∀ d, (s.claim d).state = .held → t.claim d = s.claim d) :
    HeldKept s t := fun d hd => by rw [h d hd]; exact ⟨hd, rfl⟩

/-! ### The grant pass -/

/-- The laws hold with no entry excused, and no HELD claim has left its lock. -/
def Settled (s t : State) : Prop := LawsBut none t ∧ HeldKept s t

/-- An entry without holders whose waiters leave is retired (R11). -/
theorem LawsBut.detachWaiters {e : EntryIx} (h : LawsBut (some e) s)
    (he : (s.entry e).occupied = true) (hh : (s.entry e).holders = []) :
    Settled s (s.detachWaiters e) := by
  have hw := h.pool.waiters e
  obtain ⟨h1, h2, h3, h4, h5⟩ := (TakesOff.dropClaim .waitExpired).foldl hw.1 h
    (fun c hc => ⟨.inr ((hw.2 c).1 hc).1, ((hw.2 c).1 hc).2⟩)
  refine ⟨h1.retireEntry (h5.trans he) (by rw [h3, hh]; rfl)
    (by rw [h4]; exact filter_not_contains_self _), HeldKept.of_others fun d hd => ?_⟩
  unfold State.detachWaiters
  rw [(State.retireEntry_reads _ _).1]
  refine h2 d fun hdw => ?_
  rw [((hw.2 d).1 hdw).1] at hd; cases hd

/-- Step 4 of the pass settles the entry. -/
theorem LawsBut.settleEntry {e : EntryIx} (h : LawsBut (some e) s)
    (he : (s.entry e).occupied = true) : Settled s (s.settleEntry e) := by
  unfold State.settleEntry
  split
  · rename_i hh
    rw [List.isEmpty_iff] at hh
    split
    · rename_i hw
      exact ⟨h.retireEntry he hh (List.isEmpty_iff.1 hw),
        HeldKept.of_others fun d _ => (State.retireEntry_reads _ _).1 d⟩
    · exact h.detachWaiters he hh
  · rename_i hh
    exact ⟨h.settle fun _ hnil => hh (by simp [hnil]), HeldKept.refl s⟩

/-- Step 3 of the pass frees and grants heads of the queue. -/
theorem LawsBut.grantHeads {e : EntryIx} (fuel : Nat) (h : LawsBut (some e) s)
    (he : (s.entry e).occupied = true) :
    LawsBut (some e) (State.grantHeads fuel s e) ∧
    ((State.grantHeads fuel s e).entry e).occupied = true ∧
    HeldKept s (State.grantHeads fuel s e) := by
  induction fuel generalizing s with
  | zero => exact ⟨h, he, HeldKept.refl s⟩
  | succ fuel ih =>
    rw [State.grantHeads]
    split
    · exact ⟨h, he, HeldKept.refl s⟩
    · rename_i c rest hw
      have hhead : (s.entry e).waiters.head? = some c := by rw [hw]; rfl
      obtain ⟨hstate, -⟩ := ((h.pool.waiters e).2 c).1 (List.mem_of_mem_head? hhead)
      have hnot : ∀ d, (s.claim d).state = .held → c ≠ d := by
        rintro d hd rfl; rw [hstate] at hd; cases hd
      split
      · have h' := h.freeClaim (c := c) (by simp [hstate]) (by simp [hstate])
        have hocc := (h.pool.entryWithout c e (State.freeClaim_entry s c e)).2.2.1
        obtain ⟨i1, i2, i3⟩ := ih h' (hocc.trans he)
        refine ⟨i1, i2, HeldKept.trans (HeldKept.of_others fun d hd => ?_) i3⟩
        rw [State.freeClaim_claim, if_neg (hnot d hd)]
      split
      swap
      · exact ⟨h, he, HeldKept.refl s⟩
      rename_i hg
      split
      swap
      · exact ⟨h.of_same (.raise s _), he, (SameForLaws.raise s _).heldKept⟩
      have h' := h.grantWaiting hhead hg
      have hocc : ((s.grantWaiting e c).entry e).occupied = true := by
        rw [State.grantWaiting_entry, if_pos rfl]; exact he
      have hkept : HeldKept s (s.grantWaiting e c) := HeldKept.of_others fun d hd => by
        rw [State.grantWaiting_claim, if_neg (hnot d hd)]
      split
      · exact ⟨h', hocc, hkept⟩
      · obtain ⟨i1, i2, i3⟩ := ih h' hocc
        exact ⟨i1, i2, hkept.trans i3⟩

/-- The pass begins by clearing a pending upgrade of an ENDING session (R39). -/
theorem SameForLaws.clearEndingUpgrade {e : EntryIx} (he : (s.entry e).occupied = true) :
    SameForLaws s (s.clearEndingUpgrade e) ∨ s.clearEndingUpgrade e = s := by
  unfold State.clearEndingUpgrade
  split
  · split
    · exact .inl (.clearUpgrade he)
    · exact .inr rfl
  · exact .inr rfl

/-- A grant pass on an occupied entry settles it. -/
theorem LawsBut.grantPass {e : EntryIx} (h : LawsBut (some e) s)
    (he : (s.entry e).occupied = true) : Settled s (s.grantPass e) := by
  have hclear : LawsBut (some e) (s.clearEndingUpgrade e) ∧ HeldKept s (s.clearEndingUpgrade e) ∧
      ((s.clearEndingUpgrade e).entry e).occupied = true := by
    rcases SameForLaws.clearEndingUpgrade he with hs | hs
    · exact ⟨h.of_same hs, hs.heldKept, (hs.entry e).1.trans he⟩
    · rw [hs]; exact ⟨h, HeldKept.refl s, he⟩
  unfold State.grantPass
  generalize s.clearEndingUpgrade e = u at hclear
  obtain ⟨hu, hkept, hocc⟩ := hclear
  suffices hs : ∀ v, Settled u v → Settled s v by
    dsimp only
    split
    · rename_i c hup
      have hmem := hu.pool.upgradeHolds e c hup
      have hnone : LawsBut none u := hu.settle fun _ hnil => by rw [hnil] at hmem; cases hmem
      split
      · rename_i hsole
        split
        · have hg := SameForLaws.upgradeClaim hocc hsole
          have hheld : ((u.upgradeClaim e c).claim c).state = .held := by
            rw [(hg.claim c).1]; exact (((hu.pool.holders e).2 c).1 hmem).1
          have hn := SameForLaws.raiseNotice hheld .granted
          exact hs _ ⟨(hnone.of_same hg).of_same hn, hg.heldKept.trans hn.heldKept⟩
        · exact hs _ ⟨hnone.of_same (.raise u _), (SameForLaws.raise u _).heldKept⟩
      · exact hs _ ⟨hnone, HeldKept.refl u⟩
    · obtain ⟨h1, h2, h3⟩ := hu.grantHeads (u.entry e).waiters.length hocc
      obtain ⟨h4, h5⟩ := h1.settleEntry h2
      exact hs _ ⟨h4, h3.trans h5⟩
  exact fun v hv => ⟨hv.1, hkept.trans hv.2⟩

/-- A claim leaves its lock and its entry's grant pass runs (R41, R42, R44, R90): the laws hold after it, and
every other HELD claim is HELD still. -/
theorem TakesOff.thenPass {f : State → ClaimIx → State} (hf : TakesOff f) (h : LawsBut none s)
    {c : ClaimIx} (hc : (s.claim c).state = .held ∨ (s.claim c).state = .waiting) :
    LawsBut none ((f s c).grantPass (s.claim c).entry) ∧
    ∀ d, c ≠ d → (s.claim d).state = .held →
      (((f s c).grantPass (s.claim c).entry).claim d).state = .held := by
  have hocc := h.occupied_of_claim hc
  obtain ⟨hlaws, hkept⟩ := (hf.laws h.excuse hc fun _ => rfl).grantPass (by
    rw [(h.pool.entryWithout c _ ((hf.left s c).entry _)).2.2.1]; exact hocc)
  exact ⟨hlaws, fun d hcd hd => (hkept d (by rw [(hf.left s c).only d hcd]; exact hd)).1⟩

end Sys2Proof.Machine
end

section
/-!
The laws of the lock table through the requests of stations (chapters 2, 3 and 4): what the request path writes,
the work of each kind, and the changes of a session's state.
-/

namespace Sys2Proof.Machine

variable {o : Option EntryIx} {s t u : State}

/-! ### What the request path writes -/

theorem SameForLaws.trans (h : SameForLaws s t) (g : SameForLaws t u) : SameForLaws s u where
  entry e := by
    obtain ⟨h1, h2, h3, h4, h5, h6, h7⟩ := h.entry e
    obtain ⟨g1, g2, g3, g4, g5, g6, g7⟩ := g.entry e
    refine ⟨g1.trans h1, g2.trans h2, g3.trans h3, g4.trans h4,
      fun hf => (g5 (h1.trans hf)).trans (h5 hf), fun c hc => ?_, fun hm => ?_⟩
    · rw [h3] at g6; exact (g6 c hc).elim (h6 c) .inr
    · rw [h3] at g7; exact (g7 hm).elim h7 .inr
  claim c := by
    obtain ⟨h1, h2, h3, h4⟩ := h.claim c
    obtain ⟨g1, g2, g3, g4⟩ := g.claim c
    exact ⟨g1.trans h1, g2.trans h2, g3.trans h3,
      fun hc => (g4 (by rwa [h1])).trans (h4 hc)⟩
  chain b := (g.chain b).trans (h.chain b)
  freeList := g.freeList.trans h.freeList
  freeEntryCount := g.freeEntryCount.trans h.freeEntryCount
  occupied n := (g.occupied n).trans (h.occupied n)
  session i := by
    obtain ⟨h1, h2, h3, h4, h5⟩ := h.session i
    obtain ⟨g1, g2, g3, g4, g5⟩ := g.session i
    exact ⟨g1.trans h1, g2.trans h2, g3.trans h3, g4.trans h4, g5.trans h5⟩
  items l i := (g.items l i).trans (h.items l i)

theorem SameForLaws.refl (s : State) : SameForLaws s s :=
  .of_tables rfl rfl rfl rfl rfl (fun _ => rfl) (fun _ => ⟨rfl, rfl, rfl, rfl, rfl⟩) (fun _ _ => rfl)

/-- A change of one session in fields that the laws do not read. -/
theorem SameForLaws.updSession (s : State) (i : SlotIx) (f : Session → Session)
    (hf : ∀ x, (f x).state = x.state ∧ (f x).endingSweep = x.endingSweep ∧
      (f x).claimList = x.claimList ∧ (f x).heldCount = x.heldCount ∧
      (f x).waitingCount = x.waitingCount) : SameForLaws s (s.updSession i f) := by
  refine .of_tables rfl rfl rfl rfl rfl (fun _ => rfl) (fun j => ?_) (fun _ _ => rfl)
  rw [State.updSession_session]
  split
  · rename_i hj; subst hj; exact hf _
  · exact ⟨rfl, rfl, rfl, rfl, rfl⟩

/-- A change of one line that keeps its notice list. -/
theorem SameForLaws.updLine (s : State) (l : LineIx) (f : Line → Line)
    (hf : ∀ x, (f x).notices = x.notices) : SameForLaws s (s.updLine l f) := by
  refine .of_tables rfl rfl rfl rfl rfl (fun _ => rfl) (fun _ => ⟨rfl, rfl, rfl, rfl, rfl⟩)
    (fun m i => ?_)
  rw [State.updLine_line]
  split
  · rename_i hm; subst hm; rw [hf]
  · rfl

/-- A change of one namespace that keeps its occupied count. -/
theorem SameForLaws.updNs (s : State) (n : NsIx) (f : Namespace → Namespace)
    (hf : ∀ x, (f x).occupied = x.occupied) : SameForLaws s (s.updNs n f) := by
  refine .of_tables rfl rfl rfl rfl rfl (fun m => ?_) (fun _ => ⟨rfl, rfl, rfl, rfl, rfl⟩)
    (fun _ _ => rfl)
  rw [State.updNs_ns]
  split
  · rename_i hm; subst hm; exact hf _
  · rfl

/-- A change outside the tables of entries, claims, sessions, namespaces and lines. -/
theorem SameForLaws.of_eq (he : t.entries = s.entries) (hc : t.claims = s.claims)
    (hb : t.chains = s.chains) (hf : t.freeList = s.freeList)
    (hn : t.freeEntryCount = s.freeEntryCount) (ho : t.namespaces = s.namespaces)
    (hs : t.sessions = s.sessions) (hl : t.lines = s.lines) : SameForLaws s t :=
  .of_tables he hc hb hf hn (fun n => by rw [State.ns_congr ho])
    (fun i => by rw [State.session_congr hs]; exact ⟨rfl, rfl, rfl, rfl, rfl⟩)
    (fun l i => by rw [State.line_congr hl])

theorem SameForLaws.setLongCommand (s : State) (c : Option LongCommand) :
    SameForLaws s { s with longCommand := c } := .of_eq rfl rfl rfl rfl rfl rfl rfl rfl

theorem SameForLaws.served (s : State) (p : SourceIx) : SameForLaws s (s.served p) :=
  .of_eq rfl rfl rfl rfl rfl rfl rfl rfl

theorem SameForLaws.takeFrame (s : State) (l : LineIx) (r : Request) :
    SameForLaws s (s.takeFrame l r) :=
  (SameForLaws.updLine s l _ fun _ => by rfl).trans (.served _ _)

theorem SameForLaws.dropLease (s : State) (i : SlotIx) : SameForLaws s (s.dropLease i) :=
  .of_eq rfl rfl rfl rfl rfl rfl rfl rfl

theorem SameForLaws.setLease (s : State) (i : SlotIx) : SameForLaws s (s.setLease i) :=
  ((SameForLaws.updSession s i
    (fun x => { x with leaseDeadline := some (deadlineAfter s.time (s.session i).lease) })
    fun _ => ⟨rfl, rfl, rfl, rfl, rfl⟩).trans (.dropLease _ i)).trans
    (.of_eq rfl rfl rfl rfl rfl rfl rfl rfl)

theorem SameForLaws.fillReply (s : State) (i : SlotIx) (r : Reply) :
    SameForLaws s (s.fillReply i r) :=
  SameForLaws.updLine s _ _ fun _ => rfl

theorem SameForLaws.answer (s : State) (i : SlotIx) (r : Reply) : SameForLaws s (s.answer i r) := by
  unfold State.answer
  have hfill := SameForLaws.fillReply s i r
  dsimp only
  split
  · exact hfill.trans (.of_eq rfl rfl rfl rfl rfl rfl rfl rfl)
  · exact hfill

theorem SameForLaws.finish (s : State) (i : SlotIx) (r : Request) (reply : Reply) :
    SameForLaws s (s.finish i r reply) :=
  (SameForLaws.answer s i reply).trans
    (SameForLaws.updSession _ i (fun x => { x with cache := ⟨r.tag, r.kind, reply, true⟩ })
      fun _ => ⟨rfl, rfl, rfl, rfl, rfl⟩)

theorem SameForLaws.answerFromCache (s : State) (i : SlotIx) : SameForLaws s (s.answerFromCache i) :=
  (SameForLaws.setLease s i).trans (.fillReply _ i _)

/-- The answers of the common checks change nothing the laws read. -/
theorem SameForLaws.commonChecks {i : SlotIx} {r : Request} (h : s.commonChecks i r = some t) :
    SameForLaws s t := by
  unfold State.commonChecks at h
  split at h
  · cases h
    refine SameForLaws.trans ?_ (.answer _ _ _)
    unfold State.suspendedLease
    split
    · exact .setLease s i
    · exact .refl s
  · cases h; exact .answer _ _ _
  · split at h
    · cases h; exact .answer _ _ _
    · split at h <;> cases h
      exact .answerFromCache _ _

/-- A request that passes the common checks is of an OPEN session (R74). -/
theorem State.opened_of_commonChecks {i : SlotIx} {r : Request} (h : s.commonChecks i r = none) :
    (s.session i).state = .opened := by
  unfold State.commonChecks at h
  split at h
  · cases h
  · cases h
  · split at h
    · cases h
    · rename_i hs
      unfold sessionRefusal at hs
      split at hs
      · cases hs
      split at hs
      · cases hs
      split at hs
      · assumption
      · cases hs

/-! ### Changes of a session's state -/

/-- The laws through a change of session states, with every table else as the laws see it. -/
theorem LawsBut.of_people (h : LawsBut o s) (he : t.entries = s.entries) (hc : t.claims = s.claims)
    (hb : t.chains = s.chains) (hf : t.freeList = s.freeList)
    (hn : t.freeEntryCount = s.freeEntryCount) (ho : t.namespaces = s.namespaces)
    (hs : ∀ i, (t.session i).claimList = (s.session i).claimList ∧
      (t.session i).heldCount = (s.session i).heldCount ∧
      (t.session i).waitingCount = (s.session i).waitingCount)
    (hp : SessionLaws t) : LawsBut o t where
  table := h.table.of_same (fun e => by rw [State.entry_congr he]; simp) (State.chain_congr hb)
    (fun n => by rw [State.ns_congr ho]) hn
  pool := h.pool.of_same (fun e => by rw [State.entry_congr he]; exact ⟨rfl, rfl, fun _ => .inl⟩)
    (fun c => by rw [State.claim_congr hc]; exact SamePlace.refl _) hf hs
  people := hp
  hasHolder e := by rw [State.entry_congr he]; exact h.hasHolder e
  soleHolder e := by rw [State.entry_congr he]; exact h.soleHolder e

/-- The laws of sessions when session `i` takes a new state: it has no claims if it is IDLE or ENDED now, its
sweep is that of an ENDING session, and its item stands where an ENDED one's may. -/
theorem SessionLaws.setState (h : SessionLaws s) {i : SlotIx}
    (hother : ∀ j, i ≠ j → (t.session j).state = (s.session j).state ∧
      (t.session j).endingSweep = (s.session j).endingSweep)
    (hlist : ∀ j, (t.session j).claimList = (s.session j).claimList)
    (hclaims : (t.session i).state = .idle ∨ (t.session i).state = .ended →
      (s.session i).claimList = [])
    (hsweep : (t.session i).endingSweep ≠ .inactive → (t.session i).state = .ending)
    (hitems : ∀ l j, i ≠ j → (t.line l).notices.count (.sessionEnded j) ≤
      (s.line l).notices.count (.sessionEnded j))
    (hitem : ∀ l, (t.line l).notices.count (.sessionEnded i) ≤ 1 ∧
      (.sessionEnded i ∈ (t.line l).notices → l = lineOf i ∧ (t.session i).state = .ended)) :
    SessionLaws t where
  noClaims j hj := by
    rw [hlist]
    by_cases hij : i = j
    · subst hij; exact hclaims hj
    · rw [(hother j hij).1] at hj; exact h.noClaims j hj
  sweeps j hj := by
    by_cases hij : i = j
    · subst hij; exact hsweep hj
    · rw [(hother j hij).2] at hj; rw [(hother j hij).1]; exact h.sweeps j hj
  endedItem l j := by
    by_cases hij : i = j
    · subst hij; exact hitem l
    · rw [(hother j hij).1]
      obtain ⟨h1, h2⟩ := h.endedItem l j
      refine ⟨(hitems l j hij).trans h1, fun hm => h2 ?_⟩
      rw [← List.count_pos_iff] at hm ⊢
      exact lt_of_lt_of_le hm (hitems l j hij)

/-- A session that is not ENDED has no item. -/
theorem SessionLaws.no_item (h : SessionLaws s) {i : SlotIx} (hi : (s.session i).state ≠ .ended)
    (l : LineIx) : NoticeItem.sessionEnded i ∉ (s.line l).notices :=
  fun hm => hi ((h.endedItem l i).2 hm).2

/-- Session `i` takes a new state and a new sweep state, and keeps its claims: what `LawsBut` asks for. -/
theorem LawsBut.updState (h : LawsBut o s) {i : SlotIx} {f : Session → Session}
    (hf : ∀ x, (f x).claimList = x.claimList ∧ (f x).heldCount = x.heldCount ∧
      (f x).waitingCount = x.waitingCount)
    (hclaims : (f (s.session i)).state = .idle ∨ (f (s.session i)).state = .ended →
      (s.session i).claimList = [])
    (hsweep : (f (s.session i)).endingSweep ≠ .inactive → (f (s.session i)).state = .ending)
    (hitem : ∀ l, .sessionEnded i ∈ (s.line l).notices → (f (s.session i)).state = .ended) :
    LawsBut o (s.updSession i f) := by
  have hsess : ∀ j, ((s.updSession i f).session j).claimList = (s.session j).claimList ∧
      ((s.updSession i f).session j).heldCount = (s.session j).heldCount ∧
      ((s.updSession i f).session j).waitingCount = (s.session j).waitingCount := fun j => by
    rw [State.updSession_session]
    split
    · rename_i hj; subst hj; exact hf _
    · exact ⟨rfl, rfl, rfl⟩
  refine h.of_people rfl rfl rfl rfl rfl rfl hsess (h.people.setState (i := i) (fun j hj => ?_)
    (fun j => (hsess j).1) ?_ ?_ (fun _ _ _ => le_refl _) fun l => ?_)
  · rw [State.updSession_session, if_neg hj]; exact ⟨rfl, rfl⟩
  · rw [State.updSession_session_same]; exact hclaims
  · rw [State.updSession_session_same]; exact hsweep
  · rw [State.updSession_session_same]
    obtain ⟨h1, h2⟩ := h.people.endedItem l i
    exact ⟨h1, fun hm => ⟨(h2 hm).1, hitem l hm⟩⟩

/-- An OPEN session enters ENDING (R86). -/
theorem LawsBut.enterEnding (h : LawsBut o s) {i : SlotIx} (hi : (s.session i).state = .opened)
    (cause : EndCause) : LawsBut o (s.enterEnding i cause) := by
  refine (h.of_same (.dropLease s i)).updState (fun x => ⟨rfl, rfl, rfl⟩) (by simp) (fun _ => rfl)
    fun l hm => ?_
  exact absurd hm (h.people.no_item (by simp [hi]) l)

/-- The withdrawal of a SESSION_ENDED item leaves none, and touches no other. -/
theorem State.withdrawSessionEnded_count (s : State) (i : SlotIx) (l : LineIx) (j : SlotIx) :
    ((s.withdrawSessionEnded i).line l).notices.count (.sessionEnded j) =
      if i = j ∧ l = lineOf i then 0 else (s.line l).notices.count (.sessionEnded j) := by
  unfold State.withdrawSessionEnded
  rw [State.updLine_line]
  by_cases hl : lineOf i = l
  · subst hl
    rw [if_pos rfl]
    by_cases hij : i = j
    · subst hij
      rw [if_pos ⟨rfl, rfl⟩, List.count_eq_zero]
      simp
    · rw [if_neg (fun hx => hij hx.1)]
      exact List.count_filter (by simpa using fun hx => hij hx.symm)
  · rw [if_neg hl, if_neg (fun hx => hl hx.2.symm)]

/-- Withdrawing a session's item keeps the laws, and leaves none on any line. -/
theorem LawsBut.withdrawSessionEnded (h : LawsBut o s) (i : SlotIx) :
    LawsBut o (s.withdrawSessionEnded i) ∧
    ∀ l, .sessionEnded i ∉ ((s.withdrawSessionEnded i).line l).notices := by
  have hcount := State.withdrawSessionEnded_count s i
  have hnone : ∀ l, .sessionEnded i ∉ ((s.withdrawSessionEnded i).line l).notices := fun l => by
    rw [← List.count_eq_zero, hcount]
    split
    · rfl
    · rename_i hl
      rw [List.count_eq_zero]
      exact fun hm => hl ⟨rfl, ((h.people.endedItem l i).2 hm).1⟩
  refine ⟨h.of_people rfl rfl rfl rfl rfl rfl (fun _ => ⟨rfl, rfl, rfl⟩)
    (h.people.setState (i := i) (fun _ _ => ⟨rfl, rfl⟩) (fun _ => rfl) (h.people.noClaims i)
      (h.people.sweeps i) (fun l j hij => ?_) fun l => ?_), hnone⟩
  · rw [hcount, if_neg (fun hx => hij hx.1)]
  · rw [List.count_eq_zero_of_not_mem (hnone l)]
    exact ⟨Nat.zero_le _, fun hm => absurd hm (hnone l)⟩

/-- An IDLE or ENDED session is opened (R81, R82). -/
theorem LawsBut.acceptOpen (h : LawsBut o s) {i : SlotIx} (r : Request)
    (hi : (s.session i).state = .idle ∨ (s.session i).state = .ended) :
    LawsBut o (s.acceptOpen i r) := by
  unfold State.acceptOpen
  generalize effectiveRing _ _ = ring
  generalize s.clampLease _ = lease
  have hcleared : LawsBut o (if (s.session i).state = .ended then s.withdrawSessionEnded i else s) ∧
      (∀ l, .sessionEnded i ∉
        ((if (s.session i).state = .ended then s.withdrawSessionEnded i else s).line l).notices) ∧
      (if (s.session i).state = .ended then s.withdrawSessionEnded i else s).session i =
        s.session i := by
    split
    · exact ⟨(h.withdrawSessionEnded i).1, (h.withdrawSessionEnded i).2, by simp⟩
    · rename_i hne; exact ⟨h, h.people.no_item hne, rfl⟩
  generalize (if (s.session i).state = .ended then s.withdrawSessionEnded i else s) = v at hcleared ⊢
  obtain ⟨hv, hno, hsess⟩ := hcleared
  have hopen : LawsBut o (v.updSession i (fun x => openedSession x ring lease)) := by
    refine hv.updState (fun x => ⟨rfl, rfl, rfl⟩) (by simp [openedSession]) (fun hsw => ?_)
      fun l hm => absurd hm (hno l)
    have hst := hv.people.sweeps i hsw
    rw [hsess] at hst
    rcases hi with hi | hi <;> rw [hi] at hst <;> cases hst
  exact (hopen.of_same (.setLease _ i)).of_same (.finish _ i r _)

/-- Serving an OPEN (R78). -/
theorem LawsBut.serveOpen (h : LawsBut o s) (i : SlotIx) (r : Request) :
    LawsBut o (s.serveOpen i r) := by
  have hclosed : (s.session i).state = .idle ∨ (s.session i).state = .ended →
      LawsBut o (s.openClosed i r) := fun hi => by
    unfold State.openClosed
    split
    · exact h.of_same (.answer _ _ _)
    split
    · exact h.of_same (.answer _ _ _)
    · exact h.acceptOpen r hi
  unfold State.serveOpen
  split
  · exact h.of_same (.answer _ _ _)
  split
  · split
    · exact h.of_same (.answerFromCache _ _)
    · exact h.of_same (.answer _ _ _)
  · exact h.of_same (.answer _ _ _)
  · exact hclosed (.inl ‹_›)
  · exact hclosed (.inr ‹_›)

/-- Serving a CLOSE (R87). -/
theorem LawsBut.serveClose (h : LawsBut o s) (i : SlotIx) (r : Request) :
    LawsBut o (s.serveClose i r) := by
  unfold State.serveClose
  split
  · rename_i hs; exact h.of_same (.commonChecks hs)
  · rename_i hs
    split
    · exact (h.enterEnding (State.opened_of_commonChecks hs) _).of_same
        (.updSession _ i _ fun _ => ⟨rfl, rfl, rfl, rfl, rfl⟩)
    · exact (h.of_same (.setLease _ i)).of_same (.finish _ _ _ _)

/-- A request kind whose work keeps the laws for an OPEN session keeps them (R74). -/
theorem LawsBut.serveRequest (h : LawsBut o s) {act : State → SlotIx → Request → State × Reply}
    (hact : ∀ {u : State} {i r}, LawsBut o u → (u.session i).state = .opened →
      LawsBut o (act u i r).1) (i : SlotIx) (r : Request) :
    LawsBut o (State.serveRequest act s i r) := by
  unfold State.serveRequest
  split
  · rename_i hs; exact h.of_same (.commonChecks hs)
  · rename_i hs
    refine (hact (h.of_same (.setLease s i)) ?_).of_same (.finish _ _ _ _)
    rw [((SameForLaws.setLease s i).session i).1]; exact State.opened_of_commonChecks hs

/-- A request step keeps the laws if serving its frame does. -/
theorem LawsBut.requestStep (h : LawsBut o s) {l : LineIx} {isKind : Byte → Bool}
    {serve : State → SlotIx → Request → State}
    (hserve : ∀ {u : State} i r, LawsBut o u → LawsBut o (serve u i r)) :
    LawsBut o (s.requestStep l isKind serve) := by
  unfold State.requestStep
  split
  · split
    · exact hserve _ _ (h.of_same (.takeFrame _ _ _))
    · exact h
  · exact h

end Sys2Proof.Machine
end

section
/-!
The laws of the lock table through the work of each request kind on locks (R32 to R43, R59 to R62, R67 to R70).
-/

namespace Sys2Proof.Machine

variable {s t u : State}

/-! ### ACQUIRE -/

theorem LawsBut.acquireAbsent (h : LawsBut none s) {i : SlotIx} (hi : (s.session i).state = .opened)
    {f : AcquireFields} (hk : s.lookup f.key = none) : LawsBut none (s.acquireAbsent i f).1 := by
  unfold State.acquireAbsent
  split
  · exact h.of_same (.raise s _)
  split
  · split
    · rename_i e c rest he hc
      exact h.grantNew f.mode (by rw [hc]; rfl) hi (State.lowestFreeEntry_free he) hk
    · exact h.of_same (.raise s _)
  · exact h.of_same (.raise s _)

theorem LawsBut.acquireJoin (h : LawsBut none s) {i : SlotIx} (hi : (s.session i).state = .opened)
    {f : AcquireFields} {e : EntryIx} (hk : s.lookup f.key = some e)
    (hg : s.grantableNow e f.mode = true) : LawsBut none (s.acquireJoin i f e).1 := by
  unfold State.acquireJoin
  split
  · exact h.of_same (.raise s _)
  · rename_i c rest hc
    split
    · refine h.grantJoin f.key (by rw [hc]; rfl) hi (h.table.lookup_some hk).1 ?_
      simp only [State.grantableNow, Bool.and_eq_true, beq_iff_eq] at hg
      obtain ⟨⟨⟨⟨-, hm⟩, -⟩, -⟩, -⟩ := hg
      exact hm
    · exact h.of_same (.raise s _)

theorem LawsBut.acquireQueue (h : LawsBut none s) {i : SlotIx} (hi : (s.session i).state = .opened)
    {f : AcquireFields} {e : EntryIx} (hk : s.lookup f.key = some e) :
    LawsBut none (s.acquireQueue i f e).1 := by
  unfold State.acquireQueue
  split
  · exact h
  split
  · exact h
  split
  · exact h.of_same (.raise s _)
  · rename_i c rest hc
    exact h.queueClaim f.key f.mode f.wait (by rw [hc]; rfl) hi (h.table.lookup_some hk).1

theorem LawsBut.acquire (h : LawsBut none s) {i : SlotIx} {r : Request}
    (hi : (s.session i).state = .opened) : LawsBut none (s.acquire i r).1 := by
  unfold State.acquire
  split
  · exact h
  split
  · exact h
  split
  · exact h.acquireAbsent hi ‹_›
  · rename_i hk
    split
    · split
      · exact h.acquireJoin hi hk ‹_›
      · exact h.acquireQueue hi hk
    · exact h

/-! ### The claim a session's search finds -/

/-- A claim found among a list is on it. -/
theorem State.mem_of_claimOf {cs : List ClaimIx} {i : SlotIx} {c : ClaimIx}
    (h : s.claimOf cs i = some c) : c ∈ cs := List.mem_of_find?_eq_some h

/-- The claim that the own-claim search answers stands on the entry, by its outcome (R31). -/
theorem State.ownClaim_mem {e : EntryIx} {i : SlotIx} {c : ClaimIx} :
    (s.ownClaim e i = .held c ∨ s.ownClaim e i = .upgrading c → c ∈ (s.entry e).holders) ∧
    (s.ownClaim e i = .waiting c → c ∈ (s.entry e).waiters) := by
  unfold State.ownClaim
  split
  · rename_i d hd
    have hmem := State.mem_of_claimOf hd
    split <;> simp <;> rintro rfl <;> exact hmem
  · split
    · rename_i d hd
      have hmem := State.mem_of_claimOf hd
      simp; rintro rfl; exact hmem
    · simp

/-- The own-claim search answers a claim only for a key that has an entry. -/
theorem State.lookup_of_ownClaimOn {k : Key} {i : SlotIx} (h : s.ownClaimOn k i ≠ .none) :
    ∃ e, s.lookup k = some e ∧ s.ownClaimOn k i = s.ownClaim e i := by
  unfold State.ownClaimOn at h ⊢
  cases hl : s.lookup k with
  | none => rw [hl] at h; exact absurd rfl h
  | some e => exact ⟨e, rfl, rfl⟩

/-- The claim that a session's search finds held, pending or not, is HELD on its entry. -/
theorem LawsBut.own_held (h : LawsBut none s) {k : Key} {i : SlotIx} {c : ClaimIx}
    (hc : s.ownClaimOn k i = .held c ∨ s.ownClaimOn k i = .upgrading c) :
    (s.claim c).state = .held ∧ c ∈ (s.entry (s.claim c).entry).holders := by
  obtain ⟨e, -, he⟩ := State.lookup_of_ownClaimOn (s := s) (k := k) (i := i)
    (by rcases hc with hc | hc <;> simp [hc])
  have hmem := State.ownClaim_mem.1 (by rwa [he] at hc)
  obtain ⟨hst, rfl⟩ := ((h.pool.holders e).2 c).1 hmem
  exact ⟨hst, hmem⟩

theorem LawsBut.own_waiting (h : LawsBut none s) {k : Key} {i : SlotIx} {c : ClaimIx}
    (hc : s.ownClaimOn k i = .waiting c) : (s.claim c).state = .waiting := by
  obtain ⟨e, -, he⟩ := State.lookup_of_ownClaimOn (s := s) (k := k) (i := i) (by simp [hc])
  exact (((h.pool.waiters e).2 c).1 (State.ownClaim_mem.2 (by rwa [he] at hc))).1

/-! ### RELEASE, CONVERT, CANCEL and QUERY -/

theorem LawsBut.release (h : LawsBut none s) {i : SlotIx} {r : Request} :
    LawsBut none (s.release i r).1 := by
  unfold State.release
  split
  · exact h
  split
  · exact (TakesOff.freeClaim.thenPass h (.inl (h.own_held (.inl ‹_›)).1)).1
  · exact (TakesOff.freeClaim.thenPass h (.inl (h.own_held (.inr ‹_›)).1)).1
  · exact h
  · exact h

/-- A pending upgrade is cleared and its entry's pass runs (R43, R65, R89). -/
theorem LawsBut.clearThenPass (h : LawsBut none s) {c : ClaimIx} (hc : (s.claim c).state = .held) :
    Settled s ((s.clearUpgrade (s.claim c).entry c).grantPass (s.claim c).entry) := by
  have hocc := h.occupied_of_claim (.inl hc)
  have hs := SameForLaws.clearUpgrade (c := c) hocc
  obtain ⟨h1, h2⟩ := ((h.of_same hs).excuse).grantPass ((hs.entry _).1.trans hocc)
  exact ⟨h1, hs.heldKept.trans h2⟩

theorem LawsBut.cancel (h : LawsBut none s) {i : SlotIx} {r : Request} :
    LawsBut none (s.cancel i r).1 := by
  unfold State.cancel
  split
  · exact h
  split
  · exact (TakesOff.freeClaim.thenPass h (.inr (h.own_waiting ‹_›))).1
  · exact (h.clearThenPass (h.own_held (.inr ‹_›)).1).1
  · exact h
  · exact h

theorem LawsBut.convertHeld (h : LawsBut none s) {c : ClaimIx} {f : AcquireFields}
    (hst : (s.claim c).state = .held) (hmem : c ∈ (s.entry (s.claim c).entry).holders) :
    LawsBut none (s.convertHeld c f).1 := by
  have hocc := h.occupied_of_claim (.inl hst)
  unfold State.convertHeld
  split
  · exact h
  split
  · have hs := SameForLaws.downgrade hocc c
    exact ((h.of_same hs).excuse.grantPass ((hs.entry _).1.trans hocc)).1
  · unfold State.convertUp
    dsimp only
    split
    · split
      · exact h.of_same (.upgradeClaim hocc ‹_›)
      · exact h.of_same (.raise s _)
    split
    · exact h
    split
    · exact h
    · exact h.of_same (.makePending hocc hmem _)

theorem LawsBut.convert (h : LawsBut none s) {i : SlotIx} {r : Request} :
    LawsBut none (s.convert i r).1 := by
  unfold State.convert
  split
  · exact h
  split
  · exact h
  split
  · obtain ⟨hst, hmem⟩ := h.own_held (.inl ‹_›)
    exact h.convertHeld hst hmem
  · obtain ⟨hst, hmem⟩ := h.own_held (.inr ‹_›)
    exact h.convertHeld hst hmem
  · exact h
  · exact h

/-- A QUERY changes no state. -/
theorem State.query_state (s : State) (i : SlotIx) (r : Request) : (s.query i r).1 = s := by
  unfold State.query
  split
  · rfl
  split
  · rfl
  split <;> rfl

/-- A RENEW changes no state. -/
theorem State.renew_state (s : State) (i : SlotIx) (r : Request) : (s.renew i r).1 = s := by
  unfold State.renew; split <;> rfl

/-! ### GROUP -/

/-- The elements still to be granted have different keys, and where one has an entry it is SHARED. -/
def GroupReady (s : State) (els : List GroupElement) : Prop :=
  (els.map (fun el => el.key)).Nodup ∧ ∀ el ∈ els, ∀ e, (s.entry e).occupied = true →
    (s.entry e).key = el.key → (s.entry e).mode = .shared

/-- No key of a list is repeated where the check of repeats finds none (R67 check 3). -/
theorem groupRepeat_none {i : Nat} {earlier : List Key} {els : List GroupElement}
    (h : groupRepeat i earlier els = none) :
    (els.map (fun el => el.key)).Nodup ∧ ∀ el ∈ els, el.key ∉ earlier := by
  induction els generalizing i earlier with
  | nil => simp
  | cons el rest ih =>
    rw [groupRepeat] at h
    split at h
    · cases h
    · rename_i hel
      obtain ⟨h1, h2⟩ := ih h
      rw [List.map_cons, List.nodup_cons]
      refine ⟨⟨fun hm => ?_, h1⟩, fun x hx => ?_⟩
      · obtain ⟨x, hx, hxk⟩ := List.mem_map.1 hm
        exact h2 x hx (by rw [hxk]; exact List.mem_cons_self)
      · rcases List.mem_cons.1 hx with rfl | hx
        · simpa using hel
        · exact fun hm => h2 x hx (List.mem_cons_of_mem _ hm)

theorem groupPayload_keys {p : List Byte} {els : List GroupElement} (h : groupPayload p = .ok els) :
    (els.map (fun el => el.key)).Nodup := by
  unfold groupPayload at h
  dsimp only at h
  split at h
  · split at h
    · cases h
    · split at h
      · cases h
      · cases h; exact (groupRepeat_none ‹_›).1
  · cases h

/-- The elements of a group that passes the checks of R68 are ready. -/
theorem LawsBut.groupReady (h : LawsBut none s) {i : SlotIx} {els : List GroupElement}
    (hk : (els.map (fun el => el.key)).Nodup) (hc : s.firstRefused i 1 els = none) :
    GroupReady s els := by
  refine ⟨hk, fun el hel e ho hkey => ?_⟩
  have hfine := State.firstRefused_none.1 hc el hel
  have hlook : s.lookup el.key = some e := by
    cases hl : s.lookup el.key with
    | none => exact absurd hkey (h.table.lookup_none_iff.1 hl e ho)
    | some f =>
      obtain ⟨hf, hfk⟩ := h.table.lookup_some hl
      rw [h.table.keysDiffer f e hf ho (hfk.trans hkey.symm)]
  unfold State.elementRefusal at hfine
  split at hfine
  · cases hfine
  rw [hlook] at hfine
  dsimp only at hfine
  split at hfine
  · split at hfine
    · rename_i hg
      simp only [State.grantableNow, Bool.and_eq_true, beq_iff_eq] at hg
      obtain ⟨⟨⟨⟨-, hm⟩, -⟩, -⟩, -⟩ := hg
      exact hm
    · cases hfine
  · cases hfine

/-- Granting an element keeps the laws, and leaves the elements after it ready (R70). -/
theorem LawsBut.grantElement (h : LawsBut none s) {i : SlotIx} (hi : (s.session i).state = .opened)
    {el : GroupElement} {els : List GroupElement} (hr : GroupReady s (el :: els)) :
    LawsBut none (s.grantElement i el) ∧ GroupReady (s.grantElement i el) els := by
  obtain ⟨hkeys, hshared⟩ := hr
  rw [List.map_cons, List.nodup_cons] at hkeys
  have hrest : ∀ x ∈ els, ∀ e, (s.entry e).occupied = true → (s.entry e).key = x.key →
      (s.entry e).mode = .shared := fun x hx => hshared x (List.mem_cons_of_mem _ hx)
  unfold State.grantElement
  split
  · exact ⟨h, hkeys.2, hrest⟩
  rename_i c rest hc
  have hhead : s.freeList.head? = some c := by rw [hc]; rfl
  split
  · rename_i e hl
    obtain ⟨ho, hk⟩ := h.table.lookup_some hl
    have hm := hshared el List.mem_cons_self e ho hk
    refine ⟨h.grantJoin el.key hhead hi ho hm, hkeys.2, fun x hx f hf hfk => ?_⟩
    obtain ⟨-, hE, hEs, -⟩ := State.grantJoin_spec s i el.key e c
    by_cases hef : f = e
    · subst hef; rw [hE]; exact hm
    · rw [hEs f (by simpa using hef)] at hf hfk ⊢; exact hrest x hx f hf hfk
  · rename_i hl
    split
    · rename_i e he
      refine ⟨h.grantNew el.mode hhead hi (State.lowestFreeEntry_free he) hl, hkeys.2,
        fun x hx f hf hfk => ?_⟩
      obtain ⟨-, hE, hEs, -⟩ := State.grantNew_spec s i el.key el.mode e c
      by_cases hef : f = e
      · subst hef
        rw [hE] at hfk
        exact absurd (List.mem_map.2 ⟨x, hx, hfk.symm⟩) hkeys.1
      · rw [hEs f (by simpa using hef)] at hf hfk ⊢; exact hrest x hx f hf hfk
    · exact ⟨h, hkeys.2, hrest⟩

theorem LawsBut.grantElements (h : LawsBut none s) {i : SlotIx} (hi : (s.session i).state = .opened)
    {els : List GroupElement} (hr : GroupReady s els) :
    LawsBut none (els.foldl (fun acc el => acc.grantElement i el) s) := by
  induction els generalizing s with
  | nil => exact h
  | cons el els ih =>
    obtain ⟨h1, h2⟩ := h.grantElement hi hr
    refine ih h1 ?_ h2
    rw [(TableStep.grantElement s i el).sessions i]; exact hi

theorem LawsBut.group (h : LawsBut none s) {i : SlotIx} {r : Request}
    (hi : (s.session i).state = .opened) : LawsBut none (s.group i r).1 := by
  unfold State.group
  split
  · exact h
  rename_i els hp
  split
  · exact h
  rename_i hc
  split
  · exact h.of_same (.raise s _)
  split
  · exact h.grantElements hi (h.groupReady (groupPayload_keys hp) hc)
  · exact h.of_same (.raise s _)

end Sys2Proof.Machine
end

section
/-!
The laws of the lock table through expiries (R123, R124), management commands (chapters 5, 8, 9, 11), sweeps
(R89 to R91, R109 to R111) and the lines' own actions (chapter 8).
-/

namespace Sys2Proof.Machine

variable {o : Option EntryIx} {s t u : State}

/-! ### Expiries -/

theorem SameForLaws.takeExpiry (s : State) : SameForLaws s s.takeExpiry :=
  .of_eq rfl rfl rfl rfl rfl rfl rfl rfl

theorem SameForLaws.countWaitExpiry (s : State) : SameForLaws s s.countWaitExpiry :=
  .of_eq rfl rfl rfl rfl rfl rfl rfl rfl

theorem LawsBut.expireLease (h : LawsBut o s) (i : SlotIx) (t : Nat) :
    LawsBut o (s.expireLease i t) := by
  unfold State.expireLease
  split
  · rename_i ha
    simp only [State.leaseActs, Bool.and_eq_true, beq_iff_eq] at ha
    obtain ⟨⟨-, hopen⟩, -⟩ := ha
    exact (h.enterEnding hopen .leaseExpired).of_same (.of_eq rfl rfl rfl rfl rfl rfl rfl rfl)
  · exact h

/-- The acting expiry of a WAITING claim (R44). -/
theorem LawsBut.expireWaiting (h : LawsBut none s) {c : ClaimIx} (hc : (s.claim c).state = .waiting) :
    LawsBut none (s.expireWaiting c) :=
  ((TakesOff.dropClaim .waitExpired).thenPass (h.of_same (.countWaitExpiry s)) (.inr hc)).1

/-- The acting expiry of a pending upgrade (R65). -/
theorem LawsBut.expireUpgrade (h : LawsBut none s) {c : ClaimIx} (hc : (s.claim c).state = .held) :
    LawsBut none (s.expireUpgrade c) := by
  have hocc := h.occupied_of_claim (.inl hc)
  have hclear : SameForLaws s ((s.countWaitExpiry).clearUpgrade (s.claim c).entry c) :=
    (SameForLaws.countWaitExpiry s).trans (.clearUpgrade hocc)
  unfold State.expireUpgrade
  dsimp only
  generalize (s.countWaitExpiry).clearUpgrade (s.claim c).entry c = v at hclear ⊢
  have hv : SameForLaws s (if (v.session (v.claim c).session).state = .opened then
      v.raiseNotice c .waitExpired else v) := by
    split
    · exact hclear.trans (.raiseNotice ((hclear.claim c).1.trans hc) _)
    · exact hclear
  exact ((h.of_same hv).excuse.grantPass ((hv.entry _).1.trans hocc)).1

theorem LawsBut.expireWait (h : LawsBut none s) (c : ClaimIx) (n : BitVec 16) (t : Nat) :
    LawsBut none (s.expireWait c n t) := by
  unfold State.expireWait
  split
  · rename_i ha
    split
    · exact h.expireWaiting ‹_›
    · rename_i hw
      simp only [State.waitActs, Bool.and_eq_true, Bool.or_eq_true, beq_iff_eq] at ha
      obtain ⟨⟨-, hstate⟩, -⟩ := ha
      exact h.expireUpgrade (hstate.resolve_left hw).1
  · exact h

/-! ### Notice lists that lose items -/

/-- The laws of sessions read of the notice lists how many SESSION_ENDED items there are at most. -/
theorem SessionLaws.fewer_items (h : SessionLaws s) (hs : t.sessions = s.sessions)
    (hi : ∀ l i, (t.line l).notices.count (.sessionEnded i) ≤
      (s.line l).notices.count (.sessionEnded i)) : SessionLaws t where
  noClaims i := by rw [State.session_congr hs]; exact h.noClaims i
  sweeps i := by rw [State.session_congr hs]; exact h.sweeps i
  endedItem l i := by
    rw [State.session_congr hs]
    obtain ⟨h1, h2⟩ := h.endedItem l i
    refine ⟨(hi l i).trans h1, fun hm => h2 ?_⟩
    rw [← List.count_pos_iff] at hm ⊢
    exact lt_of_lt_of_le hm (hi l i)

/-- A line whose notice list loses items. -/
theorem LawsBut.updLine_fewer (h : LawsBut o s) (l : LineIx) (f : Line → Line)
    (hf : (f (s.line l)).notices.Sublist (s.line l).notices) : LawsBut o (s.updLine l f) := by
  refine h.of_people rfl rfl rfl rfl rfl rfl (fun _ => ⟨rfl, rfl, rfl⟩)
    (h.people.fewer_items rfl fun m i => ?_)
  rw [State.updLine_line]
  split
  · rename_i hm; subst hm; exact hf.count_le _
  · exact le_refl _

/-- The two orders of letting a claim's notice go and freeing it leave the same as the laws see it. -/
theorem SameForLaws.freeClaim_forget (s : State) (c : ClaimIx) :
    SameForLaws (s.freeClaim c) ((s.updClaim c (fun x => { x with notice := none })).freeClaim c) := by
  refine .of_lock (e := 0) (c := c) ?_ (fun f _ => ?_) ?_ (fun d hd => ?_) (by simp) ?_ (by simp)
    (by simp) ?_ fun l i => ?_
  · simpa [State.freeClaim_entry] using SameLock.refl _
  · simp [State.freeClaim_entry]
  · simpa using SamePlace.refl _
  · simp [hd, State.updClaim_claim]
  · rw [State.freeClaim_writes s, State.freeClaim_writes (s.updClaim c _)]; rfl
  · exact State.sessions_ext fun i => by simp [State.freeClaim_session]
  · rw [(PoolStep.freeClaim _ c).items, (PoolStep.freeClaim _ c).items]; simp

/-- A claim whose notice is let go has none any more, and is freed if it is DETACHED (R51, R155 step 4). -/
theorem LawsBut.forgetNotice (h : LawsBut o s) (c : ClaimIx) :
    LawsBut o (if ((s.updClaim c (fun x => { x with notice := none })).claim c).state = .detached then
      (s.updClaim c (fun x => { x with notice := none })).freeClaim c
      else s.updClaim c (fun x => { x with notice := none })) := by
  rw [State.updClaim_claim_same]
  split
  · rename_i hd
    exact (h.freeClaim (by simp_all) (by simp_all)).of_same (.freeClaim_forget s c)
  · rename_i hd
    refine h.of_same (.of_lock (e := 0) (c := c) (by simpa using SameLock.refl _) (fun f _ => by simp)
      ?_ (fun d hd => by simp [State.updClaim_claim, hd]) (by simp) (by simp) (by simp) (by simp)
      (by simp) fun l i => by simp)
    rw [State.updClaim_claim_same]
    refine ⟨rfl, rfl, rfl, fun hw => ?_⟩
    exact ((h.pool.notice c).1 (hw.resolve_right hd)).symm

/-! ### The emptying of a notice list -/

/-- Letting an item go leaves the lines as they are. -/
theorem State.discardItem_lines (s : State) (it : NoticeItem) : (s.discardItem it).lines = s.lines := by
  cases it with
  | claim c =>
    simp only [State.discardItem]
    split
    · exact State.lines_ext fun l => by
        rw [State.freeClaim_line]
        split <;> simp
    · rfl
  | sessionEnded i => simp only [State.discardItem]; split <;> rfl

/-- Letting an item go keeps the laws, where a SESSION_ENDED item stands on no list any more. -/
theorem LawsBut.discardItem (h : LawsBut o s) (it : NoticeItem)
    (hi : ∀ i, it = .sessionEnded i → ∀ l, .sessionEnded i ∉ (s.line l).notices) :
    LawsBut o (s.discardItem it) := by
  cases it with
  | claim c => exact h.forgetNotice c
  | sessionEnded i =>
    simp only [State.discardItem]
    split
    · rename_i hst
      refine h.updState (fun _ => ⟨rfl, rfl, rfl⟩) (fun _ => h.people.noClaims i (.inr hst))
        (fun hsw => ?_) fun l hm => absurd hm (hi i rfl l)
      have := h.people.sweeps i hsw
      rw [hst] at this; cases this
    · exact h

/-- Emptying a line's notice list keeps the laws (R155 step 4). -/
theorem LawsBut.emptyNotices (h : LawsBut o s) (l : LineIx) : LawsBut o (s.emptyNotices l) := by
  have hold := h.people.endedItem
  have hempty := h.updLine_fewer l (fun ln => { ln with notices := [] }) (List.nil_sublist _)
  have hgone : ∀ it ∈ (s.line l).notices, ∀ i, it = .sessionEnded i →
      ∀ m, .sessionEnded i ∉ ((s.updLine l (fun ln => { ln with notices := [] })).line m).notices := by
    rintro it hit i rfl m hm
    rw [State.updLine_line] at hm
    split at hm
    · cases hm
    · rename_i hlm
      exact hlm (((hold l i).2 hit).1.trans ((hold m i).2 hm).1.symm)
  unfold State.emptyNotices
  generalize s.updLine l (fun ln => { ln with notices := [] }) = v at hempty hgone
  generalize (s.line l).notices = items at hgone
  induction items generalizing v with
  | nil => exact hempty
  | cons it rest ih =>
    refine ih _ (hempty.discardItem it (hgone it List.mem_cons_self)) fun x hx i hxi m => ?_
    rw [State.line_congr (State.discardItem_lines v it)]
    exact hgone x (List.mem_cons_of_mem _ hx) i hxi m

/-! ### The restart of a line's sessions -/

theorem LawsBut.restartSession (h : LawsBut o s) (cause : EndCause) (suppress : Bool) (i : SlotIx) :
    LawsBut o (s.restartSession cause suppress i) := by
  unfold State.restartSession
  split
  · exact (h.enterEnding ‹_› _).of_same (.updSession _ i _ fun _ => ⟨rfl, rfl, rfl, rfl, rfl⟩)
  · exact h.of_same (.updSession _ i _ fun _ => ⟨rfl, rfl, rfl, rfl, rfl⟩)
  · exact h
  · exact h

theorem LawsBut.restartSessions (h : LawsBut o s) (l : LineIx) (cause : EndCause) (suppress : Bool) :
    LawsBut o (s.restartSessions l cause suppress) := by
  unfold State.restartSessions
  generalize slotsOf l = slots
  induction slots generalizing s with
  | nil => exact h
  | cons i slots ih => exact ih (h.restartSession cause suppress i)

theorem LawsBut.restartStep (h : LawsBut o s) (l : LineIx) : LawsBut o (s.restartStep l) := by
  exact ((h.emptyNotices l).restartSessions l .lineBreak false).of_same (.updLine _ l
    (fun ln => { ln with restartStepPending := false, state := .active }) fun _ => rfl)

/-! ### Management commands -/

theorem SameForLaws.complete (s : State) (r : ResultCode) (bs : List Byte) :
    SameForLaws s (s.complete r bs) := .of_eq rfl rfl rfl rfl rfl rfl rfl rfl

theorem SameForLaws.completeDrain (s : State) (n : NsIx) : SameForLaws s (s.completeDrain n) := by
  unfold State.completeDrain
  split
  · exact (SameForLaws.updNs s n _ fun _ => by rfl).trans (.raise _ _)
  · exact .refl s

theorem SameForLaws.completeRestart (s : State) (l : LineIx) : SameForLaws s (s.completeRestart l) := by
  unfold State.completeRestart
  split
  · exact (SameForLaws.updLine s l _ fun _ => by rfl).trans (.complete _ _ _)
  · exact .refl s

theorem SameForLaws.setTokenBase (s : State) : SameForLaws s s.setTokenBase := by
  unfold State.setTokenBase State.loadTokenBase
  dsimp only
  split
  · split <;> exact .of_eq rfl rfl rfl rfl rfl rfl rfl rfl
  · exact .complete _ _ _

theorem SameForLaws.startService (s : State) : SameForLaws s s.startService := by
  unfold State.startService
  split
  · split <;> exact .of_eq rfl rfl rfl rfl rfl rfl rfl rfl
  all_goals exact .of_eq rfl rfl rfl rfl rfl rfl rfl rfl

theorem SameForLaws.suspendService (s : State) : SameForLaws s s.suspendService := by
  unfold State.suspendService
  split <;> exact .of_eq rfl rfl rfl rfl rfl rfl rfl rfl

theorem SameForLaws.clearService (s : State) : SameForLaws s s.clearService := by
  unfold State.clearService
  split <;> exact .of_eq rfl rfl rfl rfl rfl rfl rfl rfl

theorem SameForLaws.defineNs (s : State) (n : NsIx) : SameForLaws s (s.defineNs n) := by
  unfold State.defineNs
  split
  · exact .complete _ _ _
  split
  · exact (SameForLaws.updNs s n _ fun _ => by rfl).trans (.complete _ _ _)
  · exact .complete _ _ _

theorem SameForLaws.changeNs (s : State) (n : NsIx) : SameForLaws s (s.changeNs n) := by
  unfold State.changeNs
  split
  · exact .complete _ _ _
  split
  · split
    · exact (SameForLaws.updNs s n _ fun _ => by rfl).trans (.complete _ _ _)
    · exact .complete _ _ _
  · exact .complete _ _ _

theorem SameForLaws.disableNs (s : State) (n : NsIx) : SameForLaws s (s.disableNs n) := by
  unfold State.disableNs
  split
  · exact .complete _ _ _
  · split <;> exact .complete _ _ _
  · split
    · exact ((SameForLaws.updNs s n _ fun _ => by rfl).trans (.completeDrain _ n)).trans (.complete _ _ _)
    split
    · exact (SameForLaws.updNs s n _ fun _ => by rfl).trans (.setLongCommand _ _)
    · exact .complete _ _ _

theorem SameForLaws.nsCommand (s : State) {run : State → NsIx → State}
    (hrun : ∀ n, SameForLaws s (run s n)) : SameForLaws s (s.nsCommand run) := by
  unfold State.nsCommand
  split
  · exact .complete _ _ _
  · exact hrun _

theorem SameForLaws.inspectLock (s : State) : SameForLaws s s.inspectLock := by
  unfold State.inspectLock
  split
  · exact .complete _ _ _
  split
  · split <;> exact .complete _ _ _
  · exact .complete _ _ _

theorem SameForLaws.configureLine (s : State) (l : LineIx) : SameForLaws s (s.configureLine l) := by
  unfold State.configureLine
  split
  · exact .complete _ _ _
  split
  · exact (SameForLaws.updLine s l _ fun _ => by rfl).trans (.complete _ _ _)
  · exact .complete _ _ _

theorem SameForLaws.enableLine (s : State) (l : LineIx) : SameForLaws s (s.enableLine l) := by
  unfold State.enableLine
  split
  · exact (SameForLaws.updLine s l _ fun _ => by rfl).trans (.complete _ _ _)
  · exact .complete _ _ _
  · exact .complete _ _ _

theorem SameForLaws.setLeaseBounds (s : State) : SameForLaws s s.setLeaseBounds := by
  unfold State.setLeaseBounds
  dsimp only
  split <;> exact .of_eq rfl rfl rfl rfl rfl rfl rfl rfl

theorem SameForLaws.setPoolThreshold (s : State) : SameForLaws s s.setPoolThreshold := by
  unfold State.setPoolThreshold
  dsimp only
  split
  · split <;> exact .of_eq rfl rfl rfl rfl rfl rfl rfl rfl
  · exact .complete _ _ _

theorem SameForLaws.readCounters (s : State) : SameForLaws s s.readCounters := by
  unfold State.readCounters
  split
  · exact (SameForLaws.updLine s _ _ fun _ => by rfl).trans (.complete _ _ _)
  · split <;> exact .of_eq rfl rfl rfl rfl rfl rfl rfl rfl

theorem LawsBut.evict (h : LawsBut o s) (i : SlotIx) : LawsBut o (s.evict i) := by
  unfold State.evict
  split
  · exact h.of_same (.complete _ _ _)
  · exact h.of_same (.complete _ _ _)
  · exact h.of_same (.complete _ _ _)
  · exact (h.enterEnding ‹_› _).of_same (.of_eq rfl rfl rfl rfl rfl rfl rfl rfl)

theorem LawsBut.slotCommand (h : LawsBut o s) {run : State → SlotIx → State}
    (hrun : ∀ i, LawsBut o (run s i)) : LawsBut o (s.slotCommand run) := by
  unfold State.slotCommand
  split
  · exact h.of_same (.complete _ _ _)
  · exact hrun _

theorem LawsBut.lineCommand (h : LawsBut o s) {run : State → LineIx → State}
    (hrun : ∀ l, LawsBut o (run s l)) : LawsBut o (s.lineCommand run) := by
  unfold State.lineCommand
  split
  · exact h.of_same (.complete _ _ _)
  · exact hrun _

/-- REVOKE LOCK of the holders, then the pass that serves the waiters (R172). -/
theorem LawsBut.revokeHolders (h : LawsBut none s) {e : EntryIx} (he : (s.entry e).occupied = true) :
    LawsBut none (s.revokeHolders e) := by
  have hh := h.pool.holders e
  obtain ⟨h1, -, -, -, h5⟩ := TakesOff.revokeClaim.foldl hh.1 h.excuse
    (fun c hc => ⟨.inl ((hh.2 c).1 hc).1, ((hh.2 c).1 hc).2⟩)
  exact (h1.grantPass (h5.trans he)).1.of_same (.complete _ _ _)

theorem LawsBut.revokeAll (h : LawsBut none s) {e : EntryIx} (he : (s.entry e).occupied = true) :
    LawsBut none (s.revokeAll e) := by
  have hr := h.revokeEntry he
  rw [State.revokeClaims_append] at hr
  exact hr.of_same (.complete _ _ _)

theorem LawsBut.revokeLock (h : LawsBut none s) : LawsBut none s.revokeLock := by
  unfold State.revokeLock
  split
  · exact h.of_same (.complete _ _ _)
  split
  · split
    · exact h.of_same (.complete _ _ _)
    · exact h.revokeHolders (h.table.lookup_some ‹_›).1
  split
  · split
    · exact h.of_same (.complete _ _ _)
    · exact h.revokeAll (h.table.lookup_some ‹_›).1
  · exact h.of_same (.complete _ _ _)

/-- A command-begun restart (R155, R157). -/
theorem LawsBut.beginRestart (h : LawsBut o s) (l : LineIx) (fin : RestartEnd) :
    LawsBut o (s.beginRestart l fin) := by
  have hstop := h.of_same (.updLine s l Line.stopped fun _ => rfl)
  have hmid := ((hstop.emptyNotices l).restartSessions l .lineRestart true).of_same
    (.updLine _ l (fun ln => { ln with state := .restarting, restartEnd := fin }) fun _ => rfl)
  exact (hmid.of_same (.setLongCommand _ (some (.restartLine l)))).of_same (.completeRestart _ l)

theorem LawsBut.restartLine (h : LawsBut o s) (l : LineIx) : LawsBut o (s.restartLine l) := by
  unfold State.restartLine
  split
  · exact h.beginRestart l _
  · exact h.of_same (.complete _ _ _)
  · exact h.of_same (.complete _ _ _)

theorem LawsBut.disableLine (h : LawsBut o s) (l : LineIx) : LawsBut o (s.disableLine l) := by
  unfold State.disableLine
  split
  · exact h.beginRestart l _
  · exact h.of_same (.complete _ _ _)
  · exact h.of_same (.complete _ _ _)

/-- A command step keeps the laws if its work does. -/
theorem LawsBut.commandStep (h : LawsBut o s) {mine : Nat → Bool} {run : State → State}
    (hrun : ∀ {u : State}, LawsBut o u → LawsBut o (run u)) : LawsBut o (s.commandStep mine run) := by
  unfold State.commandStep
  split
  · split
    · exact hrun (h.of_same (.of_eq rfl rfl rfl rfl rfl rfl rfl rfl))
    · exact h
  · exact h

end Sys2Proof.Machine
end

section
/-!
The laws of the lock table through the sweeps (R89 to R91, R109 to R111, R169, R170) and the lines' own actions
(R51, R94, R152, R154), and so through every command.
-/

namespace Sys2Proof.Machine

variable {o : Option EntryIx} {s t u : State}

/-! ### Ending sweeps -/

/-- A claim taken back keeps the laws, and every other HELD claim HELD (R89, R90). -/
theorem LawsBut.takeBack (h : LawsBut none s) {c : ClaimIx} :
    LawsBut none (s.takeBack c) ∧
    ∀ d, c ≠ d → (s.claim d).state = .held → ((s.takeBack c).claim d).state = .held := by
  unfold State.takeBack
  split
  · exact TakesOff.freeClaim.thenPass h (.inr ‹_›)
  · exact TakesOff.freeClaim.thenPass h (.inl ‹_›)
  · rename_i hd
    exact ⟨h.freeClaim (by simp [hd]) (by simp [hd]),
      fun d hcd hst => by rw [State.freeClaim_claim, if_neg hcd]; exact hst⟩
  · exact ⟨h, fun _ _ hst => hst⟩

/-- Clearing the pending upgrades of HELD claims, each with its pass, keeps the laws. -/
theorem LawsBut.dropUpgrades (h : LawsBut none s) {ds : List ClaimIx}
    (hd : ∀ d ∈ ds, (s.claim d).state = .held) :
    LawsBut none (ds.foldl (fun acc d => acc.dropUpgrade d) s) := by
  induction ds generalizing s with
  | nil => exact h
  | cons d ds ih =>
    obtain ⟨h1, h2⟩ := h.clearThenPass (hd d List.mem_cons_self)
    exact ih h1 fun x hx => (h2 x (hd x (List.mem_cons_of_mem _ hx))).1

/-- A claim step of an ending sweep (R89). -/
theorem LawsBut.endingStep (h : LawsBut none s) {i : SlotIx} (hi : (s.session i).state = .ending)
    (c : ClaimIx) : LawsBut none (s.endingStep i c) := by
  have hrun := h.updState (i := i) (f := fun x => { x with endingSweep := .running })
    (fun _ => ⟨rfl, rfl, rfl⟩) (by simp [hi]) (fun _ => hi)
    (fun l hm => absurd hm (h.people.no_item (by simp [hi]) l))
  obtain ⟨hback, hheld⟩ := hrun.takeBack (c := c)
  refine hback.dropUpgrades fun d hd => ?_
  have hmem : d ∈ (s.pendingUpgrades i).filter (fun d => d != c) := by
    split at hd
    · exact hd
    · cases hd
    · cases hd
  simp only [State.pendingUpgrades, List.mem_filter, Bool.and_eq_true, beq_iff_eq, bne_iff_ne] at hmem
  obtain ⟨⟨-, hst, -⟩, hdc⟩ := hmem
  exact hheld d (Ne.symm hdc) hst

/-- A session without claims leaves ENDING (R91). -/
theorem LawsBut.leaveEnding (h : LawsBut o s) {i : SlotIx} (hi : (s.session i).state = .ending)
    (hl : (s.session i).claimList = []) : LawsBut o (s.leaveEnding i) := by
  have hno := h.people.no_item (i := i) (by simp [hi])
  have hoff := h.updState (i := i) (f := fun x => { x with endingSweep := .inactive })
    (fun _ => ⟨rfl, rfl, rfl⟩) (by simp [hi]) (by simp) (fun l hm => absurd hm (hno l))
  unfold State.leaveEnding
  have hlist : ((s.updSession i (fun x => { x with endingSweep := .inactive })).session i).claimList =
      [] := by simpa using hl
  have hsweep : ((s.updSession i (fun x => { x with endingSweep := .inactive })).session i).endingSweep =
      .inactive := by simp
  have hno' : ∀ l, .sessionEnded i ∉
      ((s.updSession i (fun x => { x with endingSweep := .inactive })).line l).notices := hno
  generalize s.updSession i (fun x => { x with endingSweep := .inactive }) = v at hoff hlist hsweep hno' ⊢
  have hidle : ∀ {w : State}, SameForLaws v w →
      LawsBut o (w.updSession i (fun x => { x with state := .idle })) := fun {w} hw => by
    refine (hoff.of_same hw).updState (fun _ => ⟨rfl, rfl, rfl⟩)
      (fun _ => by rw [(hw.session i).2.2.1]; exact hlist)
      (fun hsw => absurd (((hw.session i).2.1).trans hsweep) hsw) fun l hm => ?_
    rw [← List.count_pos_iff, hw.items, List.count_pos_iff] at hm
    exact absurd hm (hno' l)
  dsimp only
  split
  · refine hidle (w := v.settleClose i) ?_
    unfold State.settleClose
    split
    · exact (SameForLaws.fillReply v i _).trans (.updSession _ i _ fun _ => ⟨rfl, rfl, rfl, rfl, rfl⟩)
    · exact .refl v
  split
  · have hcount : ∀ l j, (((v.updSession i (fun x => { x with state := .ended })).updLine (lineOf i)
        (fun ln => { ln with notices := ln.notices ++ [.sessionEnded i] })).line l).notices.count
        (.sessionEnded j) = (v.line l).notices.count (.sessionEnded j) +
          if lineOf i = l ∧ i = j then 1 else 0 := fun l j => by
      rw [State.updLine_line]
      by_cases hl : lineOf i = l <;> by_cases hj : i = j
      · subst hl; subst hj; simp
      · subst hl; simp [List.count_append, hj]
      · simp [hl]
      · simp [hl]
    refine hoff.of_people rfl rfl rfl rfl rfl rfl (fun j => ?_)
      (hoff.people.setState (i := i) (fun j hj => ?_) (fun j => ?_) (fun _ => hlist) ?_
        (fun l j hj => ?_) fun l => ?_)
    · rw [State.updLine_session, State.updSession_session]
      split
      · rename_i hj; subst hj; exact ⟨rfl, rfl, rfl⟩
      · exact ⟨rfl, rfl, rfl⟩
    · rw [State.updLine_session, State.updSession_session, if_neg hj]; exact ⟨rfl, rfl⟩
    · rw [State.updLine_session, State.updSession_session]
      split
      · rename_i hj; subst hj; rfl
      · rfl
    · simp [hsweep]
    · rw [hcount, if_neg (fun hx => hj hx.2), Nat.add_zero]
    · have h0 := List.count_eq_zero_of_not_mem (hno' l)
      rw [← List.count_pos_iff, hcount, h0]
      by_cases hl : lineOf i = l
      · simp [hl]
      · simp [hl]
  · exact hidle (.refl v)

theorem SameForLaws.completeEvict (s : State) (i : SlotIx) : SameForLaws s (s.completeEvict i) := by
  unfold State.completeEvict
  split
  · exact .complete _ _ _
  · exact .refl s

theorem SameForLaws.servedSweep (s : State) (p : SweepIx) : SameForLaws s (s.servedSweep p) :=
  .of_eq rfl rfl rfl rfl rfl rfl rfl rfl

/-- The session whose ending sweep is served is ENDING. -/
theorem SessionLaws.ending_of_turn (h : SessionLaws s) {i : SlotIx}
    (ht : s.sweepTurn (sweepEnding i) = true) : (s.session i).state = .ending := by
  refine h.sweeps i fun hin => ?_
  have := State.sweepActive_of_turn ht
  simp [hin] at this

/-! ### Revoke sweeps -/

theorem State.scanEntry_occupied {n : NsIx} {e : EntryIx} (h : s.scanEntry n = some e) :
    (s.entry e).occupied = true := by
  have := (firstFrom_some h).1
  simp only [Bool.and_eq_true] at this
  exact this.1

theorem LawsBut.revokeStep (h : LawsBut none s) (n : NsIx) {e : EntryIx}
    (he : (s.entry e).occupied = true) : LawsBut none (s.revokeStep n e) := by
  have hr := h.revokeEntry he
  rw [State.revokeClaims_append] at hr
  exact hr.of_same (.updNs _ n
    (fun x => { x with scanIndex := e.val + 1, sweepEntries := x.sweepEntries + 1,
                       sweepClaims := x.sweepClaims + (s.entry e).holders.length +
                         (s.entry e).waiters.length }) fun _ => rfl)

theorem LawsBut.revokeFinal (h : LawsBut o s) (n : NsIx) : LawsBut o (s.revokeFinal n) :=
  (h.of_same (.updNs s n
    (fun x => { x with state := .disabled, revokeSweep := false, scanIndex := 0, sweepEntries := 0,
                       sweepClaims := 0 }) fun _ => rfl)).of_same (.complete _ _ _)

/-! ### The clear sweep -/

/-- A claim record is as before, or has been freed (R25). -/
def OnlyFreed (s t : State) : Prop :=
  ∀ c, t.claim c = s.claim c ∨ t.claim c = { Claim.reset with useCount := (s.claim c).useCount }

theorem OnlyFreed.refl (s : State) : OnlyFreed s s := fun _ => .inl rfl

theorem OnlyFreed.trans (h : OnlyFreed s t) (g : OnlyFreed t u) : OnlyFreed s u := fun c => by
  rcases h c with hc | hc <;> rcases g c with gc | gc
  · exact .inl (gc.trans hc)
  · exact .inr (by rw [gc, hc])
  · exact .inr (gc.trans hc)
  · exact .inr (by rw [gc, hc])

/-- A free claim stays free. -/
theorem OnlyFreed.free (h : OnlyFreed s t) {c : ClaimIx} (hc : (s.claim c).state = .free) :
    (t.claim c).state = .free := by
  rcases h c with hc' | hc'
  · rw [hc']; exact hc
  · rw [hc']; rfl

theorem OnlyFreed.of_same (h : t.claims = s.claims) : OnlyFreed s t := fun c =>
  .inl (State.claim_congr h c)

theorem OnlyFreed.freeClaim (s : State) (c : ClaimIx) : OnlyFreed s (s.freeClaim c) := fun d => by
  rw [State.freeClaim_claim]
  split
  · rename_i hd; subst hd; exact .inr rfl
  · exact .inl rfl

theorem OnlyFreed.foldl {α : Type} {f : State → α → State} (hf : ∀ s a, OnlyFreed s (f s a))
    (as : List α) (s : State) : OnlyFreed s (as.foldl f s) := by
  induction as generalizing s with
  | nil => exact .refl s
  | cons a as ih => exact (hf s a).trans (ih _)

theorem OnlyFreed.retireEntry (s : State) (e : EntryIx) : OnlyFreed s (s.retireEntry e) :=
  .of_same (by simp)

/-- Clearing a claim frees it, and perhaps the waiters of its entry. -/
theorem OnlyFreed.clearClaim (s : State) (c : ClaimIx) :
    OnlyFreed s (s.clearClaim c) ∧ ((s.clearClaim c).claim c).state = .free := by
  have hc : ((s.freeClaim c).claim c).state = .free := by rw [State.freeClaim_claim, if_pos rfl]; rfl
  have hfree := OnlyFreed.freeClaim s c
  unfold State.clearClaim
  split
  · exact ⟨.refl s, ‹_›⟩
  · exact ⟨hfree, hc⟩
  · dsimp only
    split
    · have hrest := (OnlyFreed.foldl OnlyFreed.freeClaim
        ((s.freeClaim c).entry (s.claim c).entry).waiters (s.freeClaim c)).trans
        (.retireEntry _ (s.claim c).entry)
      exact ⟨hfree.trans hrest, hrest.free hc⟩
    · exact ⟨hfree, hc⟩
  · dsimp only
    split
    · have hrest := OnlyFreed.retireEntry (s.freeClaim c) (s.claim c).entry
      exact ⟨hfree.trans hrest, hrest.free hc⟩
    · exact ⟨hfree, hc⟩

/-- Clearing a list of claims frees every one of them. -/
theorem OnlyFreed.clearClaims (s : State) (cs : List ClaimIx) :
    OnlyFreed s (cs.foldl (fun acc c => acc.clearClaim c) s) ∧
    ∀ c ∈ cs, ((cs.foldl (fun acc c => acc.clearClaim c) s).claim c).state = .free := by
  induction cs generalizing s with
  | nil => exact ⟨.refl s, fun c hc => by cases hc⟩
  | cons c cs ih =>
    obtain ⟨h1, h2⟩ := OnlyFreed.clearClaim s c
    obtain ⟨i1, i2⟩ := ih (s.clearClaim c)
    refine ⟨h1.trans i1, fun d hd => ?_⟩
    rcases List.mem_cons.1 hd with rfl | hd
    · exact i1.free h2
    · exact i2 d hd

theorem LawsBut.clearClaim (h : LawsBut none s) (c : ClaimIx) : LawsBut none (s.clearClaim c) := by
  unfold State.clearClaim
  split
  · exact h
  · rename_i hd; exact h.freeClaim (by simp [hd]) (by simp [hd])
  · rename_i hst
    dsimp only
    have hocc := h.occupied_of_claim (.inl hst)
    have h1 := (h.excuse (o := some (s.claim c).entry)).freeClaim (c := c) (by simp [hst]) fun _ => rfl
    have hocc1 : ((s.freeClaim c).entry (s.claim c).entry).occupied = true := by
      rw [(h.pool.entryWithout c _ (State.freeClaim_entry s c _)).2.2.1]; exact hocc
    split
    · rename_i hh
      have hw := h1.pool.waiters (s.claim c).entry
      obtain ⟨h2, -, h3, h4, h5⟩ := TakesOff.freeClaim.foldl hw.1 h1
        (fun d hd => ⟨.inr ((hw.2 d).1 hd).1, ((hw.2 d).1 hd).2⟩)
      exact h2.retireEntry (h5.trans hocc1) (by rw [h3, hh]; rfl)
        (by rw [h4]; exact filter_not_contains_self _)
    · rename_i hh; exact h1.settle fun _ => hh
  · rename_i hst
    dsimp only
    have h1 := h.freeClaim (c := c) (by simp [hst]) (by simp [hst])
    split
    · rename_i hh
      have hocc := h.occupied_of_claim (.inr hst)
      rw [← (h.pool.entryWithout c _ (State.freeClaim_entry s c _)).2.2.1] at hocc
      exact h1.excuse.retireEntry hocc hh.1 hh.2
    · exact h1

theorem LawsBut.clearClaims (h : LawsBut none s) (cs : List ClaimIx) :
    LawsBut none (cs.foldl (fun acc c => acc.clearClaim c) s) := by
  induction cs generalizing s with
  | nil => exact h
  | cons c cs ih => exact ih (h.clearClaim c)

/-- A session whose every claim has been freed has an empty claim list. -/
theorem LawsBut.claimList_nil_of_freed (h : LawsBut o s) (ht : LawsBut o t) (hf : OnlyFreed s t)
    {i : SlotIx} (hall : ∀ c ∈ (s.session i).claimList, (t.claim c).state = .free) :
    (t.session i).claimList = [] := by
  rw [List.eq_nil_iff_forall_not_mem]
  intro c hc
  obtain ⟨hne, hsess⟩ := ((ht.pool.claimList i).2 c).1 hc
  rcases hf c with hsame | hfreed
  · rw [hsame] at hne hsess
    exact absurd (hall c (((h.pool.claimList i).2 c).2 ⟨hne, hsess⟩)) (by rw [hsame]; exact hne)
  · rw [hfreed] at hne; exact hne rfl

theorem SameForLaws.settleClose (s : State) (i : SlotIx) : SameForLaws s (s.settleClose i) := by
  unfold State.settleClose
  split
  · exact (SameForLaws.fillReply s i _).trans (.updSession _ i _ fun _ => ⟨rfl, rfl, rfl, rfl, rfl⟩)
  · exact .refl s

/-- A clear step ends a session and frees its claims (R96). -/
theorem LawsBut.clearSession (h : LawsBut none s) (i : SlotIx) : LawsBut none (s.clearSession i) := by
  have hcause : SameForLaws s (s.updSession i (fun x =>
      { x with endCause := if x.state = .opened then .serviceClear else x.endCause })) :=
    .updSession s i _ fun _ => ⟨rfl, rfl, rfl, rfl, rfl⟩
  unfold State.clearSession
  have h1 := h.of_same hcause
  generalize s.updSession i (fun x =>
    { x with endCause := if x.state = .opened then .serviceClear else x.endCause }) = v at h1 ⊢
  dsimp only
  obtain ⟨hfreed, hall⟩ := OnlyFreed.clearClaims v (v.session i).claimList
  have h2 := h1.clearClaims (v.session i).claimList
  have hnil := h1.claimList_nil_of_freed h2 hfreed hall
  generalize (v.session i).claimList.foldl (fun acc c => acc.clearClaim c) v = w at h2 hnil ⊢
  have hw : SameForLaws w ((w.dropLease i).settleClose i) :=
    (SameForLaws.dropLease w i).trans (.settleClose _ i)
  obtain ⟨h3, hno⟩ := (h2.of_same hw).withdrawSessionEnded i
  refine h3.updState (fun _ => ⟨rfl, rfl, rfl⟩) (fun _ => ?_) (by simp)
    fun l hm => absurd hm (hno l)
  rw [(State.withdrawSessionEnded_reads _ i).2.2.1 i, (hw.session i).2.2.1]; exact hnil

/-- With every session IDLE no entry is occupied. -/
theorem LawsBut.no_occupied (h : LawsBut none s) (hi : ∀ i, (s.session i).state = .idle) (e : EntryIx) :
    (s.entry e).occupied = false := by
  by_contra hne
  have hocc : (s.entry e).occupied = true := by simpa using hne
  obtain ⟨c, hc⟩ := List.exists_mem_of_ne_nil _ (h.hasHolder e (by simp) hocc)
  have hst := (((h.pool.holders e).2 c).1 hc).1
  have hmem := ((h.pool.claimList (s.claim c).session).2 c).2 ⟨by simp [hst], rfl⟩
  rw [h.people.noClaims _ (.inl (hi _))] at hmem; cases hmem

/-- The final step of the clear sweep sets counts to 0 that are 0 (R13, R170). -/
theorem LawsBut.clearFinal (h : LawsBut none s) (hi : ∀ i, (s.session i).state = .idle) :
    LawsBut none s.clearFinal := by
  refine h.of_same (.of_tables rfl rfl rfl rfl rfl (fun n => ?_) (fun _ => ⟨rfl, rfl, rfl, rfl, rfl⟩)
    (fun _ _ => rfl))
  have hzero : (s.ns n).occupied = 0 := by
    rw [h.table.occupiedCount, State.countP_entries, List.countP_eq_zero]
    intro e _
    simp [h.no_occupied hi e]
  rw [hzero]
  exact congrArg Namespace.occupied (Vector.getElem_map _ _)

end Sys2Proof.Machine
end

section
/-!
Device reset meets every invariant (R16, R52), a step takes the front command, and the bucket of a key (R4).
-/

namespace Sys2Proof.Machine

/-! ### The state at device reset -/

theorem State.reset_freeList : State.reset.freeList = indicesFrom 4096 4096 0 := rfl

theorem State.reset_freeList_nodup : State.reset.freeList.Nodup :=
  List.Nodup.of_map (fun c : ClaimIx => c.val)
    (by rw [State.reset_freeList, indicesFrom_map_val 4096 4096 0 (by omega)]; exact List.nodup_range')

theorem State.mem_reset_freeList (c : ClaimIx) : c ∈ State.reset.freeList :=
  (mem_indicesFrom (by omega)).2 (Nat.zero_le _)

theorem State.reset_entries : State.reset.entries.toList = List.replicate 2048 Entry.reset :=
  Vector.toList_replicate

/-- At device reset no entry is occupied, no claim in use and no item on a list (R16, R52). -/
theorem State.reset_laws : LockTableLaws State.reset where
  chains b e := by simp [Entry.reset]
  chainsOnce b := by simp
  keysDiffer e f := by simp [Entry.reset]
  freeEntry e _ := State.reset_entry e
  hasHolder e := by simp [Entry.reset]
  soleHolder e := by simp [Entry.reset]
  upgradeHolds e c := by simp [Entry.reset]
  occupiedCount n := by
    rw [State.reset_ns, State.reset_entries, List.countP_replicate]; simp [Entry.reset, Namespace.reset]
  freeCount := by
    rw [State.freeEntries, State.reset_entries, List.countP_replicate]; simp [Entry.reset, State.reset]
  freeList := ⟨State.reset_freeList_nodup, fun c => by simp [State.mem_reset_freeList, Claim.reset]⟩
  holders e := by simp [Entry.reset, Claim.reset]
  waiters e := by simp [Entry.reset, Claim.reset]
  notice c := by simp [Claim.reset]
  claimList i := by simp [Session.reset, Claim.reset]
  counts i := by simp [Session.reset]
  noClaims i _ := by simp [Session.reset]
  sweeps i := by simp [Session.reset]
  endedItem l i := by simp [Line.reset]

theorem State.reset_settings : SettingsInRange State.reset := by
  refine ⟨by decide, by decide, by decide, by decide, fun l => ?_, fun n => ?_⟩
  · rw [State.reset_line]; decide
  · rw [State.reset_ns]; decide

/-! ### The bucket of a key (R4) -/

/-- The name's bits, combined as the bucket takes them. -/
def foldedName (name : LockName) : LockName := name ^^^ (name >>> 9) ^^^ (name >>> 18) ^^^ (name >>> 27)

theorem bucketOf_val (k : Key) : (bucketOf k).val = ((foldedName k.name).toNat + 37 * k.ns.val) % 512 := rfl

/-- The bucket reads the low nine bits of the folded name. -/
theorem bucketOf_eq_of_low_bits (n : NsIx) {a b : LockName}
    (h : (foldedName a).setWidth 9 = (foldedName b).setWidth 9) : bucketOf ⟨n, a⟩ = bucketOf ⟨n, b⟩ := by
  have hmod : (foldedName a).toNat % 512 = (foldedName b).toNat % 512 := by
    simpa using congrArg BitVec.toNat h
  apply Fin.ext
  rw [bucketOf_val, bucketOf_val]
  exact Nat.ModEq.add_right _ hmod

/-- The next namespace puts a name 37 buckets further on. -/
theorem bucketOf_succ_ns {n m : NsIx} (name : LockName) (h : m.val = n.val + 1) :
    (bucketOf ⟨m, name⟩).val = ((bucketOf ⟨n, name⟩).val + 37) % 512 := by
  rw [bucketOf_val, bucketOf_val]
  dsimp only
  omega

end Sys2Proof.Machine

open Sys2Proof Sys2Proof.Machine

/-- Settles O1: the queue is read by `step` alone. -/
theorem stepRunsTheFrontCommand : Obligations.StepRunsTheFrontCommand := by
  refine ⟨fun c rest s => rfl, fun s h => ?_⟩
  unfold step
  rw [h]

/-- Settles O3, from the values of the tables in `State.reset`. -/
theorem deviceResetEmptiesTheTables : Obligations.DeviceResetEmptiesTheTables := by
  refine ⟨fun s => ⟨{ State.reset with pending := s.pending }, rfl, State.reset_entry, fun e => ?_,
    fun b => ?_, fun n => ?_, rfl, rfl, rfl, rfl, rfl⟩,
    fun s => ⟨{ State.reset with pending := s.pending }, rfl, State.reset_claim, ?_, rfl, fun i => ?_,
    fun l => ?_⟩⟩
  · exact if_neg (by rw [show State.entry { State.reset with pending := s.pending } e = _ from
      State.reset_entry e]; simp [Entry.reset])
  · exact congrArg List.head? (State.reset_chain b)
  · exact congrArg Namespace.occupied (State.reset_ns n)
  · exact (indicesFrom_map_val 4096 4096 0 (by omega)).trans List.range_eq_range'.symm
  · rw [show State.session { State.reset with pending := s.pending } i = _ from State.reset_session i]
    exact ⟨rfl, rfl, rfl⟩
  · exact congrArg Line.notices (State.reset_line l)

/-- Settles O5: each clause is a fact about the sum modulo 512. -/
theorem bucketOfAKey : Obligations.BucketOfAKey :=
  ⟨fun _ _ => rfl, fun n _ _ => bucketOf_eq_of_low_bits n, fun _ _ name => bucketOf_succ_ns name,
    by decide, by decide⟩

/-- Settles O54, from the laws and the settings of the state at reset. -/
theorem resetMeetsTheInvariants : Obligations.ResetMeetsTheInvariants := by
  refine ⟨⟨by decide, fun l => ?_⟩, State.reset_settings,
    ⟨by simp [State.reset], by decide, by simp [State.reset], by simp [State.reset]⟩,
    ⟨by decide, fun h => absurd rfl h, fun h => absurd h (by decide), fun h => absurd h (by decide)⟩,
    ((indicesFrom_length 4096 4096 0 (by omega))).symm, ⟨by simp [State.reset], by simp [State.reset]⟩,
    State.reset_laws⟩
  rw [State.reset_line]; decide
end

section
/-!
Every command keeps the laws of the lock table: the Line Units' own actions, the host's writes, the sweeps'
steps, and the walk over the dispatch (R5, R12, R13, R27, R30, R73).
-/

namespace Sys2Proof.Machine

variable {o : Option EntryIx} {s : State}

/-- A command answers a next state, of which `P` holds. -/
def Answers (P : State → Prop) (r : Result) : Prop := ∃ t, r = .next t ∧ P t

theorem Answers.next {P : State → Prop} {t : State} (h : P t) : Answers P (.next t) := ⟨t, rfl, h⟩

/-- A row whose event may not occur. -/
theorem Answers.ite {P : State → Prop} {t u : State} {p : Prop} [Decidable p] (ht : p → P t) (hu : P u) :
    Answers P (.next (if p then t else u)) := by
  split
  · exact .next (ht ‹_›)
  · exact .next hu

/-! ### Actions of one Line Unit that leave its notice list (R147 to R154) -/

/-- One line's records are changed, its notice list apart. -/
def LineTouched (l : LineIx) (s t : State) : Prop :=
  ∃ f : Line → Line, (f (s.line l)).notices = (s.line l).notices ∧ t = s.updLine l f

theorem State.updLine_id (s : State) (l : LineIx) : s.updLine l (fun ln => ln) = s := by
  have hlines : (s.updLine l (fun ln => ln)).lines = s.lines := State.lines_ext fun m => by
    rw [State.updLine_line]
    split
    · rename_i h; subst h; rfl
    · rfl
  show { s with lines := (s.updLine l (fun ln => ln)).lines } = s
  rw [hlines]

theorem LineTouched.refl (l : LineIx) (s : State) : LineTouched l s s :=
  ⟨fun ln => ln, rfl, (State.updLine_id s l).symm⟩

theorem Line.huntCharacter_notices (ln : Line) (ch : RxChar) : (ln.huntCharacter ch).notices = ln.notices := by
  unfold Line.huntCharacter; split <;> rfl

theorem Line.lengthCharacter_notices (ln : Line) (ch : RxChar) :
    (ln.lengthCharacter ch).notices = ln.notices := by
  unfold Line.lengthCharacter
  split
  · rfl
  · split <;> rfl

theorem Line.judgeFrame_notices (ln : Line) (n : Nat) (bytes : List Byte) (bad : Bool) :
    (ln.judgeFrame n bytes bad).notices = ln.notices := by
  unfold Line.judgeFrame
  dsimp only
  split
  · rfl
  split
  · rfl
  split
  · rfl
  split <;> rfl

theorem Line.breakDetected_notices (ln : Line) : ln.breakDetected.notices = ln.notices := by
  unfold Line.breakDetected; dsimp only; split <;> rfl

theorem Line.breakEnded_notices (ln : Line) (high : Nat) : (ln.breakEnded high).notices = ln.notices := by
  unfold Line.breakEnded; split <;> rfl

/-- The commands that are one Line Unit's own, its notice list and its restart step apart. -/
inductive LineAction : LineIx → Instr → Prop
  | hunt (l : LineIx) (ch : RxChar) : LineAction l (.requestSyncByte l ch)
  | length (l : LineIx) (ch : RxChar) : LineAction l (.lengthByte l ch)
  | body (l : LineIx) (ch : RxChar) : LineAction l (.bodyCharacter l ch)
  | frame (l : LineIx) (ch : RxChar) : LineAction l (.frameReceived l ch)
  | gap (l : LineIx) (idle : Nat) : LineAction l (.gapLimitExpiry l idle)
  | brk (l : LineIx) (low : Nat) : LineAction l (.breakDetected l low)
  | brkEnd (l : LineIx) (high : Nat) : LineAction l (.breakEnd l high)
  | reply (l : LineIx) (idle : Nat) : LineAction l (.replyFrameStart l idle)
  | sent (l : LineIx) : LineAction l (.frameTransmissionEnd l)

/-- A Line Unit's own action touches its line alone, and not its notice list. -/
theorem LineAction.touches {l : LineIx} {c : Instr} (h : LineAction l c) (s : State) :
    Answers (LineTouched l s) (exec c s) := by
  cases h with
  | hunt ch => exact .ite (fun _ => ⟨_, Line.huntCharacter_notices _ ch, rfl⟩) (.refl l s)
  | length ch => exact .ite (fun _ => ⟨_, Line.lengthCharacter_notices _ ch, rfl⟩) (.refl l s)
  | body ch =>
    change Answers _ (execBodyCharacter l ch s)
    unfold execBodyCharacter
    split
    · exact .ite (fun _ => ⟨_, rfl, rfl⟩) (.refl l s)
    · exact .next (.refl l s)
    · exact .next (.refl l s)
  | frame ch =>
    change Answers _ (execFrameReceived l ch s)
    unfold execFrameReceived
    split
    · exact .ite (fun _ => ⟨_, Line.judgeFrame_notices _ _ _ _, rfl⟩) (.refl l s)
    · exact .next (.refl l s)
    · exact .next (.refl l s)
  | gap idle => exact .ite (fun _ => ⟨_, rfl, rfl⟩) (.refl l s)
  | brk low => exact .ite (fun _ => ⟨_, Line.breakDetected_notices _, rfl⟩) (.refl l s)
  | brkEnd high => exact .next ⟨_, Line.breakEnded_notices _ high, rfl⟩
  | reply idle =>
    change Answers _ (execReplyFrameStart l idle s)
    unfold execReplyFrameStart
    split
    · exact .ite (fun _ => ⟨_, rfl, rfl⟩) (.refl l s)
    · exact .next (.refl l s)
  | sent => exact .next ⟨_, rfl, rfl⟩

theorem LawsBut.of_lineTouched {l : LineIx} {t : State} (h : LawsBut o s) (ht : LineTouched l s t) :
    LawsBut o t := by
  obtain ⟨f, hf, rfl⟩ := ht
  exact h.updLine_fewer l f (by rw [hf])

/-! ### Notice frames (R51, R94) -/

theorem LawsBut.sendNotice (h : LawsBut o s) (l : LineIx) (frame : List Byte) :
    LawsBut o (s.sendNotice l frame) := h.updLine_fewer l _ (List.tail_sublist _)

theorem SameForLaws.countNotice (s : State) (i : SlotIx) : SameForLaws s (s.countNotice i) :=
  .updSession s i (fun x => { x with noticeCounter := x.noticeCounter + 1#8 })
    fun _ => ⟨rfl, rfl, rfl, rfl, rfl⟩

theorem LawsBut.startNotice (h : LawsBut o s) (l : LineIx) (c : ClaimIx) (k : NoticeKind) :
    LawsBut o (s.startNotice l c k) :=
  ((h.of_same (.countNotice s (s.claim c).session)).sendNotice l _).forgetNotice c

/-- The item that a line would send stands at the head of its list. -/
theorem Line.notices_of_nextNotice {ln : Line} {idle : Nat} {it : NoticeItem}
    (h : ln.nextNotice idle = some it) : ∃ rest, ln.notices = it :: rest := by
  unfold Line.nextNotice at h
  split at h
  · exact List.head?_eq_some_iff.1 h
  · cases h

/-- A SESSION_ENDED frame starts: the item was the only one, and its session, ENDED until now, is IDLE. -/
theorem LawsBut.startSessionEnded (h : LawsBut o s) {l : LineIx} {i : SlotIx} {rest : List NoticeItem}
    (hn : (s.line l).notices = .sessionEnded i :: rest) : LawsBut o (s.startSessionEnded l i) := by
  obtain ⟨honce, hitem⟩ := h.people.endedItem l i
  obtain ⟨hl, hend⟩ := hitem (by rw [hn]; exact List.mem_cons_self)
  have hrest : NoticeItem.sessionEnded i ∉ rest := by
    rw [hn, List.count_cons_self] at honce
    exact List.count_eq_zero.1 (by omega)
  have hcount := SameForLaws.countNotice s i
  refine ((h.of_same hcount).sendNotice l _).updState (f := fun x => { x with state := .idle }) (fun _ => ⟨rfl, rfl, rfl⟩) (fun _ => ?_)
    (fun hsw => ?_) fun m hm => ?_
  · rw [State.sendNotice, State.updLine_session, (hcount.session i).2.2.1]
    exact h.people.noClaims i (.inr hend)
  · rw [State.sendNotice, State.updLine_session, (hcount.session i).2.1] at hsw
    have := h.people.sweeps i hsw
    rw [hend] at this; cases this
  · rw [State.sendNotice, State.updLine_line] at hm
    split at hm
    · simp only [State.countNotice, State.updSession_line, hn, List.tail_cons] at hm
      exact absurd hm hrest
    · rename_i hlm
      exact absurd (hl.trans ((h.people.endedItem m i).2 hm).1.symm) hlm

/-! ### The host's writes (R162, R164, R181) -/

theorem SameForLaws.writeLineByte (s : State) (l : LineIx) (data : Byte) :
    SameForLaws s (s.writeLineByte l data) := .updLine s l _ fun _ => by rfl

theorem SameForLaws.writeCommandCode (s : State) (data : Byte) :
    SameForLaws s (s.writeCommandCode data) := by
  unfold State.writeCommandCode
  split
  · split
    · exact .raise s _
    · exact .of_eq rfl rfl rfl rfl rfl rfl rfl rfl
  · exact .raise s _
  · split
    · exact .of_eq rfl rfl rfl rfl rfl rfl rfl rfl
    · exact .raise s _

theorem SameForLaws.writeWindow (s : State) (a : Nat) (data : Byte) :
    SameForLaws s (s.writeWindow a data) := by
  unfold State.writeWindow
  split
  · exact .writeCommandCode s data
  split
  · exact .of_eq rfl rfl rfl rfl rfl rfl rfl rfl
  split
  · exact .of_eq rfl rfl rfl rfl rfl rfl rfl rfl
  split
  · exact .writeLineByte s _ data
  split
  · exact .of_eq rfl rfl rfl rfl rfl rfl rfl rfl
  · exact .refl s

theorem SameForLaws.spiByte {p : SpiPlace} {a : Nat} {write : State → State}
    (hw : SameForLaws s (write s)) : SameForLaws s (s.spiByte p a write) := by
  unfold State.spiByte
  split
  · exact hw.trans (.of_eq rfl rfl rfl rfl rfl rfl rfl rfl)
  · exact .refl s

/-! ### Sweeps and device reset -/

theorem LawsBut.endingFinal (h : LawsBut o s) {i : SlotIx} (hi : (s.session i).state = .ending)
    (hl : (s.session i).claimList = []) : LawsBut o (s.endingFinal i) :=
  ((h.leaveEnding hi hl).of_same (.completeEvict _ i)).of_same (.completeRestart _ _)

theorem LawsBut.clearStep (h : LawsBut none s) (i : SlotIx) : LawsBut none (s.clearStep i) :=
  (h.clearSession i).of_same (.of_eq rfl rfl rfl rfl rfl rfl rfl rfl)

theorem State.idle_of_clearTarget_none (h : s.clearTarget = none) (i : SlotIx) :
    (s.session i).state = .idle := by
  simpa using lowest_eq_none_iff.1 h i

theorem SameForLaws.setPending (s : State) (cs : List Instr) :
    SameForLaws s { s with pending := cs } := .of_eq rfl rfl rfl rfl rfl rfl rfl rfl

/-! ### The dispatch -/

/-- Every command keeps the laws of the lock table. -/
theorem LawsBut.exec (h : LawsBut none s) (c : Instr) :
    Answers (LawsBut none) (Machine.exec c s) := by
  have line : ∀ {l c}, LineAction l c → Answers (LawsBut none) (Machine.exec c s) := fun ha =>
    let ⟨t, ht, hl⟩ := ha.touches s
    ⟨t, ht, h.of_lineTouched hl⟩
  cases c with
  | reqOpen l => exact .next (h.requestStep fun i r hu => hu.serveOpen i r)
  | reqClose l => exact .next (h.requestStep fun i r hu => hu.serveClose i r)
  | reqRenew l =>
    exact .next (h.requestStep fun i r hu => hu.serveRequest
      (fun {u i r} hu _ => by rw [State.renew_state]; exact hu) i r)
  | reqAcquire l =>
    exact .next (h.requestStep fun i r hu => hu.serveRequest (fun hu ho => hu.acquire ho) i r)
  | reqRelease l =>
    exact .next (h.requestStep fun i r hu => hu.serveRequest (fun hu _ => hu.release) i r)
  | reqConvert l =>
    exact .next (h.requestStep fun i r hu => hu.serveRequest (fun hu _ => hu.convert) i r)
  | reqCancel l =>
    exact .next (h.requestStep fun i r hu => hu.serveRequest (fun hu _ => hu.cancel) i r)
  | reqQuery l =>
    exact .next (h.requestStep fun i r hu => hu.serveRequest
      (fun {u i r} hu _ => by rw [State.query_state]; exact hu) i r)
  | reqGroup l =>
    exact .next (h.requestStep fun i r hu => hu.serveRequest (fun hu ho => hu.group ho) i r)
  | reqUnknownKind l =>
    exact .next (h.requestStep fun i r hu => hu.serveRequest (fun hu _ => hu) i r)
  | setTokenBase => exact .next (h.commandStep fun hu => hu.of_same (.setTokenBase _))
  | startService => exact .next (h.commandStep fun hu => hu.of_same (.startService _))
  | suspendService => exact .next (h.commandStep fun hu => hu.of_same (.suspendService _))
  | clearService => exact .next (h.commandStep fun hu => hu.of_same (.clearService _))
  | defineNamespace => exact .next (h.commandStep fun hu => hu.of_same (.nsCommand _ (.defineNs _)))
  | changeNamespace => exact .next (h.commandStep fun hu => hu.of_same (.nsCommand _ (.changeNs _)))
  | disableNamespaceDrain =>
    exact .next (h.commandStep fun hu => hu.of_same (.nsCommand _ (.disableNs _)))
  | disableNamespaceRevoke =>
    exact .next (h.commandStep fun hu => hu.of_same (.nsCommand _ (.disableNs _)))
  | evictSession => exact .next (h.commandStep fun hu => hu.slotCommand hu.evict)
  | inspectSession =>
    exact .next (h.commandStep fun hu => hu.slotCommand fun _ => hu.of_same (.complete _ _ _))
  | revokeLockHolders => exact .next (h.commandStep fun hu => hu.revokeLock)
  | revokeLockAll => exact .next (h.commandStep fun hu => hu.revokeLock)
  | inspectLock => exact .next (h.commandStep fun hu => hu.of_same (.inspectLock _))
  | lineConfig =>
    exact .next (h.commandStep fun hu => hu.lineCommand fun l => hu.of_same (.configureLine _ l))
  | lineEnable =>
    exact .next (h.commandStep fun hu => hu.lineCommand fun l => hu.of_same (.enableLine _ l))
  | lineDisable => exact .next (h.commandStep fun hu => hu.lineCommand hu.disableLine)
  | lineRestart => exact .next (h.commandStep fun hu => hu.lineCommand hu.restartLine)
  | setLeaseBounds => exact .next (h.commandStep fun hu => hu.of_same (.setLeaseBounds _))
  | setPoolThreshold => exact .next (h.commandStep fun hu => hu.of_same (.setPoolThreshold _))
  | readCounters => exact .next (h.commandStep fun hu => hu.of_same (.readCounters _))
  | unknownCommand => exact .next (h.commandStep fun hu => hu.of_same (.complete _ _ _))
  | mailboxAck p => exact .next (h.of_same (.spiByte (.writeCommandCode s _)))
  | registerWrite addr data p => exact .next (h.of_same (.spiByte (.writeWindow s _ data)))
  | causeClear target data p =>
    cases target with
    | device => exact .next (h.of_same (.spiByte (.of_eq rfl rfl rfl rfl rfl rfl rfl rfl)))
    | line l => exact .next (h.of_same (.spiByte (.writeLineByte s l data)))
  | maskWrite target data p =>
    cases target with
    | device => exact .next (h.of_same (.spiByte (.of_eq rfl rfl rfl rfl rfl rfl rfl rfl)))
    | line l => exact .next (h.of_same (.spiByte (.writeLineByte s l data)))
  | frameReceived l ch => exact line (.frame l ch)
  | lengthByte l ch => exact line (.length l ch)
  | gapLimitExpiry l idle => exact line (.gap l idle)
  | breakDetected l low => exact line (.brk l low)
  | requestSyncByte l ch => exact line (.hunt l ch)
  | bodyCharacter l ch => exact line (.body l ch)
  | replyFrameStart l idle => exact line (.reply l idle)
  | frameTransmissionEnd l => exact line (.sent l)
  | breakEnd l high => exact line (.brkEnd l high)
  | restartStep l => exact .ite (fun _ => (h.of_same (.served s _)).restartStep l) h
  | noticeFrameStart l idle =>
    change Answers _ (execNoticeFrameStart l idle s)
    unfold execNoticeFrameStart
    split
    · split
      · exact .next (h.startNotice l _ _)
      · exact .next h
    · exact .next h
    · exact .next h
  | sessionEndedFrameStart l idle =>
    change Answers _ (execSessionEndedFrameStart l idle s)
    unfold execSessionEndedFrameStart
    split
    · obtain ⟨rest, hn⟩ := Line.notices_of_nextNotice ‹_›
      exact .next (h.startSessionEnded hn)
    · exact .next h
    · exact .next h
  | timeCounterAdvance => exact .next (h.of_same (.of_eq rfl rfl rfl rfl rfl rfl rfl rfl))
  | posting =>
    change Answers _ (execPosting s)
    unfold execPosting
    split
    · exact .ite (fun _ => h.of_same (.of_eq rfl rfl rfl rfl rfl rfl rfl rfl)) h
    · exact .next h
  | leaseExpiry =>
    change Answers _ (execLeaseExpiry s)
    unfold execLeaseExpiry
    split
    · exact .next ((h.of_same (.takeExpiry s)).expireLease _ _)
    · exact .next h
    · exact .next h
  | waitExpiry =>
    change Answers _ (execWaitExpiry s)
    unfold execWaitExpiry
    split
    · exact .next ((h.of_same (.takeExpiry s)).expireWait _ _ _)
    · exact .next h
    · exact .next h
  | endingSweepStep i =>
    refine .ite (fun ht => ?_) h
    split
    · exact (h.of_same (.servedSweep s _)).endingStep (h.people.ending_of_turn ht) _
    · exact h
  | endingSweepFinalStep i =>
    exact .ite (fun ht => (h.of_same (.servedSweep s _)).endingFinal (h.people.ending_of_turn ht.1) ht.2) h
  | revokeSweepStep n =>
    refine .ite (fun _ => ?_) h
    split
    · exact (h.of_same (.servedSweep s _)).revokeStep n (State.scanEntry_occupied ‹_›)
    · exact h
  | revokeSweepFinalStep n => exact .ite (fun _ => (h.of_same (.servedSweep s _)).revokeFinal n) h
  | clearStep =>
    refine .ite (fun _ => ?_) h
    split
    · exact (h.of_same (.servedSweep s _)).clearStep _
    · exact h
  | clearSweepFinalStep =>
    exact .ite (fun ht => (h.of_same (.servedSweep s _)).clearFinal
      (State.idle_of_clearTarget_none ht.2)) h
  | deviceReset =>
    exact .next ((lawsBut_none_iff.2 State.reset_laws).of_same (.setPending _ _))

end Sys2Proof.Machine
end

section
/-!
What a request command leaves alone: the host's side, the other lines but for their notices, the rules, and
the sessions of other lines (R20, R22, R150).
-/

namespace Sys2Proof.Machine

/-- From `s` to `t` a request of line `l` has been worked on. -/
structure RequestFrame (l : LineIx) (s t : State) : Prop where
  host : HostSideSame s t
  freeCount : FreeCountMatches s → FreeCountMatches t
  lines : ∀ m, m ≠ l → t.line m = { s.line m with notices := (t.line m).notices }
  own : (t.line l).config = (s.line l).config ∧ (t.line l).state = (s.line l).state ∧
    (t.line l).counters = (s.line l).counters ∧ (t.line l).causes = (s.line l).causes ∧
    (t.line l).masks = (s.line l).masks ∧ (t.line l).transmitting = (s.line l).transmitting
  rules : ∀ n, (t.ns n).rules = (s.ns n).rules
  sessions : ∀ i, lineOf i ≠ l →
    (t.session i).state = (s.session i).state ∧
    (t.session i).incarnation = (s.session i).incarnation ∧
    (t.session i).leaseDeadline = (s.session i).leaseDeadline ∧
    (t.session i).cache = (s.session i).cache

namespace RequestFrame

variable {l : LineIx} {s t u : State} {i : SlotIx}

theorem refl (l : LineIx) (s : State) : RequestFrame l s s where
  host := rfl
  freeCount := id
  lines _ _ := rfl
  own := ⟨rfl, rfl, rfl, rfl, rfl, rfl⟩
  rules _ := rfl
  sessions _ _ := ⟨rfl, rfl, rfl, rfl⟩

theorem trans (h : RequestFrame l s t) (g : RequestFrame l t u) : RequestFrame l s u where
  host := by
    have h1 : t = _ := h.host
    have g1 : u = _ := g.host
    show u = _
    rw [g1, h1]
  freeCount := g.freeCount ∘ h.freeCount
  lines m hm := by rw [g.lines m hm, h.lines m hm]
  own := by
    obtain ⟨a1, a2, a3, a4, a5, a6⟩ := g.own
    obtain ⟨b1, b2, b3, b4, b5, b6⟩ := h.own
    exact ⟨a1.trans b1, a2.trans b2, a3.trans b3, a4.trans b4, a5.trans b5, a6.trans b6⟩
  rules n := (g.rules n).trans (h.rules n)
  sessions i hi := by
    obtain ⟨a1, a2, a3, a4⟩ := g.sessions i hi
    obtain ⟨b1, b2, b3, b4⟩ := h.sessions i hi
    exact ⟨a1.trans b1, a2.trans b2, a3.trans b3, a4.trans b4⟩

theorem ite {a b : State} {p : Prop} [Decidable p] (ha : p → RequestFrame l s a)
    (hb : ¬ p → RequestFrame l s b) : RequestFrame l s (if p then a else b) := by
  split
  · exact ha ‹_›
  · exact hb ‹_›

theorem foldl {α : Type} (f : State → α → State) (hf : ∀ s a, RequestFrame l s (f s a)) (as : List α)
    (s : State) : RequestFrame l s (as.foldl f s) := by
  induction as generalizing s with
  | nil => exact refl l s
  | cons a as ih => exact (hf s a).trans (ih _)

/-! ### The steps of the request path -/

/-- The operations on claims and entries. -/
theorem of_table (h : TableStep s t) (hp : PoolStep s t) : RequestFrame l s t where
  host := h.host
  freeCount := hp.freeCount
  lines m _ := h.lines m
  own := by rw [h.lines l]; exact ⟨rfl, rfl, rfl, rfl, rfl, rfl⟩
  rules n := by rw [h.namespaces n]
  sessions i _ := by rw [h.sessions i]; exact ⟨rfl, rfl, rfl, rfl⟩

/-- A change outside the lines, the sessions, the namespaces and the free list. -/
theorem of_same (hh : HostSideSame s t) (hf : t.freeList = s.freeList)
    (hc : t.freeClaimCount = s.freeClaimCount) (hl : t.lines = s.lines) (hs : t.sessions = s.sessions)
    (hn : t.namespaces = s.namespaces) : RequestFrame l s t where
  host := hh
  freeCount h := by rw [FreeCountMatches, hf, hc]; exact h
  lines m _ := by rw [State.line_congr hl]
  own := by rw [State.line_congr hl]; exact ⟨rfl, rfl, rfl, rfl, rfl, rfl⟩
  rules n := by rw [State.ns_congr hn]
  sessions i _ := by rw [State.session_congr hs]; exact ⟨rfl, rfl, rfl, rfl⟩

theorem updSession (s : State) (hi : lineOf i = l) (f : Session → Session) :
    RequestFrame l s (s.updSession i f) :=
  { refl l s with
    host := rfl
    sessions := fun j hj => by
      rw [State.updSession_session, if_neg (fun (h : i = j) => hj (h ▸ hi))]
      exact ⟨rfl, rfl, rfl, rfl⟩ }

/-- The line's queues and its assembler. -/
theorem updLine (s : State) (l : LineIx) (f : Line → Line)
    (hf : ∀ x, f x = { x with requests := (f x).requests, replies := (f x).replies,
                              notices := (f x).notices }) : RequestFrame l s (s.updLine l f) :=
  { refl l s with
    host := rfl
    lines := fun m hm => by rw [State.updLine_line, if_neg (Ne.symm hm)]
    own := by
      rw [State.updLine_line_same, hf]
      exact ⟨rfl, rfl, rfl, rfl, rfl, rfl⟩ }

theorem raise (s : State) (k : DeviceCause) : RequestFrame l s (s.raise k) :=
  of_same rfl rfl rfl rfl rfl rfl

theorem takeFrame (s : State) (l : LineIx) (r : Request) : RequestFrame l s (s.takeFrame l r) :=
  (updLine s l (fun ln =>
    { ln with requests := ln.requests.tail,
              replies := ln.replies ++ [⟨r.station, r.tag, replyKind r.kind, none⟩] })
    fun _ => rfl).trans (of_same rfl rfl rfl rfl rfl rfl)

theorem dropLease (s : State) (i : SlotIx) : RequestFrame l s (s.dropLease i) :=
  of_same rfl rfl rfl rfl rfl rfl

theorem setLease (s : State) (hi : lineOf i = l) : RequestFrame l s (s.setLease i) :=
  ((updSession s hi (fun x => { x with leaseDeadline := some (deadlineAfter s.time (s.session i).lease) })
    ).trans (dropLease _ i)).trans (of_same rfl rfl rfl rfl rfl rfl)

theorem fillReply (s : State) (hi : lineOf i = l) (reply : Reply) :
    RequestFrame l s (s.fillReply i reply) := by
  subst hi
  exact updLine s _ (fun ln =>
    { ln with replies := fillReserved (stationOf i) (s.replyContent i reply) ln.replies }) fun _ => rfl

theorem answer (s : State) (hi : lineOf i = l) (reply : Reply) : RequestFrame l s (s.answer i reply) :=
  ite (fun _ => (fillReply s hi reply).trans (of_same rfl rfl rfl rfl rfl rfl))
    fun _ => fillReply s hi reply

theorem finish (s : State) (hi : lineOf i = l) (r : Request) (reply : Reply) :
    RequestFrame l s (s.finish i r reply) :=
  (answer s hi reply).trans
    (updSession (s.answer i reply) hi (fun x => { x with cache := ⟨r.tag, r.kind, reply, true⟩ }))

theorem answerFromCache (s : State) (hi : lineOf i = l) : RequestFrame l s (s.answerFromCache i) :=
  (setLease s hi).trans (fillReply _ hi _)

theorem suspendedLease (s : State) (hi : lineOf i = l) (r : Request) :
    RequestFrame l s (s.suspendedLease i r) :=
  ite (fun _ => setLease s hi) fun _ => refl l s

theorem commonChecks (hi : lineOf i = l) {r : Request} (h : s.commonChecks i r = some t) :
    RequestFrame l s t := by
  unfold State.commonChecks at h
  split at h
  · cases h; exact (suspendedLease s hi r).trans (answer _ hi _)
  · cases h; exact answer s hi _
  · split at h
    · cases h; exact answer s hi _
    · split at h <;> cases h
      exact answerFromCache s hi

/-! ### The kinds -/

theorem withdrawSessionEnded (s : State) (hi : lineOf i = l) :
    RequestFrame l s (s.withdrawSessionEnded i) := by
  subst hi
  exact updLine s _ (fun ln => { ln with notices := ln.notices.filter (fun n => n != .sessionEnded i) })
    fun _ => rfl

theorem acceptOpen (s : State) (hi : lineOf i = l) (r : Request) :
    RequestFrame l s (s.acceptOpen i r) := by
  unfold State.acceptOpen
  refine RequestFrame.trans (t := if (s.session i).state = .ended then s.withdrawSessionEnded i else s)
    (ite (fun _ => withdrawSessionEnded s hi) fun _ => refl l s) ?_
  exact ((updSession _ hi _).trans (setLease _ hi)).trans (finish _ hi r _)

theorem openClosed (s : State) (hi : lineOf i = l) (r : Request) :
    RequestFrame l s (s.openClosed i r) :=
  ite (fun _ => answer s hi _) fun _ => ite (fun _ => answer s hi _) fun _ => acceptOpen s hi r

theorem serveOpen (s : State) (hi : lineOf i = l) (r : Request) :
    RequestFrame l s (s.serveOpen i r) := by
  unfold State.serveOpen
  split
  · exact answer s hi _
  · split
    · exact ite (fun _ => answerFromCache s hi) fun _ => answer s hi _
    · exact answer s hi _
    · exact openClosed s hi r
    · exact openClosed s hi r

theorem enterEnding (s : State) (hi : lineOf i = l) (cause : EndCause) :
    RequestFrame l s (s.enterEnding i cause) := (dropLease s i).trans (updSession _ hi _)

theorem serveClose (s : State) (hi : lineOf i = l) (r : Request) :
    RequestFrame l s (s.serveClose i r) := by
  unfold State.serveClose
  split
  · exact commonChecks hi ‹_›
  · exact ite (fun _ => (enterEnding s hi _).trans (updSession _ hi _))
      fun _ => (setLease s hi).trans (finish _ hi r _)

theorem acquire (s : State) (i : SlotIx) (r : Request) : RequestFrame l s (s.acquire i r).1 := by
  unfold State.acquire
  split
  · exact refl l s
  split
  · exact refl l s
  split
  · unfold State.acquireAbsent
    split
    · exact raise s _
    split
    · split
      · exact of_table (.grantNew _ _ _ _ _ _) (.grantNew _ _ _ _ _ _)
      · exact raise s _
    · exact raise s _
  split
  · split
    · unfold State.acquireJoin
      split
      · exact raise s _
      split
      · exact of_table (.grantJoin _ _ _ _ _) (.grantJoin _ _ _ _ _)
      · exact raise s _
    · unfold State.acquireQueue
      split
      · exact refl l s
      split
      · exact refl l s
      split
      · exact raise s _
      · exact of_table (.queueClaim _ _ _ _ _ _ _) (.queueClaim _ _ _ _ _ _ _)
  · exact refl l s

theorem freeThenPass (s : State) (c : ClaimIx) (e : EntryIx) :
    RequestFrame l s ((s.freeClaim c).grantPass e) :=
  of_table ((TableStep.freeClaim s c).trans (.grantPass _ e))
    ((PoolStep.freeClaim s c).trans (.grantPass _ e))

theorem release (s : State) (i : SlotIx) (r : Request) : RequestFrame l s (s.release i r).1 := by
  unfold State.release
  split
  · exact refl l s
  split
  · exact freeThenPass s _ _
  · exact freeThenPass s _ _
  · exact refl l s
  · exact refl l s

theorem cancel (s : State) (i : SlotIx) (r : Request) : RequestFrame l s (s.cancel i r).1 := by
  unfold State.cancel
  split
  · exact refl l s
  split
  · exact freeThenPass s _ _
  · exact of_table ((TableStep.clearUpgrade s _ _).trans (.grantPass _ _))
      ((PoolStep.clearUpgrade s _ _).trans (.grantPass _ _))
  · exact refl l s
  · exact refl l s

theorem convertHeld (s : State) (c : ClaimIx) (f : AcquireFields) :
    RequestFrame l s (s.convertHeld c f).1 := by
  unfold State.convertHeld
  split
  · exact refl l s
  split
  · have hp : PoolStep s ((s.updClaim c (fun x => { x with mode := .shared })).updEntry
        (s.claim c).entry (fun x => { x with mode := .shared })) := .of_same rfl rfl rfl
    exact of_table (((TableStep.updClaim s c _).trans (.updEntry _ _ _)).trans (.grantPass _ _))
      (hp.trans (.grantPass _ _))
  unfold State.convertUp
  dsimp only
  split
  · split
    · exact of_table (.upgradeClaim _ _ _) (.upgradeClaim _ _ _)
    · exact raise s _
  split
  · exact refl l s
  split
  · exact refl l s
  · exact of_table (.makePending _ _ _ _) (.makePending _ _ _ _)

theorem convert (s : State) (i : SlotIx) (r : Request) : RequestFrame l s (s.convert i r).1 := by
  unfold State.convert
  split
  · exact refl l s
  split
  · exact refl l s
  split
  · exact convertHeld s _ _
  · exact convertHeld s _ _
  · exact refl l s
  · exact refl l s

theorem group (s : State) (i : SlotIx) (r : Request) : RequestFrame l s (s.group i r).1 := by
  unfold State.group
  split
  · exact refl l s
  split
  · exact refl l s
  split
  · exact raise s _
  split
  · exact foldl _ (fun s el => of_table (.grantElement s i el) (.grantElement s i el)) _ s
  · exact raise s _

/-- A request kind whose work is within the frame. -/
theorem serveRequest {act : State → SlotIx → Request → State × Reply} {r : Request}
    (hact : ∀ u, RequestFrame l u (act u i r).1) (hi : lineOf i = l) :
    RequestFrame l s (State.serveRequest act s i r) := by
  unfold State.serveRequest
  split
  · exact commonChecks hi ‹_›
  · exact ((setLease s hi).trans (hact _)).trans (finish _ hi r _)

theorem requestStep {isKind : Byte → Bool} {serve : State → SlotIx → Request → State}
    (hserve : ∀ u i r, lineOf i = l → RequestFrame l u (serve u i r)) :
    RequestFrame l s (s.requestStep l isKind serve) := by
  unfold State.requestStep
  split
  · exact ite (fun _ => (takeFrame s l _).trans (hserve _ _ _ (lineOf_slotOf l _))) fun _ => refl l s
  · exact refl l s

end RequestFrame

/-- The request rows of one line. -/
inductive RequestRow (l : LineIx) : Instr → Prop
  | opens : RequestRow l (.reqOpen l)
  | closes : RequestRow l (.reqClose l)
  | renews : RequestRow l (.reqRenew l)
  | acquires : RequestRow l (.reqAcquire l)
  | releases : RequestRow l (.reqRelease l)
  | converts : RequestRow l (.reqConvert l)
  | cancels : RequestRow l (.reqCancel l)
  | queries : RequestRow l (.reqQuery l)
  | groups : RequestRow l (.reqGroup l)
  | others : RequestRow l (.reqUnknownKind l)

theorem RequestRow.requestCommand (kind : Byte) (l : LineIx) : RequestRow l (requestCommand kind l) := by
  unfold Machine.requestCommand
  split <;> constructor

/-- Every request row works within its line's frame. -/
theorem RequestRow.frame {l : LineIx} {c : Instr} (h : RequestRow l c) (s : State) :
    Answers (RequestFrame l s) (exec c s) := by
  cases h with
  | opens => exact .next (.requestStep fun u i r hi => .serveOpen u hi r)
  | closes => exact .next (.requestStep fun u i r hi => .serveClose u hi r)
  | renews =>
    exact .next (.requestStep fun u i r hi => .serveRequest
      (fun u => by rw [State.renew_state]; exact .refl l u) hi)
  | acquires => exact .next (.requestStep fun u i r hi => .serveRequest (fun u => .acquire u i r) hi)
  | releases => exact .next (.requestStep fun u i r hi => .serveRequest (fun u => .release u i r) hi)
  | converts => exact .next (.requestStep fun u i r hi => .serveRequest (fun u => .convert u i r) hi)
  | cancels => exact .next (.requestStep fun u i r hi => .serveRequest (fun u => .cancel u i r) hi)
  | queries =>
    exact .next (.requestStep fun u i r hi => .serveRequest
      (fun u => by rw [State.query_state]; exact .refl l u) hi)
  | groups => exact .next (.requestStep fun u i r hi => .serveRequest (fun u => .group u i r) hi)
  | others => exact .next (.requestStep fun u i r hi => .serveRequest (fun u => .refl l u) hi)

end Sys2Proof.Machine

open Sys2Proof Sys2Proof.Machine

/-- Settles O39, by the frame of every request row. -/
theorem requestsLeaveOtherLinesAlone : Obligations.RequestsLeaveOtherLinesAlone := by
  intro s t l kind h
  obtain ⟨u, hu, hframe⟩ := (RequestRow.requestCommand kind l).frame s
  cases hu.symm.trans h
  obtain ⟨h1, h2, h3, h4, h5, h6⟩ := hframe.own
  exact ⟨hframe.host, hframe.lines, h1, h2, h3, h4, h5, h6, hframe.rules, fun i hi =>
    hframe.sessions i fun hl => hi (by rw [← hl, slotOf_lineOf_stationOf])⟩
end

section
/-!
The books of the host's side: every command leaves the waiting commands, keeps the free claim count at the
length of the free list, and keeps a long command in progress exactly while the mailbox is BUSY and taken
(R20, R26, R164, R165, R168).
-/

namespace Sys2Proof.Machine

/-- A long command is in progress exactly while the mailbox is BUSY and taken (R164, R165). -/
def MailboxLaw (s : State) : Prop := s.longCommand ≠ none ↔ s.mailbox = .busy true

/-- The clear sweep is active exactly while service is CLEARING (R168). -/
def ClearSweepLaw (s : State) : Prop := s.service = .clearing ↔ s.clearSweep = true

theorem longCommandLaw_iff {s : State} : LongCommandLaw s ↔ MailboxLaw s ∧ ClearSweepLaw s := Iff.rfl

/-- From `s` to `t` the waiting commands are as before, and the free count and the clear sweep's law hold if
they did. -/
structure QueueStep (s t : State) : Prop where
  pending : t.pending = s.pending
  freeCount : FreeCountMatches s → FreeCountMatches t
  sweep : ClearSweepLaw s → ClearSweepLaw t

/-- ... and the mailbox, the long command, the service state and the clear sweep's mark are as before. -/
structure Quiet (s t : State) : Prop extends QueueStep s t where
  mailbox : t.mailbox = s.mailbox
  longCommand : t.longCommand = s.longCommand

/-- ... and the mailbox's law holds if it did. -/
structure BookStep (s t : State) : Prop extends QueueStep s t where
  mail : MailboxLaw s → MailboxLaw t

/-- The work of a command just taken, no long command being in progress: it completes, or it begins a long
command. -/
structure Ran (s t : State) : Prop extends QueueStep s t where
  mail : s.longCommand = none → s.mailbox = .busy true → MailboxLaw t

variable {s t u : State} {l : LineIx} {i : SlotIx}

theorem QueueStep.trans (h : QueueStep s t) (g : QueueStep t u) : QueueStep s u :=
  ⟨g.pending.trans h.pending, g.freeCount ∘ h.freeCount, g.sweep ∘ h.sweep⟩

/-- A step that leaves the fields of the two laws and the pool alone. -/
theorem QueueStep.of_fields (hp : t.pending = s.pending) (hf : t.freeList = s.freeList)
    (hn : t.freeClaimCount = s.freeClaimCount) (hs : t.service = s.service)
    (hc : t.clearSweep = s.clearSweep) : QueueStep s t :=
  ⟨hp, fun h => by rw [FreeCountMatches, hf, hn]; exact h, fun h => by rw [ClearSweepLaw, hs, hc]; exact h⟩

namespace Quiet

theorem trans (h : Quiet s t) (g : Quiet t u) : Quiet s u :=
  ⟨h.toQueueStep.trans g.toQueueStep, g.mailbox.trans h.mailbox, g.longCommand.trans h.longCommand⟩

theorem refl (s : State) : Quiet s s := ⟨⟨rfl, id, id⟩, rfl, rfl⟩

theorem book (h : Quiet s t) : BookStep s t :=
  ⟨h.toQueueStep, fun hm => by rw [MailboxLaw, h.mailbox, h.longCommand]; exact hm⟩

theorem ran (h : Quiet s t) (g : Ran t u) : Ran s u :=
  ⟨h.toQueueStep.trans g.toQueueStep, fun hl hm =>
    g.mail (h.longCommand.trans hl) (h.mailbox.trans hm)⟩

theorem ite {a b : State} {p : Prop} [Decidable p] (ha : p → Quiet s a) (hb : ¬ p → Quiet s b) :
    Quiet s (if p then a else b) := by
  split
  · exact ha ‹_›
  · exact hb ‹_›

theorem foldl {α : Type} (f : State → α → State) (hf : ∀ s a, Quiet s (f s a)) (as : List α)
    (s : State) : Quiet s (as.foldl f s) := by
  induction as generalizing s with
  | nil => exact refl s
  | cons a as ih => exact (hf s a).trans (ih _)

/-- A step outside the fields of the laws. -/
theorem of_fields (hp : t.pending = s.pending) (hf : t.freeList = s.freeList)
    (hn : t.freeClaimCount = s.freeClaimCount) (hs : t.service = s.service)
    (hc : t.clearSweep = s.clearSweep) (hm : t.mailbox = s.mailbox)
    (hl : t.longCommand = s.longCommand) : Quiet s t :=
  ⟨.of_fields hp hf hn hs hc, hm, hl⟩

/-- The host's side is as before. -/
theorem of_host (h : HostSideSame s t) (hf : FreeCountMatches s → FreeCountMatches t) : Quiet s t := by
  have hs : t.service = s.service := by rw [h]
  have hc : t.clearSweep = s.clearSweep := by rw [h]
  exact ⟨⟨by rw [h], hf, fun hl => by rw [ClearSweepLaw, hs, hc]; exact hl⟩, by rw [h], by rw [h]⟩

theorem of_table (h : TableStep s t) (hp : PoolStep s t) : Quiet s t := .of_host h.host hp.freeCount

theorem of_request (h : RequestFrame l s t) : Quiet s t := .of_host h.host h.freeCount

/-! ### Operations outside the mailbox -/

theorem updLine (s : State) (l : LineIx) (f : Line → Line) : Quiet s (s.updLine l f) :=
  of_fields rfl rfl rfl rfl rfl rfl rfl

theorem updSession (s : State) (i : SlotIx) (f : Session → Session) : Quiet s (s.updSession i f) :=
  of_fields rfl rfl rfl rfl rfl rfl rfl

theorem updNs (s : State) (n : NsIx) (f : Namespace → Namespace) : Quiet s (s.updNs n f) :=
  of_fields rfl rfl rfl rfl rfl rfl rfl

theorem raise (s : State) (k : DeviceCause) : Quiet s (s.raise k) :=
  of_fields rfl rfl rfl rfl rfl rfl rfl

theorem freeClaim (s : State) (c : ClaimIx) : Quiet s (s.freeClaim c) :=
  of_table (.freeClaim s c) (.freeClaim s c)

theorem grantPass (s : State) (e : EntryIx) : Quiet s (s.grantPass e) :=
  of_table (.grantPass s e) (.grantPass s e)

theorem retireEntry (s : State) (e : EntryIx) : Quiet s (s.retireEntry e) :=
  of_table (.retireEntry s e) (.retireEntry s e)

theorem revokeClaims (s : State) (cs : List ClaimIx) : Quiet s (s.revokeClaims cs) :=
  of_table (.revokeClaims s cs) (.revokeClaims s cs)

theorem enterEnding (s : State) (i : SlotIx) (cause : EndCause) : Quiet s (s.enterEnding i cause) :=
  of_fields rfl rfl rfl rfl rfl rfl rfl

/-- A claim's notice is let go, and the claim freed if it is DETACHED. -/
theorem forgetNotice (s : State) (c : ClaimIx) : Quiet s
    (if ((s.updClaim c (fun x => { x with notice := none })).claim c).state = .detached then
      (s.updClaim c (fun x => { x with notice := none })).freeClaim c
      else s.updClaim c (fun x => { x with notice := none })) := by
  have h : Quiet s (s.updClaim c (fun x => { x with notice := none })) :=
    of_fields rfl rfl rfl rfl rfl rfl rfl
  exact ite (fun _ => h.trans (freeClaim _ c)) fun _ => h

theorem discardItem (s : State) (it : NoticeItem) : Quiet s (s.discardItem it) := by
  cases it with
  | claim c => exact forgetNotice s c
  | sessionEnded i => exact ite (fun _ => updSession s i _) fun _ => refl s

theorem emptyNotices (s : State) (l : LineIx) : Quiet s (s.emptyNotices l) :=
  (updLine s l _).trans (foldl _ discardItem _ _)

theorem restartSession (s : State) (cause : EndCause) (suppress : Bool) (i : SlotIx) :
    Quiet s (s.restartSession cause suppress i) := by
  unfold State.restartSession
  split
  · exact (enterEnding s i cause).trans (updSession _ i _)
  · exact updSession s i _
  · exact refl s
  · exact refl s

theorem restartSessions (s : State) (l : LineIx) (cause : EndCause) (suppress : Bool) :
    Quiet s (s.restartSessions l cause suppress) :=
  foldl _ (fun s i => restartSession s cause suppress i) _ s

theorem restartStep (s : State) (l : LineIx) : Quiet s (s.restartStep l) :=
  ((emptyNotices s l).trans (restartSessions _ l .lineBreak false)).trans
    (updLine _ l (fun ln => { ln with restartStepPending := false, state := .active }))

theorem startNotice (s : State) (l : LineIx) (c : ClaimIx) (k : NoticeKind) :
    Quiet s (s.startNotice l c k) :=
  ((updSession s (s.claim c).session (fun x => { x with noticeCounter := x.noticeCounter + 1#8 })).trans
    (updLine _ l _)).trans (forgetNotice _ c)

theorem expireLease (s : State) (i : SlotIx) (n : Nat) : Quiet s (s.expireLease i n) :=
  ite (fun _ => of_fields rfl rfl rfl rfl rfl rfl rfl) fun _ => refl s

theorem clearUpgradeThenPass (s : State) (e : EntryIx) (c : ClaimIx) :
    Quiet s ((s.clearUpgrade e c).grantPass e) :=
  (of_table (.clearUpgrade s e c) (.clearUpgrade s e c)).trans (grantPass _ e)

theorem expireWait (s : State) (c : ClaimIx) (w : BitVec 16) (n : Nat) :
    Quiet s (s.expireWait c w n) := by
  have hcount : Quiet s s.countWaitExpiry := of_fields rfl rfl rfl rfl rfl rfl rfl
  refine ite (fun _ => ite (fun _ => ?_) fun _ => ?_) fun _ => refl s
  · exact hcount.trans ((of_table (.dropClaim _ c _) (.dropClaim _ c _)).trans (grantPass _ _))
  · have hclear : Quiet s (s.countWaitExpiry.clearUpgrade (s.claim c).entry c) :=
      hcount.trans (of_table (.clearUpgrade _ _ c) (.clearUpgrade _ _ c))
    exact (ite (fun _ => hclear.trans (of_table (.raiseNotice _ c _) (.raiseNotice _ c _)))
      fun _ => hclear).trans (grantPass _ _)

theorem takeBack (s : State) (c : ClaimIx) : Quiet s (s.takeBack c) := by
  unfold State.takeBack
  split
  · exact (freeClaim s c).trans (grantPass _ _)
  · exact (freeClaim s c).trans (grantPass _ _)
  · exact freeClaim s c
  · exact refl s

theorem endingStep (s : State) (i : SlotIx) (c : ClaimIx) : Quiet s (s.endingStep i c) :=
  ((updSession s i (fun x => { x with endingSweep := .running })).trans (takeBack _ c)).trans
    (foldl _ (fun s d => clearUpgradeThenPass s _ d) _ _)

theorem settleClose (s : State) (i : SlotIx) : Quiet s (s.settleClose i) :=
  ite (fun _ => of_fields rfl rfl rfl rfl rfl rfl rfl) fun _ => refl s

theorem leaveEnding (s : State) (i : SlotIx) : Quiet s (s.leaveEnding i) := by
  have hoff := updSession s i (fun x => { x with endingSweep := .inactive })
  refine hoff.trans (ite (fun _ => ?_) fun _ => ite (fun _ => ?_) fun _ => ?_)
  · exact (settleClose _ i).trans (updSession _ i _)
  · exact (updSession _ i _).trans (updLine _ _ _)
  · exact updSession _ i _

theorem revokeStep (s : State) (n : NsIx) (e : EntryIx) : Quiet s (s.revokeStep n e) :=
  (((revokeClaims s (s.entry e).holders).trans (revokeClaims _ (s.entry e).waiters)).trans
    (retireEntry _ e)).trans (updNs _ n (fun x =>
      { x with scanIndex := e.val + 1, sweepEntries := x.sweepEntries + 1,
               sweepClaims := x.sweepClaims + (s.entry e).holders.length + (s.entry e).waiters.length }))

theorem clearClaim (s : State) (c : ClaimIx) : Quiet s (s.clearClaim c) := by
  unfold State.clearClaim
  dsimp only
  split
  · exact refl s
  · exact freeClaim s c
  · exact ite (fun _ => ((freeClaim s c).trans (foldl _ freeClaim _ _)).trans (retireEntry _ _))
      fun _ => freeClaim s c
  · exact ite (fun _ => (freeClaim s c).trans (retireEntry _ _)) fun _ => freeClaim s c

theorem clearSession (s : State) (i : SlotIx) : Quiet s (s.clearSession i) := by
  have hcause : Quiet s (s.updSession i (fun x =>
      { x with endCause := if x.state = .opened then .serviceClear else x.endCause })) :=
    updSession s i _
  have hlease : ∀ v : State, Quiet v (v.dropLease i) := fun v => of_fields rfl rfl rfl rfl rfl rfl rfl
  unfold State.clearSession
  generalize s.updSession i (fun x =>
    { x with endCause := if x.state = .opened then .serviceClear else x.endCause }) = v at hcause ⊢
  have hclaims := hcause.trans (foldl _ clearClaim (v.session i).claimList v)
  exact (((hclaims.trans (hlease _)).trans (settleClose _ i)).trans (updLine _ _ _)).trans
    (updSession _ i _)

theorem clearStep (s : State) (i : SlotIx) : Quiet s (s.clearStep i) :=
  (clearSession s i).trans (of_fields rfl rfl rfl rfl rfl rfl rfl)

end Quiet

/-! ### Completions -/

theorem MailboxLaw.complete (s : State) (r : ResultCode) (bs : List Byte) :
    MailboxLaw (s.complete r bs) := ⟨fun h => absurd rfl h, fun h => by cases h⟩

theorem QueueStep.complete (s : State) (r : ResultCode) (bs : List Byte) :
    QueueStep s (s.complete r bs) := .of_fields rfl rfl rfl rfl rfl

theorem Ran.complete (s : State) (r : ResultCode) (bs : List Byte) : Ran s (s.complete r bs) :=
  ⟨.complete s r bs, fun _ _ => .complete s r bs⟩

theorem BookStep.complete (s : State) (r : ResultCode) (bs : List Byte) :
    BookStep s (s.complete r bs) := ⟨.complete s r bs, fun _ => .complete s r bs⟩

theorem BookStep.trans (h : BookStep s t) (g : BookStep t u) : BookStep s u :=
  ⟨h.toQueueStep.trans g.toQueueStep, g.mail ∘ h.mail⟩

theorem Ran.book (h : Ran s t) (g : BookStep t u) : Ran s u :=
  ⟨h.toQueueStep.trans g.toQueueStep, fun hl hm => g.mail (h.mail hl hm)⟩

/-- A command that does not complete becomes the long command. -/
theorem Ran.begin (s : State) (c : LongCommand) : Ran s { s with longCommand := some c } :=
  ⟨.of_fields rfl rfl rfl rfl rfl, fun _ hm => ⟨fun _ => hm, fun _ => by simp⟩⟩

/-- A service state other than CLEARING gives way to another one. -/
theorem Ran.setService {v : ServiceState} (hs : s.service ≠ .clearing) (hv : v ≠ .clearing)
    (r : ResultCode) (bs : List Byte) : Ran s ({ s with service := v }.complete r bs) := by
  refine ⟨⟨rfl, id, fun h => ?_⟩, fun _ _ => .complete _ r bs⟩
  exact ⟨fun hc => absurd hc hv, fun hc => absurd (h.2 hc) hs⟩

theorem BookStep.completeRestart (s : State) (l : LineIx) : BookStep s (s.completeRestart l) := by
  unfold State.completeRestart
  split
  · exact (Quiet.updLine s l _).book.trans (.complete _ _ _)
  · exact (Quiet.refl s).book

theorem BookStep.completeEvict (s : State) (i : SlotIx) : BookStep s (s.completeEvict i) := by
  unfold State.completeEvict
  split
  · exact .complete _ _ _
  · exact (Quiet.refl s).book

theorem BookStep.endingFinal (s : State) (i : SlotIx) : BookStep s (s.endingFinal i) :=
  ((Quiet.leaveEnding s i).book.trans (.completeEvict _ i)).trans (.completeRestart _ _)

theorem BookStep.revokeFinal (s : State) (n : NsIx) : BookStep s (s.revokeFinal n) :=
  (Quiet.updNs s n _).book.trans (.complete _ _ _)

theorem BookStep.clearFinal (s : State) : BookStep s s.clearFinal :=
  ⟨⟨rfl, id, fun _ => ⟨fun h => (by cases h), fun h => (by cases h)⟩⟩, fun _ => .complete _ _ _⟩

/-! ### The work of the commands -/

namespace Ran

theorem setTokenBase (s : State) : Ran s s.setTokenBase := by
  have hload : Quiet s (s.loadTokenBase (s.param 0 6)) :=
    .ite (fun _ => .of_fields rfl rfl rfl rfl rfl rfl rfl) fun _ => .of_fields rfl rfl rfl rfl rfl rfl rfl
  unfold State.setTokenBase
  dsimp only
  split
  · exact hload.ran (.complete _ _ _)
  · exact .complete _ _ _

theorem startService (s : State) : Ran s s.startService := by
  unfold State.startService
  split
  · split
    · exact .setService (by simp [*]) (by simp) _ _
    · exact .complete _ _ _
  · exact .complete _ _ _
  · exact .setService (by simp [*]) (by simp) _ _
  · exact .complete _ _ _

theorem suspendService (s : State) : Ran s s.suspendService := by
  unfold State.suspendService
  split
  · exact .complete _ _ _
  · exact .setService (by simp [*]) (by simp) _ _
  · exact .complete _ _ _
  · exact .complete _ _ _

theorem clearService (s : State) : Ran s s.clearService := by
  unfold State.clearService
  split
  · exact ⟨⟨rfl, id, fun _ => ⟨fun _ => rfl, fun _ => rfl⟩⟩, fun _ hm => ⟨fun _ => hm, fun _ => by simp⟩⟩
  · exact .complete _ _ _
  · exact .complete _ _ _
  · exact .complete _ _ _

theorem nsCommand {run : State → NsIx → State} (hrun : ∀ n, Ran s (run s n)) :
    Ran s (s.nsCommand run) := by
  unfold State.nsCommand
  split
  · exact .complete _ _ _
  · exact hrun _

theorem slotCommand {run : State → SlotIx → State} (hrun : ∀ i, Ran s (run s i)) :
    Ran s (s.slotCommand run) := by
  unfold State.slotCommand
  split
  · exact .complete _ _ _
  · exact hrun _

theorem lineCommand {run : State → LineIx → State} (hrun : ∀ l, Ran s (run s l)) :
    Ran s (s.lineCommand run) := by
  unfold State.lineCommand
  split
  · exact .complete _ _ _
  · exact hrun _

theorem defineNs (s : State) (n : NsIx) : Ran s (s.defineNs n) := by
  unfold State.defineNs
  split
  · exact .complete _ _ _
  split
  · exact (Quiet.updNs s n _).ran (.complete _ _ _)
  · exact .complete _ _ _

theorem changeNs (s : State) (n : NsIx) : Ran s (s.changeNs n) := by
  unfold State.changeNs
  split
  · exact .complete _ _ _
  split
  · split
    · exact (Quiet.updNs s n _).ran (.complete _ _ _)
    · exact .complete _ _ _
  · exact .complete _ _ _

theorem disableNs (s : State) (n : NsIx) : Ran s (s.disableNs n) := by
  unfold State.disableNs
  split
  · exact .complete _ _ _
  · split <;> exact .complete _ _ _
  split
  · have hdrain : ∀ v : State, Quiet v (v.completeDrain n) := fun v =>
      .ite (fun _ => (Quiet.updNs v n _).trans (.raise _ _)) fun _ => .refl v
    exact ((Quiet.updNs s n (fun x => { x with state := .draining })).trans (hdrain _)).ran
      (.complete _ _ _)
  split
  · exact (Quiet.updNs s n _).ran (.begin _ _)
  · exact .complete _ _ _

theorem evict (s : State) (i : SlotIx) : Ran s (s.evict i) := by
  unfold State.evict
  split
  · exact .complete _ _ _
  · exact .complete _ _ _
  · exact .complete _ _ _
  · exact (Quiet.enterEnding s i _).ran (.begin _ _)

theorem revokeLock (s : State) : Ran s s.revokeLock := by
  unfold State.revokeLock
  split
  · exact .complete _ _ _
  split
  · split
    · exact .complete _ _ _
    · exact ((Quiet.revokeClaims s _).trans (.grantPass _ _)).ran (.complete _ _ _)
  split
  · split
    · exact .complete _ _ _
    · exact (((Quiet.revokeClaims s _).trans (.revokeClaims _ _)).trans (.retireEntry _ _)).ran
        (.complete _ _ _)
  · exact .complete _ _ _

theorem inspectLock (s : State) : Ran s s.inspectLock := by
  unfold State.inspectLock
  split
  · exact .complete _ _ _
  split
  · split <;> exact .complete _ _ _
  · exact .complete _ _ _

theorem configureLine (s : State) (l : LineIx) : Ran s (s.configureLine l) := by
  unfold State.configureLine
  split
  · exact .complete _ _ _
  split
  · exact (Quiet.updLine s l _).ran (.complete _ _ _)
  · exact .complete _ _ _

theorem enableLine (s : State) (l : LineIx) : Ran s (s.enableLine l) := by
  unfold State.enableLine
  split
  · exact (Quiet.updLine s l _).ran (.complete _ _ _)
  · exact .complete _ _ _
  · exact .complete _ _ _

theorem beginRestart (s : State) (l : LineIx) (fin : RestartEnd) : Ran s (s.beginRestart l fin) :=
  ((((Quiet.updLine s l Line.stopped).trans (.emptyNotices _ l)).trans (.restartSessions _ l _ _)).trans
    (.updLine _ l _)).ran ((Ran.begin _ _).book (.completeRestart _ l))

theorem restartLine (s : State) (l : LineIx) : Ran s (s.restartLine l) := by
  unfold State.restartLine
  split
  · exact beginRestart s l _
  · exact .complete _ _ _
  · exact .complete _ _ _

theorem disableLine (s : State) (l : LineIx) : Ran s (s.disableLine l) := by
  unfold State.disableLine
  split
  · exact beginRestart s l _
  · exact .complete _ _ _
  · exact .complete _ _ _

theorem setLeaseBounds (s : State) : Ran s s.setLeaseBounds := by
  have hset : Quiet s { s with leaseMin := s.param 0 2, leaseMax := s.param 2 2 } :=
    .of_fields rfl rfl rfl rfl rfl rfl rfl
  unfold State.setLeaseBounds
  dsimp only
  split
  · exact hset.ran (.complete _ _ _)
  · exact .complete _ _ _

theorem setPoolThreshold (s : State) : Ran s s.setPoolThreshold := by
  have hset : Quiet s { s with poolThreshold := s.param 0 2 } := .of_fields rfl rfl rfl rfl rfl rfl rfl
  unfold State.setPoolThreshold
  dsimp only
  split
  · exact (hset.trans (.ite (fun _ => .raise _ _) fun _ => .refl _)).ran (.complete _ _ _)
  · exact .complete _ _ _

theorem readCounters (s : State) : Ran s s.readCounters := by
  have hset : Quiet s { s with counters := DeviceCounters.reset } :=
    .of_fields rfl rfl rfl rfl rfl rfl rfl
  unfold State.readCounters
  split
  · exact (Quiet.updLine s _ _).ran (.complete _ _ _)
  split
  · exact hset.ran (.complete _ _ _)
  · exact .complete _ _ _

end Ran

/-! ### The host's writes (R164) -/

namespace BookStep

theorem writeCommandCode (s : State) (data : Byte) : BookStep s (s.writeCommandCode data) := by
  unfold State.writeCommandCode
  split
  · rename_i hm
    split
    · exact (Quiet.raise s _).book
    · refine ⟨.of_fields rfl rfl rfl rfl rfl, fun h => ⟨fun hl => ?_, fun hb => by cases hb⟩⟩
      have := h.1 hl
      rw [hm] at this; cases this
  · exact (Quiet.raise s _).book
  · rename_i hm
    split
    · refine ⟨.of_fields rfl rfl rfl rfl rfl, fun h => ⟨fun hl => ?_, fun hb => by cases hb⟩⟩
      have := h.1 hl
      rw [hm] at this; cases this
    · exact (Quiet.raise s _).book

theorem writeWindow (s : State) (a : Nat) (data : Byte) : BookStep s (s.writeWindow a data) := by
  unfold State.writeWindow
  split
  · exact writeCommandCode s data
  split
  · exact Quiet.book (.of_fields rfl rfl rfl rfl rfl rfl rfl)
  split
  · exact Quiet.book (.of_fields rfl rfl rfl rfl rfl rfl rfl)
  split
  · exact Quiet.book (.updLine s _ _)
  split
  · exact Quiet.book (.of_fields rfl rfl rfl rfl rfl rfl rfl)
  · exact Quiet.book (.refl s)

theorem spiByte {p : SpiPlace} {a : Nat} {write : State → State} (hw : BookStep s (write s)) :
    BookStep s (s.spiByte p a write) := by
  unfold State.spiByte
  split
  · exact hw.trans (Quiet.book (.of_fields rfl rfl rfl rfl rfl rfl rfl))
  · exact Quiet.book (.refl s)

/-! ### The dispatch -/

/-- A command is taken only while no long command is in progress, so its work may begin one. -/
theorem commandStep {mine : Nat → Bool} {run : State → State} (hrun : ∀ v, Ran v (run v)) :
    BookStep s (s.commandStep mine run) := by
  unfold State.commandStep
  split
  · rename_i code hcode
    have hchoice : s.arbiterChoice = some srcManagement := by
      by_contra hne; rw [State.offeredCode, if_neg hne] at hcode; cases hcode
    have htaken : QueueStep s s.takeCommand := .of_fields rfl rfl rfl rfl rfl
    split
    · refine ⟨htaken.trans (hrun _).toQueueStep, fun h => (hrun _).mail ?_ rfl⟩
      by_contra hl
      have := h.1 hl
      rw [State.mailbox_of_taken hchoice] at this; cases this
    · exact Quiet.book (.refl s)
  · exact Quiet.book (.refl s)

theorem deviceReset (s : State) : BookStep s { State.reset with pending := s.pending } :=
  ⟨⟨rfl, fun _ => (indicesFrom_length 4096 4096 0 (by omega)).symm,
      fun _ => ⟨fun h => (by cases h), fun h => (by cases h)⟩⟩,
    fun _ => ⟨fun h => absurd rfl h, fun h => by cases h⟩⟩

/-- Every command keeps the books. -/
theorem exec (s : State) (c : Instr) : Answers (BookStep s) (Machine.exec c s) := by
  have same : BookStep s s := Quiet.book (.refl s)
  have line : ∀ {l c}, LineAction l c → Answers (BookStep s) (Machine.exec c s) := fun ha =>
    let ⟨t, ht, f, _, hf⟩ := ha.touches s
    ⟨t, ht, by rw [hf]; exact Quiet.book (.updLine s _ f)⟩
  have request : ∀ {l c}, RequestRow l c → Answers (BookStep s) (Machine.exec c s) := fun hr =>
    let ⟨t, ht, hf⟩ := hr.frame s
    ⟨t, ht, (Quiet.of_request hf).book⟩
  have arbiter : ∀ p, Quiet s (s.served p) := fun p => .of_fields rfl rfl rfl rfl rfl rfl rfl
  have source : ∀ p, Quiet s (s.servedSweep p) := fun p => .of_fields rfl rfl rfl rfl rfl rfl rfl
  have expiry : Quiet s s.takeExpiry := .of_fields rfl rfl rfl rfl rfl rfl rfl
  cases c with
  | reqOpen l => exact request (l := l) .opens
  | reqClose l => exact request (l := l) .closes
  | reqRenew l => exact request (l := l) .renews
  | reqAcquire l => exact request (l := l) .acquires
  | reqRelease l => exact request (l := l) .releases
  | reqConvert l => exact request (l := l) .converts
  | reqCancel l => exact request (l := l) .cancels
  | reqQuery l => exact request (l := l) .queries
  | reqGroup l => exact request (l := l) .groups
  | reqUnknownKind l => exact request (l := l) .others
  | setTokenBase => exact .next (commandStep Ran.setTokenBase)
  | startService => exact .next (commandStep Ran.startService)
  | suspendService => exact .next (commandStep Ran.suspendService)
  | clearService => exact .next (commandStep Ran.clearService)
  | defineNamespace => exact .next (commandStep fun v => .nsCommand (.defineNs v))
  | changeNamespace => exact .next (commandStep fun v => .nsCommand (.changeNs v))
  | disableNamespaceDrain => exact .next (commandStep fun v => .nsCommand (.disableNs v))
  | disableNamespaceRevoke => exact .next (commandStep fun v => .nsCommand (.disableNs v))
  | evictSession => exact .next (commandStep fun v => .slotCommand (.evict v))
  | inspectSession => exact .next (commandStep fun v => .slotCommand fun _ => .complete v _ _)
  | revokeLockHolders => exact .next (commandStep Ran.revokeLock)
  | revokeLockAll => exact .next (commandStep Ran.revokeLock)
  | inspectLock => exact .next (commandStep Ran.inspectLock)
  | lineConfig => exact .next (commandStep fun v => .lineCommand (.configureLine v))
  | lineEnable => exact .next (commandStep fun v => .lineCommand (.enableLine v))
  | lineDisable => exact .next (commandStep fun v => .lineCommand (.disableLine v))
  | lineRestart => exact .next (commandStep fun v => .lineCommand (.restartLine v))
  | setLeaseBounds => exact .next (commandStep Ran.setLeaseBounds)
  | setPoolThreshold => exact .next (commandStep Ran.setPoolThreshold)
  | readCounters => exact .next (commandStep Ran.readCounters)
  | unknownCommand => exact .next (commandStep fun v => .complete v _ _)
  | mailboxAck p => exact .next (spiByte (writeCommandCode s _))
  | registerWrite addr data p => exact .next (spiByte (writeWindow s _ data))
  | causeClear target data p =>
    cases target with
    | device => exact .next (spiByte (Quiet.book (.of_fields rfl rfl rfl rfl rfl rfl rfl)))
    | line l => exact .next (spiByte (Quiet.book (.updLine s l _)))
  | maskWrite target data p =>
    cases target with
    | device => exact .next (spiByte (Quiet.book (.of_fields rfl rfl rfl rfl rfl rfl rfl)))
    | line l => exact .next (spiByte (Quiet.book (.updLine s l _)))
  | frameReceived l ch => exact line (.frame l ch)
  | lengthByte l ch => exact line (.length l ch)
  | gapLimitExpiry l idle => exact line (.gap l idle)
  | breakDetected l low => exact line (.brk l low)
  | requestSyncByte l ch => exact line (.hunt l ch)
  | bodyCharacter l ch => exact line (.body l ch)
  | replyFrameStart l idle => exact line (.reply l idle)
  | frameTransmissionEnd l => exact line (.sent l)
  | breakEnd l high => exact line (.brkEnd l high)
  | restartStep l => exact .ite (fun _ => ((arbiter _).trans (.restartStep _ l)).book) same
  | noticeFrameStart l idle =>
    change Answers _ (execNoticeFrameStart l idle s)
    unfold execNoticeFrameStart
    split
    · split
      · exact .next (Quiet.book (.startNotice s l _ _))
      · exact .next same
    · exact .next same
    · exact .next same
  | sessionEndedFrameStart l idle =>
    change Answers _ (execSessionEndedFrameStart l idle s)
    unfold execSessionEndedFrameStart
    split
    · exact .next (Quiet.book (.of_fields rfl rfl rfl rfl rfl rfl rfl))
    · exact .next same
    · exact .next same
  | timeCounterAdvance => exact .next (Quiet.book (.of_fields rfl rfl rfl rfl rfl rfl rfl))
  | posting =>
    change Answers _ (execPosting s)
    unfold execPosting
    split
    · exact .ite (fun _ => Quiet.book (.of_fields rfl rfl rfl rfl rfl rfl rfl)) same
    · exact .next same
  | leaseExpiry =>
    change Answers _ (execLeaseExpiry s)
    unfold execLeaseExpiry
    split
    · exact .next (expiry.trans (.expireLease _ _ _)).book
    · exact .next same
    · exact .next same
  | waitExpiry =>
    change Answers _ (execWaitExpiry s)
    unfold execWaitExpiry
    split
    · exact .next (expiry.trans (.expireWait _ _ _ _)).book
    · exact .next same
    · exact .next same
  | endingSweepStep i =>
    refine .ite (fun _ => ?_) same
    split
    · exact ((source _).trans (.endingStep _ _ _)).book
    · exact same
  | endingSweepFinalStep i => exact .ite (fun _ => (source _).book.trans (.endingFinal _ i)) same
  | revokeSweepStep n =>
    refine .ite (fun _ => ?_) same
    split
    · exact ((source _).trans (.revokeStep _ _ _)).book
    · exact same
  | revokeSweepFinalStep n => exact .ite (fun _ => (source _).book.trans (.revokeFinal _ n)) same
  | clearStep =>
    refine .ite (fun _ => ?_) same
    split
    · exact ((source _).trans (.clearStep _ _)).book
    · exact same
  | clearSweepFinalStep => exact .ite (fun _ => (source _).book.trans (.clearFinal _)) same
  | deviceReset => exact .next (deviceReset s)

end BookStep

/-- What every command keeps, and a changed queue of waiting commands does not touch, every step keeps. -/
theorem step_keeps {P : State → Prop} (hq : ∀ (s : State) cs, P s → P { s with pending := cs })
    (hexec : ∀ s c, P s → Answers P (exec c s)) {s t : State} (h : P s) (hstep : step s = .next t) :
    P t := by
  unfold step at hstep
  split at hstep
  · cases hstep; exact h
  · obtain ⟨v, hv, hp⟩ := hexec _ _ (hq s _ h)
    cases hv.symm.trans hstep
    exact hp

end Sys2Proof.Machine

open Sys2Proof Sys2Proof.Machine

/-- Settles O2, by the books every command keeps. -/
theorem everyCommandGoesOnAndLeavesTheQueue : Obligations.EveryCommandGoesOnAndLeavesTheQueue := by
  intro c s
  obtain ⟨t, ht, hb⟩ := BookStep.exec s c
  exact ⟨t, ht, hb.pending⟩

/-- Settles O60: the books are kept by `BookStep.exec`, the laws of the lock table by `LawsBut.exec`. -/
theorem everyStepKeepsTheBookkeeping : Obligations.EveryStepKeepsTheBookkeeping := by
  refine ⟨fun s t => step_keeps (fun _ _ h => h) fun s c h => ?_,
    fun s t => step_keeps (fun _ _ h => h) fun s c h => ?_,
    fun s t h hs => lawsBut_none_iff.1 (step_keeps (P := LawsBut none)
      (fun s cs h => h.of_same (.setPending s cs)) (fun s c h => h.exec c) (lawsBut_none_iff.2 h) hs)⟩
  · obtain ⟨v, hv, hb⟩ := BookStep.exec s c
    exact ⟨v, hv, hb.freeCount h⟩
  · obtain ⟨v, hv, hb⟩ := BookStep.exec s c
    exact ⟨v, hv, hb.mail h.1, hb.sweep h.2⟩
end

section
/-!
Requests that change no lock: the refusals of an ACQUIRE, check by check (R32 to R35), and QUERY (R139).
-/

namespace Sys2Proof.Machine

variable {s : State} {i : SlotIx} {r : Request} {f : AcquireFields}

/-! ### The work of an ACQUIRE, by its checks (R32) -/

theorem State.acquire_of_bad_payload (h : acquirePayload r.payload = none) :
    s.acquire i r = s.refuse .badRequest := by
  unfold State.acquire; rw [h]

theorem State.acquire_of_takingRefusal {st : Status} (hp : acquirePayload r.payload = some f)
    (ht : s.takingRefusal i f.key f.mode = some st) : s.acquire i r = s.refuse st := by
  unfold State.acquire
  rw [hp]
  simp only [ht]

theorem State.acquire_of_absent (hp : acquirePayload r.payload = some f)
    (ht : s.takingRefusal i f.key f.mode = none) (hl : s.lookup f.key = none) :
    s.acquire i r = s.acquireAbsent i f := by
  unfold State.acquire
  rw [hp]
  simp only [ht, hl]

theorem State.acquire_of_present {e : EntryIx} (hp : acquirePayload r.payload = some f)
    (ht : s.takingRefusal i f.key f.mode = none) (hl : s.lookup f.key = some e) :
    s.acquire i r = if s.ownClaim e i = .none then
      if s.grantableNow e f.mode then s.acquireJoin i f e else s.acquireQueue i f e
      else s.refuse .alreadyClaimed := by
  unfold State.acquire
  rw [hp]
  simp only [ht, hl]

theorem State.acquireAbsent_of_refused {st : Status} (h : s.creationRefusal f.key = some st) :
    s.acquireAbsent i f = s.refusePressed st := by
  unfold State.acquireAbsent; rw [h]

theorem State.acquireAbsent_of_exhausted (h : s.creationRefusal f.key = none)
    (ht : s.canIssue = false) : s.acquireAbsent i f = s.refuseExhausted := by
  unfold State.acquireAbsent; rw [h]; simp only [ht]; rfl

theorem State.acquireJoin_of_empty_pool {e : EntryIx} (h : s.freeList = []) :
    s.acquireJoin i f e = s.refusePressed .poolEmpty := by
  unfold State.acquireJoin; rw [h]

theorem State.acquireJoin_of_exhausted {e : EntryIx} (h : s.freeList ≠ []) (ht : s.canIssue = false) :
    s.acquireJoin i f e = s.refuseExhausted := by
  unfold State.acquireJoin
  split
  · contradiction
  · simp only [ht]; rfl

theorem State.acquireQueue_of_no_wait {e : EntryIx} (h : f.wait = 0) :
    s.acquireQueue i f e = s.refuse .notAvailable := if_pos h

theorem State.acquireQueue_of_full {e : EntryIx} (h : f.wait ≠ 0)
    (hq : (s.ns f.key.ns).rules.queueLimit ≤ (s.entry e).waiters.length) :
    s.acquireQueue i f e = s.refuse .queueFull := (if_neg h).trans (if_pos hq)

theorem State.acquireQueue_of_empty_pool {e : EntryIx} (h : f.wait ≠ 0)
    (hq : (s.entry e).waiters.length < (s.ns f.key.ns).rules.queueLimit) (hf : s.freeList = []) :
    s.acquireQueue i f e = s.refusePressed .poolEmpty := by
  refine (if_neg h).trans ((if_neg (by omega)).trans ?_)
  rw [hf]

theorem State.creationRefusal_of_quota {k : Key} (h : (s.ns k.ns).rules.quota ≤ (s.ns k.ns).occupied) :
    s.creationRefusal k = some .quotaFull := if_pos h

theorem State.creationRefusal_of_no_room {k : Key} (h : (s.ns k.ns).occupied < (s.ns k.ns).rules.quota)
    (hr : 8 ≤ (s.chain (bucketOf k)).length ∨ s.lowestFreeEntry = none) :
    s.creationRefusal k = some .tableFull := by
  refine (if_neg (by omega)).trans ?_
  by_cases hc : 8 ≤ (s.chain (bucketOf k)).length
  · exact if_pos hc
  · exact (if_neg hc).trans (if_pos (hr.resolve_left hc))

/-- With quota, chain room and a free entry, a record decides. -/
theorem State.creationRefusal_of_room {k : Key} (h : (s.ns k.ns).occupied < (s.ns k.ns).rules.quota)
    (hc : (s.chain (bucketOf k)).length < 8) (he : s.lowestFreeEntry ≠ none) :
    s.creationRefusal k = if s.freeList = [] then some .poolEmpty else none :=
  (if_neg (by omega)).trans ((if_neg (Nat.not_le_of_lt hc)).trans (if_neg he))

theorem State.takingRefusal_of_state {k : Key} {m : Mode} (h : (s.ns k.ns).state ≠ .enabled) :
    s.takingRefusal i k m = some .nsDisabled := if_pos h

theorem State.takingRefusal_of_bracket {k : Key} {m : Mode} (h : (s.ns k.ns).state = .enabled)
    (hl : (match m with
      | .shared => (s.ns k.ns).rules.sharedLimit
      | .exclusive => (s.ns k.ns).rules.exclusiveLimit) < (s.session i).ring) :
    s.takingRefusal i k m = some .accessDenied := by
  refine (if_neg (not_not_intro h)).trans (if_pos ?_)
  cases m <;> exact hl

theorem State.canIssue_false (h : 281474976710655 < s.tokenCounter + 1) : s.canIssue = false := by
  simpa [State.canIssue] using h

/-! ### Refusals as state and reply -/

/-- The state after a refusal: it has raised some causes, or none. -/
def State.withCauses (s : State) (causes : BitVec 7) : State :=
  { s with deviceCauses := s.deviceCauses ||| causes }

theorem State.refuse_eq (st : Status) : s.refuse st = (s.withCauses 0#7, ⟨st, []⟩) := by
  have h : s.withCauses 0#7 = s := by
    show { s with deviceCauses := s.deviceCauses ||| 0#7 } = s
    rw [BitVec.or_zero]
  rw [h]; rfl

theorem State.refusePressed_eq (st : Status) :
    s.refusePressed st = (s.withCauses 0x10#7, ⟨st, []⟩) := rfl

theorem State.refuseExhausted_eq :
    s.refuseExhausted = (s.withCauses 0x40#7, ⟨.tokensExhausted, []⟩) := rfl

/-- An admitted ACQUIRE whose work refuses it is answered so. -/
theorem acquire_answers_refusal {l : LineIx} {st : Status} {causes : BitVec 7}
    (h : RequestAdmitted s l r) (hk : r.kind = 0x04#8)
    (hw : ((s.takeFrame l r).setLease (slotOf l r.station)).acquire (slotOf l r.station) r =
      (((s.takeFrame l r).setLease (slotOf l r.station)).withCauses causes, ⟨st, []⟩)) :
    ∃ u t, exec (.reqAcquire l) s = .next t ∧ RequestBegun s u l r ∧
      RequestAnswered s { u with deviceCauses := s.deviceCauses ||| causes } t l r ⟨st, []⟩ := by
  refine ⟨_, _, congrArg Host.Outcome.next (State.requestStep_admitted h _ (by rw [hk]; rfl) _),
    State.begun_spec s l r, ?_⟩
  have hreplies := State.begun_replies s l r
  have hcauses : ((s.takeFrame l r).setLease (slotOf l r.station)).deviceCauses = s.deviceCauses := by
    simp
  dsimp only
  rw [hw]
  generalize (s.takeFrame l r).setLease (slotOf l r.station) = u at hcauses hreplies
  rw [← hcauses]
  exact State.finish_spec (v := u.withCauses causes) hreplies _

/-! ### QUERY (R139) -/

theorem State.query_of_bad_payload (h : keyPayload r.payload = none) :
    s.query i r = s.refuse .badRequest := by
  unfold State.query; rw [h]

theorem State.query_of_key {k : Key} (h : keyPayload r.payload = some k) : s.query i r =
    if (s.ns k.ns).state = .disabled then s.refuse .nsDisabled
    else if (s.ns k.ns).rules.queryLimit < (s.session i).ring then s.refuse .accessDenied
    else (s, ⟨.ok, s.queryPayload i k⟩) := by
  unfold State.query; rw [h]

theorem State.queryPayload_absent {k : Key} (h : s.lookup k = none) :
    s.queryPayload i k = [0, 0, 0, 0, 0, 0, 0, 0, 0, 0, 0] := by
  unfold State.queryPayload; rw [h]; rfl

theorem State.queryPayload_present {k : Key} {e : EntryIx} (h : s.lookup k = some e) :
    s.queryPayload i k =
      [modeCode (s.entry e).mode, byteOf (s.entry e).holders.length, byteOf (s.entry e).waiters.length,
        if (s.entry e).upgrade = none then 0#8 else 1#8] ++ beBytes 6 (s.entry e).latestToken ++
        [ownClaimCode (s.ownClaim e i)] := by
  unfold State.queryPayload
  rw [h]
  cases hu : (s.entry e).upgrade <;> simp [hu, flagByte]

/-- A QUERY reads of a request that has begun what it would have read before. -/
theorem State.begun_queryPayload (s : State) (l : LineIx) (r : Request) (j i : SlotIx) (k : Key) :
    ((s.takeFrame l r).setLease j).queryPayload i k = s.queryPayload i k := by
  obtain ⟨hlookup, hown, -⟩ := State.begun_searches s l r j
  unfold State.queryPayload
  rw [hlookup]
  cases s.lookup k with
  | none => rfl
  | some e => simp [hown]

theorem State.begun_ring (s : State) (l : LineIx) (r : Request) (j i : SlotIx) :
    (((s.takeFrame l r).setLease j).session i).ring = (s.session i).ring := by
  rw [State.setLease_session]
  split
  · rename_i h; subst h; simp
  · simp

/-- An admitted QUERY is answered with what its work replies. -/
theorem query_answers {l : LineIx} {reply : Reply} (h : RequestAdmitted s l r) (hk : r.kind = 0x08#8)
    (hw : (((s.takeFrame l r).setLease (slotOf l r.station)).query (slotOf l r.station) r).2 = reply) :
    ∃ u t, exec (.reqQuery l) s = .next t ∧ RequestBegun s u l r ∧ RequestAnswered s u t l r reply := by
  refine ⟨_, _, congrArg Host.Outcome.next (State.requestStep_admitted h _ (by rw [hk]; rfl) _),
    State.begun_spec s l r, ?_⟩
  dsimp only
  rw [State.query_state, hw]
  exact State.finish_spec (State.begun_replies s l r) _

end Sys2Proof.Machine

open Sys2Proof Sys2Proof.Machine

/-- Settles O33: each check's failure is one equation of the ACQUIRE's work, read on the state in which the
request has begun. -/
theorem refusedAcquireChangesNoLock : Obligations.RefusedAcquireChangesNoLock := by
  intro s l r i h hk refused
  obtain ⟨hlookup, hown, -, hfree, -, hissue, hnow, hcreate, htake, -⟩ := State.begun_searches s l r i
  have hpool : ((s.takeFrame l r).setLease i).freeList = s.freeList := by simp
  have work : ∀ {st causes}, ((s.takeFrame l r).setLease i).acquire i r =
      (((s.takeFrame l r).setLease i).withCauses causes, ⟨st, []⟩) → refused st causes :=
    acquire_answers_refusal h hk
  refine ⟨fun hp => work ((State.acquire_of_bad_payload hp).trans (State.refuse_eq _)),
    fun f hp => ⟨fun hs => ?_, fun hs hl => ?_, fun hpass => ⟨fun hl => ?_, fun e hl => ?_⟩⟩⟩
  · exact work ((State.acquire_of_takingRefusal hp
      ((htake _ _ _).trans (State.takingRefusal_of_state hs))).trans (State.refuse_eq _))
  · exact work ((State.acquire_of_takingRefusal hp
      ((htake _ _ _).trans (State.takingRefusal_of_bracket hs hl))).trans (State.refuse_eq _))
  · have habsent := State.acquire_of_absent hp
      ((htake _ _ _).trans (State.takingRefusal_of_passes hpass)) ((hlookup _).trans hl)
    have pressed : ∀ {st}, s.creationRefusal f.key = some st → refused st 0x10#7 := fun hc =>
      work (habsent.trans ((State.acquireAbsent_of_refused ((hcreate _).trans hc)).trans
        (State.refusePressed_eq _)))
    refine ⟨fun hq => pressed (State.creationRefusal_of_quota hq),
      fun hq hr => pressed (State.creationRefusal_of_no_room hq hr), fun hq hc he => ⟨fun hf => ?_,
      fun hf ht => ?_⟩⟩
    · exact pressed ((State.creationRefusal_of_room hq hc he).trans (if_pos hf))
    · exact work (habsent.trans ((State.acquireAbsent_of_exhausted
        ((hcreate _).trans ((State.creationRefusal_of_room hq hc he).trans (if_neg hf)))
        (hissue.trans (State.canIssue_false ht))).trans State.refuseExhausted_eq))
  · have hpresent := State.acquire_of_present hp
      ((htake _ _ _).trans (State.takingRefusal_of_passes hpass)) ((hlookup _).trans hl)
    rw [hown, hnow] at hpresent
    refine ⟨fun ho => work ((hpresent.trans (if_neg ho)).trans (State.refuse_eq _)),
      fun ho hg => ?_, fun ho hg => ?_⟩
    · have hqueue := (hpresent.trans (if_pos ho)).trans
        (if_neg (by rw [State.grantableNow_iff.2 hg]; decide))
      refine ⟨fun hw => ?_, fun hw hq => ?_, fun hw hq hf => ?_⟩
      · exact work (hqueue.trans ((State.acquireQueue_of_no_wait hw).trans (State.refuse_eq _)))
      · exact work (hqueue.trans ((State.acquireQueue_of_full hw (by simpa using hq)).trans
          (State.refuse_eq _)))
      · exact work (hqueue.trans ((State.acquireQueue_of_empty_pool hw (by simpa using hq)
          (hpool.trans hf)).trans (State.refusePressed_eq _)))
    · have hgrant : s.grantableNow e f.mode = true := by
        by_contra hne
        exact hg (State.grantableNow_iff.1 (by simpa using hne))
      have hjoin := (hpresent.trans (if_pos ho)).trans (if_pos hgrant)
      refine ⟨fun hf => ?_, fun hf ht => ?_⟩
      · exact work (hjoin.trans ((State.acquireJoin_of_empty_pool (hpool.trans hf)).trans
          (State.refusePressed_eq _)))
      · exact work (hjoin.trans ((State.acquireJoin_of_exhausted (fun hx => hf (hpool.symm.trans hx))
          (hissue.trans (State.canIssue_false ht))).trans State.refuseExhausted_eq))

/-- Settles O37, by the equations of the QUERY's work. -/
theorem queryReportsTheEntry : Obligations.QueryReportsTheEntry := by
  intro s l r h hk i answered
  have work : ∀ {reply}, (((s.takeFrame l r).setLease i).query i r).2 = reply → answered reply :=
    query_answers h hk
  refine ⟨fun hp => work (by rw [State.query_of_bad_payload hp]; rfl), fun k hp => ?_⟩
  have hns : ((s.takeFrame l r).setLease i).ns k.ns = s.ns k.ns := by simp
  have hquery := State.query_of_key (s := (s.takeFrame l r).setLease i) (i := i) hp
  rw [hns, State.begun_ring, State.begun_queryPayload] at hquery
  refine ⟨fun hs => work (by rw [hquery, if_pos hs]; rfl),
    fun hs hl => work (by rw [hquery, if_neg hs, if_pos hl]; rfl), fun hs hl => ?_⟩
  rw [if_neg hs, if_neg (by omega)] at hquery
  refine ⟨fun hk => work (by rw [hquery, State.queryPayload_absent hk]), fun e he => work ?_⟩
  rw [hquery, State.queryPayload_present he]
  rfl
end

section
/-!
Locks taken back by the host: the retirement of an entry, REVOKE LOCK (R172), and the revoke sweep
(R109 to R111).
-/

namespace Sys2Proof.Machine

variable {s : State}

/-! ### The retirement of an entry (R10, R108) -/

theorem State.retireEntry_causes (s : State) (e : EntryIx) : (s.retireEntry e).deviceCauses =
    s.deviceCauses ||| (if (s.ns (s.entry e).key.ns).state = .draining ∧
      (s.ns (s.entry e).key.ns).revokeSweep = false ∧ (s.ns (s.entry e).key.ns).occupied - 1 = 0 then
        0x20#7 else 0#7) := by
  unfold State.retireEntry
  dsimp only
  rw [State.completeDrain_causes]
  simp

theorem State.retireEntry_spec (s : State) (e : EntryIx) : EntryRetired s (s.retireEntry e) e := by
  refine ⟨?_, ?_, fun f hf => ?_, ?_, fun b hb => ?_, ?_, fun n hn => ?_⟩
  · apply State.eq_of_fields <;> simp [State.retireEntry_causes]
  · rw [State.retireEntry_entry, if_pos rfl]; rfl
  · rw [State.retireEntry_entry, if_neg (by simpa [eq_comm] using hf)]
  · rw [State.retireEntry_chain, if_pos rfl]
  · rw [State.retireEntry_chain, if_neg (by simpa [eq_comm] using hb)]
  · rw [State.retireEntry_ns, if_pos rfl]
  · rw [State.retireEntry_ns, if_neg (by simpa [eq_comm] using hn)]

/-! ### REVOKE LOCK (R172) -/

theorem State.paramKey_eq {n : NsIx} (h : s.paramNs = some n) :
    s.paramKey = some ⟨n, BitVec.ofNat 32 (s.param 1 4)⟩ := by
  unfold State.paramKey; rw [h]

theorem State.revokeLock_of_bad_value (h : s.paramNs = none ∨ (s.param 5 1 ≠ 1 ∧ s.param 5 1 ≠ 2)) :
    s.revokeLock = s.complete .badValue [] := by
  unfold State.revokeLock
  split
  · rfl
  · rename_i k hk
    have hscope := h.resolve_left fun hn => by
      unfold State.paramKey at hk; rw [hn] at hk; cases hk
    exact (if_neg hscope.1).trans (if_neg hscope.2)

theorem State.revokeLock_absent {k : Key} (hk : s.paramKey = some k)
    (hs : s.param 5 1 = 1 ∨ s.param 5 1 = 2) (hl : s.lookup k = none) :
    s.revokeLock = s.complete .notFound [] := by
  unfold State.revokeLock
  rw [hk]
  rcases hs with hs | hs
  · simp only [hs, if_true, hl]
  · simp only [hs, hl]; rfl

theorem State.revokeLock_holders {k : Key} {e : EntryIx} (hk : s.paramKey = some k)
    (hs : s.param 5 1 = 1) (hl : s.lookup k = some e) : s.revokeLock = s.revokeHolders e := by
  unfold State.revokeLock
  rw [hk]
  simp only [hs, if_true, hl]

theorem State.revokeLock_all {k : Key} {e : EntryIx} (hk : s.paramKey = some k)
    (hs : s.param 5 1 = 2) (hl : s.lookup k = some e) : s.revokeLock = s.revokeAll e := by
  unfold State.revokeLock
  rw [hk]
  simp only [hs, hl]; rfl

/-- A retired entry is free. -/
theorem State.retireEntry_occupied (s : State) (e : EntryIx) :
    ((s.retireEntry e).entry e).occupied = false := by
  rw [State.retireEntry_entry, if_pos rfl]; rfl

theorem State.revokeHolders_completes (s : State) (e : EntryIx) :
    Completed ((s.revokeClaims (s.entry e).holders).grantPass e) (s.revokeHolders e) .ok
      [byteOf (s.entry e).holders.length, 0#8,
        byteOf (((s.revokeClaims (s.entry e).holders).grantPass e).entry e).holders.length,
        if (((s.revokeClaims (s.entry e).holders).grantPass e).entry e).occupied then 0#8 else 1#8] := by
  unfold State.revokeHolders
  dsimp only
  generalize (s.revokeClaims (s.entry e).holders).grantPass e = v
  rw [show (if (v.entry e).occupied then 0#8 else 1#8) = flagByte !(v.entry e).occupied by
    cases (v.entry e).occupied <;> rfl]
  exact State.complete_spec v _ _

theorem State.revokeAll_completes (s : State) (e : EntryIx) :
    Completed ((s.revokeClaims ((s.entry e).holders ++ (s.entry e).waiters)).retireEntry e)
      (s.revokeAll e) .ok
      [byteOf (s.entry e).holders.length, byteOf (s.entry e).waiters.length, 0#8, 1#8] := by
  unfold State.revokeAll
  dsimp only
  rw [← State.revokeClaims_append, State.retireEntry_occupied]
  exact State.complete_spec _ _ _

/-- The rows of REVOKE LOCK run it on the command taken, each but for the other's scope. -/
theorem exec_revokeLockHolders (h : CommandOffered s 0x30#8) (hs : s.param 5 1 ≠ 2) :
    exec .revokeLockHolders s = .next (taken s).revokeLock := by
  refine congrArg Host.Outcome.next ((State.commandStep_offered h.1 _ _).trans (if_pos ?_))
  rw [h.2]; simp [hs]

theorem exec_revokeLockAll (h : CommandOffered s 0x30#8) (hs : s.param 5 1 ≠ 1) :
    exec .revokeLockAll s = .next (taken s).revokeLock := by
  refine congrArg Host.Outcome.next ((State.commandStep_offered h.1 _ _).trans (if_pos ?_))
  rw [h.2]; simp [hs]

/-! ### The revoke sweep (R109 to R111) -/

/-- The entry of a revoke step is the lowest that matches. -/
theorem State.scanEntry_eq_some {n : NsIx} {e : EntryIx}
    (h : (s.entry e).occupied = true ∧ (s.entry e).key.ns = n ∧ (s.ns n).scanIndex ≤ e.val)
    (hlow : ∀ d : EntryIx, d < e → ¬ ((s.entry d).occupied = true ∧ (s.entry d).key.ns = n ∧
      (s.ns n).scanIndex ≤ d.val)) : s.scanEntry n = some e := by
  obtain ⟨hocc, hns, hscan⟩ := h
  refine (firstFrom_eq_some_iff (by omega)).2 ⟨by simp [hocc, hns], hscan, fun d hd hlt => ?_⟩
  have := hlow d hlt
  by_contra hne
  simp only [Bool.not_eq_false, Bool.and_eq_true, beq_iff_eq] at hne
  exact this ⟨hne.1, hne.2, hd⟩

theorem State.scanEntry_eq_none {n : NsIx}
    (h : ∀ e : EntryIx, ¬ ((s.entry e).occupied = true ∧ (s.entry e).key.ns = n ∧
      (s.ns n).scanIndex ≤ e.val)) : s.scanEntry n = none := by
  refine (firstFrom_eq_none_iff (by omega)).2 fun e he => ?_
  by_contra hne
  simp only [Bool.not_eq_false, Bool.and_eq_true, beq_iff_eq] at hne
  exact h e ⟨hne.1, hne.2, he⟩

/-- Revoking claims leaves the namespaces as they are. -/
theorem State.revokeClaim_namespaces (s : State) (c : ClaimIx) :
    (s.revokeClaim c).namespaces = s.namespaces := by
  have h : ∀ v : State, (v.dropClaim c .revoked).namespaces = v.namespaces := fun v => by
    unfold State.dropClaim
    split <;> simp
  exact h _

theorem State.revokeClaims_namespaces (s : State) (cs : List ClaimIx) :
    (s.revokeClaims cs).namespaces = s.namespaces := by
  unfold State.revokeClaims
  induction cs generalizing s with
  | nil => rfl
  | cons c cs ih => rw [List.foldl_cons, ih, State.revokeClaim_namespaces]

theorem State.nsResult_eq (s : State) (n : NsIx) : s.nsResult n = descriptorBytes (s.ns n) := rfl

/-- A revoke step's own namespace, after the entry is retired. -/
theorem State.retireEntry_sweep (s : State) (e : EntryIx) (n : NsIx) :
    ((s.retireEntry e).ns n).sweepEntries = (s.ns n).sweepEntries ∧
      ((s.retireEntry e).ns n).sweepClaims = (s.ns n).sweepClaims := by
  rw [State.retireEntry_ns]
  split <;> exact ⟨rfl, rfl⟩

end Sys2Proof.Machine

open Sys2Proof Sys2Proof.Machine

/-- Settles O45: the two rows run one command, whose outcome the scope byte and the lookup decide. -/
theorem locksAreRevoked : Obligations.LocksAreRevoked := by
  intro s c h
  refine ⟨fun hc hbad h1 h2 => ?_, fun n hn => ⟨fun hc hl => ?_, fun e hl => ⟨fun hc hs => ?_,
    fun hc hs => ?_⟩⟩⟩
  · have hrun : exec c s = .next (taken s).revokeLock := by
      rcases hc with rfl | rfl
      · exact exec_revokeLockHolders h (h1 rfl)
      · exact exec_revokeLockAll h (h2 rfl)
    have hdone := State.revokeLock_of_bad_value (s := taken s) hbad
    exact ⟨_, hrun, by rw [hdone]; exact State.complete_spec _ _ _⟩
  · have hrun : exec c s = .next (taken s).revokeLock := by
      rcases hc with ⟨rfl, hs⟩ | ⟨rfl, hs⟩
      · exact exec_revokeLockHolders h (by simp [hs])
      · exact exec_revokeLockAll h (by simp [hs])
    have hdone := State.revokeLock_absent (s := taken s) (State.paramKey_eq hn)
      (hc.imp And.right And.right) hl
    exact ⟨_, hrun, by rw [hdone]; exact State.complete_spec _ _ _⟩
  · subst hc
    have hdone := State.revokeLock_holders (s := taken s) (State.paramKey_eq hn) hs hl
    exact ⟨_, exec_revokeLockHolders h (by simp [hs]), by
      rw [hdone]; exact State.revokeHolders_completes (taken s) e⟩
  · subst hc
    have hdone := State.revokeLock_all (s := taken s) (State.paramKey_eq hn) hs hl
    exact ⟨_, exec_revokeLockAll h (by simp [hs]), State.retireEntry_spec _ e, by
      rw [hdone]; exact State.revokeAll_completes (taken s) e⟩

/-- Settles O52, by the entry the scan finds. -/
theorem revokeSweepSteps : Obligations.RevokeSweepSteps := by
  intro s n h matching
  have hturn := State.sweepTurn_of_offered h
  refine ⟨fun e he hlow => ?_, fun hnone => ?_⟩
  · have hscan := State.scanEntry_eq_some he hlow
    have hrun : exec (.revokeSweepStep n) s = .next ((swept s (sweepRevoke n)).revokeStep n e) := by
      refine congrArg Host.Outcome.next ((if_pos hturn).trans ?_)
      rw [hscan]
      rfl
    refine ⟨_, hrun, ?_⟩
    unfold State.revokeStep
    dsimp only
    rw [← State.revokeClaims_append]
    obtain ⟨hentries, hclaims⟩ := State.retireEntry_sweep
      ((swept s (sweepRevoke n)).revokeClaims ((s.entry e).holders ++ (s.entry e).waiters)) e n
    have hns : ((swept s (sweepRevoke n)).revokeClaims
        ((s.entry e).holders ++ (s.entry e).waiters)).ns n = s.ns n :=
      State.ns_congr (State.revokeClaims_namespaces _ _) n
    rw [hns] at hentries hclaims
    refine ⟨rfl, ?_, fun m hm => ?_, State.retireEntry_spec _ e⟩
    · rw [State.updNs_ns_same, List.length_append, ← hentries, ← hclaims, Nat.add_assoc]
      rfl
    · rw [State.updNs_ns, if_neg (by simpa [eq_comm] using hm)]; rfl
  · have hscan := State.scanEntry_eq_none hnone
    have hrun : exec (.revokeSweepFinalStep n) s =
        .next ((swept s (sweepRevoke n)).revokeFinal n) :=
      congrArg Host.Outcome.next (if_pos ⟨hturn, hscan⟩)
    refine ⟨(swept s (sweepRevoke n)).updNs n (fun x =>
      { x with state := .disabled, revokeSweep := false, scanIndex := 0, sweepEntries := 0,
               sweepClaims := 0 }), _, hrun, rfl, State.updNs_ns_same _ _ _, fun m hm => ?_, ?_⟩
    · rw [State.updNs_ns, if_neg (by simpa [eq_comm] using hm)]; rfl
    · unfold State.revokeFinal
      dsimp only
      rw [State.nsResult_eq, State.updNs_ns_same]
      exact State.complete_spec _ _ _
end

section
/-!
What a grant pass admits, as a run over the heads of the queue (R37, R38): the pass is the grant of a prefix
of the waiters in turn, and the grants in turn leave every record as said here.
-/

namespace Sys2Proof.Machine

variable {s : State} {e : EntryIx}

/-! ### Grants in turn -/

/-- The claims of a list are granted in its order. -/
def State.grantAll (s : State) (e : EntryIx) (cs : List ClaimIx) : State :=
  cs.foldl (fun acc c => acc.grantWaiting e c) s

theorem State.grantAll_cons (s : State) (e : EntryIx) (c : ClaimIx) (cs : List ClaimIx) :
    s.grantAll e (c :: cs) = (s.grantWaiting e c).grantAll e cs := rfl

/-- A granted claim (R37, R49, R56). -/
def grantedWaiter (x : Claim) (token : Nat) : Claim :=
  { x with
    state := .held, token := token, waitDeadline := none,
    notice := some (match x.notice with
      | none => .granted
      | some p => mergedNotice p .granted) }

theorem State.grantWaiting_claim_eq (s : State) (e : EntryIx) (c d : ClaimIx) :
    (s.grantWaiting e c).claim d =
      if c = d then grantedWaiter (s.claim c) s.tokenCounter else s.claim d :=
  State.grantWaiting_claim s e c d

theorem State.grantWaiting_claim_session (s : State) (e : EntryIx) (c d : ClaimIx) :
    ((s.grantWaiting e c).claim d).session = (s.claim d).session := by
  rw [State.grantWaiting_claim_eq]
  split
  · rename_i h; subst h; rfl
  · rfl

theorem State.grantWaiting_claim_mode (s : State) (e : EntryIx) (c d : ClaimIx) :
    ((s.grantWaiting e c).claim d).mode = (s.claim d).mode := by
  rw [State.grantWaiting_claim_eq]
  split
  · rename_i h; subst h; rfl
  · rfl

/-- A claim that is not granted is as before. -/
theorem State.grantAll_claim_other {cs : List ClaimIx} {d : ClaimIx} (hd : d ∉ cs) :
    (s.grantAll e cs).claim d = s.claim d := by
  induction cs generalizing s with
  | nil => rfl
  | cons c cs ih =>
    rw [State.grantAll_cons, ih (fun h => hd (List.mem_cons_of_mem _ h)), State.grantWaiting_claim_eq,
      if_neg (fun (h : c = d) => hd (h ▸ List.mem_cons_self))]

theorem State.grantAll_claim_held {cs : List ClaimIx} {d : ClaimIx} (hd : d ∈ cs) :
    ((s.grantAll e cs).claim d).state = .held := by
  induction cs generalizing s with
  | nil => cases hd
  | cons c cs ih =>
    rw [State.grantAll_cons]
    by_cases h : d ∈ cs
    · exact ih h
    · have hcd : c = d := ((List.mem_cons.1 hd).resolve_right h).symm
      rw [State.grantAll_claim_other h, State.grantWaiting_claim_eq, if_pos hcd]
      rfl

/-- The tokens are consecutive (R56). -/
theorem State.grantAll_claim {cs : List ClaimIx} {k : Nat} {d : ClaimIx} (hk : cs[k]? = some d)
    (hd : cs.count d = 1) :
    (s.grantAll e cs).claim d = grantedWaiter (s.claim d) (s.tokenCounter + k) := by
  induction cs generalizing s k with
  | nil => cases hk
  | cons c cs ih =>
    rw [State.grantAll_cons]
    cases k with
    | zero =>
      have hcd : c = d := by simpa using hk
      subst hcd
      rw [List.count_cons_self] at hd
      rw [State.grantAll_claim_other (List.count_eq_zero.1 (by omega)), State.grantWaiting_claim_eq,
        if_pos rfl, Nat.add_zero]
    | succ k =>
      have hkd : cs[k]? = some d := by simpa using hk
      have hcd : c ≠ d := by
        rintro rfl
        have hpos := List.count_pos_iff.2 (List.mem_of_getElem? hkd)
        rw [List.count_cons_self] at hd
        omega
      rw [List.count_cons_of_ne hcd] at hd
      obtain ⟨htoken, -⟩ := State.grantWaiting_fields s e c
      rw [ih hkd hd, State.grantWaiting_claim_eq, if_neg hcd, htoken]
      congr 1
      omega

/-- The entry after its waiters `cs` have been granted, `rest` staying. -/
theorem State.grantAll_entry {cs rest : List ClaimIx} (hw : (s.entry e).waiters = cs ++ rest) :
    (s.grantAll e cs).entry e = { s.entry e with
      holders := (s.entry e).holders ++ cs, waiters := rest,
      mode := if (s.entry e).holders = [] then
          (match cs.head? with
            | some c => (s.claim c).mode
            | none => (s.entry e).mode)
        else (s.entry e).mode,
      latestToken := if cs = [] then (s.entry e).latestToken else s.tokenCounter + cs.length - 1 } := by
  induction cs generalizing s with
  | nil =>
    rw [State.grantAll, List.foldl_nil]
    simp only [List.nil_append] at hw
    simp [← hw]
  | cons c cs ih =>
    have hgrant := State.grantWaiting_entry s e c e
    rw [if_pos rfl] at hgrant
    obtain ⟨htoken, -⟩ := State.grantWaiting_fields s e c
    rw [State.grantAll_cons, ih (by rw [hgrant, hw]; rfl), hgrant, htoken]
    cases cs with
    | nil => simp
    | cons d cs => simp; omega

theorem State.grantAll_entry_other {cs : List ClaimIx} {f : EntryIx} (hf : e ≠ f) :
    (s.grantAll e cs).entry f = s.entry f := by
  induction cs generalizing s with
  | nil => rfl
  | cons c cs ih => rw [State.grantAll_cons, ih, State.grantWaiting_entry, if_neg hf]

/-- The counts of the sessions follow (R30, R37). -/
theorem State.grantAll_session (s : State) (e : EntryIx) (cs : List ClaimIx) (i : SlotIx) :
    (s.grantAll e cs).session i = { s.session i with
      waitingCount := (s.session i).waitingCount - cs.countP (fun c => (s.claim c).session == i),
      heldCount := (s.session i).heldCount + cs.countP (fun c => (s.claim c).session == i) } := by
  induction cs generalizing s with
  | nil => rfl
  | cons c cs ih =>
    rw [State.grantAll_cons, ih, State.grantWaiting_session]
    simp only [State.grantWaiting_claim_session, List.countP_cons, beq_iff_eq]
    split
    · simp only [Session.mk.injEq, true_and, and_true]
      omega
    · rfl

/-- A notice joins its line's list for each claim that had none (R48, R49). -/
theorem State.grantAll_line {cs : List ClaimIx} (hn : cs.Nodup) (l : LineIx) :
    (s.grantAll e cs).line l = { s.line l with
      notices := (s.line l).notices ++ (cs.filter
        (fun c => (s.claim c).notice == none && lineOf (s.claim c).session == l)).map .claim } := by
  induction cs generalizing s with
  | nil => simp [State.grantAll]
  | cons c cs ih =>
    obtain ⟨hc, hn⟩ := List.nodup_cons.1 hn
    have hlater : cs.filter (fun d => ((s.grantWaiting e c).claim d).notice == none &&
        lineOf ((s.grantWaiting e c).claim d).session == l) =
        cs.filter (fun d => (s.claim d).notice == none && lineOf (s.claim d).session == l) := by
      refine List.filter_congr fun d hd => ?_
      rw [State.grantWaiting_claim_eq, if_neg (fun (h : c = d) => hc (h ▸ hd))]
    rw [State.grantAll_cons, ih hn, hlater, State.grantWaiting_line]
    by_cases hl : lineOf (s.claim c).session = l <;> by_cases hnone : (s.claim c).notice = none <;>
      simp [hl, hnone]

/-- The parts of the state that the grants write. -/
theorem State.grantAll_writes (s : State) (e : EntryIx) (cs : List ClaimIx) : s.grantAll e cs =
    { s with
      entries := (s.grantAll e cs).entries, claims := (s.grantAll e cs).claims,
      sessions := (s.grantAll e cs).sessions, lines := (s.grantAll e cs).lines,
      deadlines := s.deadlines.filter (fun d => cs.all (fun c => !refersToWait c d.ref)),
      tokenCounter := s.tokenCounter + cs.length,
      deviceCauses := s.deviceCauses |||
        (if s.tokenCounter < Config.tokensLowMark ∧
          Config.tokensLowMark ≤ s.tokenCounter + cs.length then 0x40#7 else 0#7),
      counters := { s.counters with grants := countUp^[cs.length] s.counters.grants } } := by
  induction cs generalizing s with
  | nil =>
    have hmark : ¬ (s.tokenCounter < Config.tokensLowMark ∧ Config.tokensLowMark ≤ s.tokenCounter) := by
      omega
    simp [State.grantAll, hmark]
  | cons c cs ih =>
    have hcauses : ∀ a : BitVec 7, a ||| (if s.tokenCounter + 1 = Config.tokensLowMark then 0x40#7
        else 0#7) ||| (if s.tokenCounter + 1 < Config.tokensLowMark ∧
          Config.tokensLowMark ≤ s.tokenCounter + 1 + cs.length then 0x40#7 else 0#7) =
        a ||| (if s.tokenCounter < Config.tokensLowMark ∧
          Config.tokensLowMark ≤ s.tokenCounter + (c :: cs).length then 0x40#7 else 0#7) := fun a => by
      rw [List.length_cons, BitVec.or_assoc]
      by_cases hnow : s.tokenCounter + 1 = Config.tokensLowMark
      · rw [if_pos hnow, if_neg (by omega), if_pos (by omega), BitVec.or_zero]
      · rw [if_neg hnow, BitVec.zero_or]
        congr 2
        exact propext (by omega)
    have hdeadlines : (s.deadlines.filter (fun d => !refersToWait c d.ref)).filter
        (fun d => cs.all (fun c => !refersToWait c d.ref)) =
        s.deadlines.filter (fun d => (c :: cs).all (fun c => !refersToWait c d.ref)) := by
      rw [List.filter_filter]
      exact List.filter_congr fun d _ => by rw [List.all_cons, Bool.and_comm]
    have htokens : s.tokenCounter + 1 + cs.length = s.tokenCounter + (c :: cs).length := by
      rw [List.length_cons]; omega
    have hgrant := State.grantWaiting_writes s e c
    rw [State.grantAll_cons]
    generalize s.grantWaiting e c = u at hgrant
    rw [ih u]
    generalize u.grantAll e cs = v
    rw [hgrant]
    simp only [hcauses, hdeadlines]
    rw [htokens]
    rfl

end Sys2Proof.Machine
end

section
/-!
The grant pass without a pending upgrade (R37, R38): it admits the longest prefix of the queue; every other
pass goes one head at a time (R10, R11, R39, R58).
-/

namespace Sys2Proof.Machine

variable {s : State} {e : EntryIx} {c : ClaimIx} {rest : List ClaimIx}

/-! ### What the modes admit (R38 step 3) -/

/-- The number of waiters a pass admits, from the entry and the waiters' modes. -/
def State.admits (s : State) (e : EntryIx) : Nat :=
  admitted (s.ns (s.entry e).key.ns).rules.sharerLimit (s.entry e).holders.length (s.entry e).mode
    ((s.entry e).waiters.map (fun c => (s.claim c).mode))

theorem State.headGrantable_iff {m : Mode} : s.headGrantable e m = true ↔
    (s.entry e).holders = [] ∨ (m = .shared ∧ (s.entry e).mode = .shared ∧
      (s.entry e).holders.length < (s.ns (s.entry e).key.ns).rules.sharerLimit) := by
  simp [State.headGrantable, and_assoc]

theorem admitted_of_not_grantable {limit h : Nat} {mode m : Mode} {ms : List Mode} (hh : h ≠ 0)
    (hg : ¬ (m = .shared ∧ mode = .shared ∧ h < limit)) : admitted limit h mode (m :: ms) = 0 := by
  obtain ⟨k, rfl⟩ := Nat.exists_eq_succ_of_ne_zero hh
  cases m with
  | exclusive => rfl
  | shared =>
    cases mode with
    | exclusive => rfl
    | shared => exact if_neg (by simpa using hg)

theorem admitted_of_shared {limit h : Nat} {mode : Mode} {ms : List Mode}
    (hg : h = 0 ∨ (mode = .shared ∧ h < limit)) :
    admitted limit h mode (.shared :: ms) = 1 + admitted limit (h + 1) .shared ms := by
  cases h with
  | zero => rfl
  | succ k =>
    obtain ⟨rfl, hlt⟩ := hg.resolve_left (by omega)
    exact if_pos hlt

theorem State.admits_of_not_grantable (hw : (s.entry e).waiters = c :: rest)
    (hg : ¬ s.headGrantable e (s.claim c).mode = true) : s.admits e = 0 := by
  rw [State.headGrantable_iff, not_or] at hg
  rw [State.admits, hw, List.map_cons]
  exact admitted_of_not_grantable (by simpa using hg.1) hg.2

theorem State.admits_of_exclusive (hw : (s.entry e).waiters = c :: rest)
    (hg : s.headGrantable e (s.claim c).mode = true) (hm : (s.claim c).mode = .exclusive) :
    s.admits e = 1 := by
  have hempty := (State.headGrantable_iff.1 hg).resolve_right (by simp [hm])
  rw [State.admits, hw, List.map_cons, hempty, hm]
  rfl

/-- A SHARED head that is granted leaves the rest to what is admitted after it. -/
theorem State.admits_of_shared (hw : (s.entry e).waiters = c :: rest)
    (hg : s.headGrantable e (s.claim c).mode = true) (hm : (s.claim c).mode = .shared) :
    s.admits e = 1 + (s.grantWaiting e c).admits e := by
  have hgrant := State.grantWaiting_entry s e c e
  rw [if_pos rfl] at hgrant
  obtain ⟨-, -, -, hns, -⟩ := State.grantWaiting_fields s e c
  have hg' := State.headGrantable_iff.1 hg
  have hmode : (if (s.entry e).holders.isEmpty then .shared else (s.entry e).mode) = Mode.shared := by
    split
    · rfl
    · rename_i hne
      exact (hg'.resolve_left (by simpa using hne)).2.1
  simp only [State.admits, hgrant, State.ns_congr hns, hw, hm, hmode, State.grantWaiting_claim_mode,
    List.map_cons, List.tail_cons, List.length_append, List.length_singleton]
  exact admitted_of_shared (hg'.imp (by simp) And.right)

/-! ### The heads, one at a time -/

theorem State.grantHeads_nil {fuel : Nat} (hw : (s.entry e).waiters = []) :
    State.grantHeads fuel s e = s := by
  cases fuel with
  | zero => rfl
  | succ fuel => rw [State.grantHeads]; simp only [hw]

theorem State.grantHeads_of_ending {fuel : Nat} (hw : (s.entry e).waiters = c :: rest)
    (hs : (s.session (s.claim c).session).state = .ending) :
    State.grantHeads (fuel + 1) s e = State.grantHeads fuel (s.freeClaim c) e := by
  rw [State.grantHeads]; simp only [hw]; exact if_pos hs

theorem State.grantHeads_of_not_grantable {fuel : Nat} (hw : (s.entry e).waiters = c :: rest)
    (hs : (s.session (s.claim c).session).state ≠ .ending)
    (hg : ¬ s.headGrantable e (s.claim c).mode = true) : State.grantHeads (fuel + 1) s e = s := by
  rw [State.grantHeads]; simp only [hw]; exact (if_neg hs).trans (if_neg hg)

theorem State.grantHeads_of_exhausted {fuel : Nat} (hw : (s.entry e).waiters = c :: rest)
    (hs : (s.session (s.claim c).session).state ≠ .ending)
    (hg : s.headGrantable e (s.claim c).mode = true) (ht : ¬ s.canIssue = true) :
    State.grantHeads (fuel + 1) s e = s.raise .tokensLow := by
  rw [State.grantHeads]; simp only [hw]; exact (if_neg hs).trans ((if_pos hg).trans (if_neg ht))

/-- A head that is granted: an EXCLUSIVE one is the last. -/
theorem State.grantHeads_of_granted {fuel : Nat} (hw : (s.entry e).waiters = c :: rest)
    (hs : (s.session (s.claim c).session).state ≠ .ending)
    (hg : s.headGrantable e (s.claim c).mode = true) (ht : s.canIssue = true) :
    State.grantHeads (fuel + 1) s e = if (s.claim c).mode = .exclusive then s.grantWaiting e c
      else State.grantHeads fuel (s.grantWaiting e c) e := by
  rw [State.grantHeads]; simp only [hw]; exact (if_neg hs).trans ((if_pos hg).trans (if_pos ht))

theorem State.canIssue_iff : s.canIssue = true ↔ s.tokenCounter + 1 ≤ Config.tokenExhausted := by
  simp [State.canIssue]

/-- The waiters after the head has been granted. -/
theorem State.grantWaiting_waiters (hw : (s.entry e).waiters = c :: rest) :
    ((s.grantWaiting e c).entry e).waiters = rest := by
  rw [State.grantWaiting_entry, if_pos rfl, hw]
  rfl

theorem State.grantWaiting_session_state (s : State) (e : EntryIx) (c : ClaimIx) (i : SlotIx) :
    ((s.grantWaiting e c).session i).state = (s.session i).state := by
  rw [(TableStep.grantWaiting s e c).sessions i]

/-- With no head of an ENDING session and enough tokens, the pass over the heads is the grant of the waiters
that the modes admit. -/
theorem State.grantHeads_eq_grantAll (fuel : Nat) (hf : (s.entry e).waiters.length ≤ fuel)
    (hs : ∀ c ∈ (s.entry e).waiters, (s.session (s.claim c).session).state ≠ .ending)
    (ht : s.tokenCounter + (s.entry e).waiters.length ≤ Config.tokenExhausted) :
    State.grantHeads fuel s e = s.grantAll e ((s.entry e).waiters.take (s.admits e)) := by
  induction fuel generalizing s with
  | zero =>
    have hw : (s.entry e).waiters = [] := List.length_eq_zero_iff.1 (by omega)
    rw [hw, List.take_nil]; rfl
  | succ fuel ih =>
    cases hw : (s.entry e).waiters with
    | nil => rw [State.grantHeads_nil hw, List.take_nil]; rfl
    | cons c rest =>
      rw [hw, List.length_cons] at hf ht
      have hc := hs c (by rw [hw]; exact List.mem_cons_self)
      by_cases hg : s.headGrantable e (s.claim c).mode = true
      · rw [State.grantHeads_of_granted hw hc hg (State.canIssue_iff.2 (by omega))]
        cases hm : (s.claim c).mode with
        | exclusive =>
          rw [if_pos rfl, State.admits_of_exclusive hw hg hm]
          rfl
        | shared =>
          rw [if_neg (by simp), State.admits_of_shared hw hg hm, Nat.add_comm, List.take_succ_cons,
            State.grantAll_cons]
          have hrest := State.grantWaiting_waiters hw
          obtain ⟨htoken, -⟩ := State.grantWaiting_fields s e c
          rw [ih (by rw [hrest]; omega) (fun d hd => ?_) (by rw [hrest, htoken]; omega), hrest]
          rw [State.grantWaiting_claim_session, State.grantWaiting_session_state]
          exact hs d (by rw [hw]; exact List.mem_cons_of_mem _ (hrest ▸ hd))
      · rw [State.grantHeads_of_not_grantable hw hc hg, State.admits_of_not_grantable hw hg]
        rfl

/-! ### The pass -/

theorem State.grantPass_of_no_upgrade (h : (s.entry e).upgrade = none) :
    s.grantPass e = (State.grantHeads (s.entry e).waiters.length s e).settleEntry e := by
  have hclear : s.clearEndingUpgrade e = s := by unfold State.clearEndingUpgrade; rw [h]
  unfold State.grantPass
  rw [hclear]
  simp only [h]

theorem State.settleEntry_of_holders (h : (s.entry e).holders ≠ []) : s.settleEntry e = s :=
  if_neg (by simpa using h)

theorem State.settleEntry_of_empty (h : (s.entry e).holders = []) (hw : (s.entry e).waiters = []) :
    s.settleEntry e = s.retireEntry e :=
  (if_pos (by simp [h])).trans (if_pos (by simp [hw]))

theorem State.settleEntry_of_waiters (h : (s.entry e).holders = []) (hw : (s.entry e).waiters ≠ []) :
    s.settleEntry e = s.detachWaiters e :=
  (if_pos (by simp [h])).trans (if_neg (by simpa using hw))

/-- At least the head is admitted where there are no holders. -/
theorem State.admits_pos (hh : (s.entry e).holders = []) (hw : (s.entry e).waiters ≠ []) :
    0 < s.admits e := by
  obtain ⟨c, rest, hw⟩ := List.exists_cons_of_ne_nil hw
  have hg : s.headGrantable e (s.claim c).mode = true := State.headGrantable_iff.2 (.inl hh)
  cases hm : (s.claim c).mode with
  | exclusive => rw [State.admits_of_exclusive hw hg hm]; exact Nat.one_pos
  | shared => rw [State.admits_of_shared hw hg hm]; omega

/-- No more are admitted than wait. -/
theorem admitted_le (limit h : Nat) (mode : Mode) (ms : List Mode) :
    admitted limit h mode ms ≤ ms.length := by
  induction ms generalizing h mode with
  | nil => cases h <;> exact le_refl _
  | cons m ms ih =>
    rw [List.length_cons]
    by_cases hg : h = 0 ∨ (mode = .shared ∧ h < limit)
    · cases m with
      | shared =>
        rw [admitted_of_shared hg]
        have := ih (h + 1) .shared
        omega
      | exclusive =>
        cases h with
        | zero => show 1 ≤ ms.length + 1; omega
        | succ k => exact Nat.zero_le _
    · rw [not_or] at hg
      rw [admitted_of_not_grantable hg.1 (fun hx => hg.2 hx.2)]
      exact Nat.zero_le _

theorem State.admits_le (s : State) (e : EntryIx) : s.admits e ≤ (s.entry e).waiters.length := by
  have := admitted_le (s.ns (s.entry e).key.ns).rules.sharerLimit (s.entry e).holders.length
    (s.entry e).mode ((s.entry e).waiters.map (fun c => (s.claim c).mode))
  rwa [List.length_map] at this

/-- The pass of a queue with enough tokens grants the prefix the modes admit, and no more. -/
theorem State.grantPass_eq_grantAll (hu : (s.entry e).upgrade = none)
    (hs : ∀ c ∈ (s.entry e).waiters, (s.session (s.claim c).session).state ≠ .ending)
    (ht : s.tokenCounter + (s.entry e).waiters.length ≤ Config.tokenExhausted)
    (hne : (s.entry e).holders ≠ [] ∨ (s.entry e).waiters ≠ []) :
    s.grantPass e = s.grantAll e ((s.entry e).waiters.take (s.admits e)) := by
  rw [State.grantPass_of_no_upgrade hu, State.grantHeads_eq_grantAll _ (le_refl _) hs ht]
  refine State.settleEntry_of_holders ?_
  rw [State.grantAll_entry (List.take_append_drop (s.admits e) _).symm]
  by_cases hh : (s.entry e).holders = []
  · have hw := hne.resolve_left (fun hx => hx hh)
    have := State.admits_pos hh hw
    simp only [hh, List.nil_append, ne_eq, List.take_eq_nil_iff]
    exact fun hx => hx.elim (by omega) hw
  · simp [hh]

/-- A head of an ENDING session is freed, and the pass goes on (R39). -/
theorem State.grantPass_of_ending_head (hu : (s.entry e).upgrade = none)
    (hw : (s.entry e).waiters = c :: rest) (hs : (s.session (s.claim c).session).state = .ending)
    (hc : c ∉ rest) (hst : (s.claim c).state = .waiting) (he : (s.claim c).entry = e) :
    s.grantPass e = (s.freeClaim c).grantPass e := by
  have hentry : (s.freeClaim c).entry e = { s.entry e with waiters := rest } := by
    rw [State.freeClaim_entry, if_pos he, hst]
    simp only [entryWithout, hw, List.filter_cons, bne_self_eq_false, Bool.false_eq_true, if_false]
    rw [List.filter_eq_self.2 fun d hd => by simpa using fun (hx : d = c) => hc (hx ▸ hd)]
  rw [State.grantPass_of_no_upgrade hu, State.grantPass_of_no_upgrade (by rw [hentry]; exact hu), hw,
    List.length_cons, State.grantHeads_of_ending hw hs, hentry]

/-- A head that cannot be granted ends the pass. -/
theorem State.grantPass_of_not_grantable (hu : (s.entry e).upgrade = none)
    (hw : (s.entry e).waiters = c :: rest) (hs : (s.session (s.claim c).session).state ≠ .ending)
    (hg : ¬ s.headGrantable e (s.claim c).mode = true) : s.grantPass e = s := by
  have hh : (s.entry e).holders ≠ [] := fun hx => hg (State.headGrantable_iff.2 (.inl hx))
  rw [State.grantPass_of_no_upgrade hu, hw, List.length_cons,
    State.grantHeads_of_not_grantable hw hs hg, State.settleEntry_of_holders hh]

/-- A head that is granted: the pass goes on after a SHARED one. -/
theorem State.grantPass_of_granted (hu : (s.entry e).upgrade = none)
    (hw : (s.entry e).waiters = c :: rest) (hs : (s.session (s.claim c).session).state ≠ .ending)
    (hg : s.headGrantable e (s.claim c).mode = true) (ht : s.canIssue = true) :
    s.grantPass e = if (s.claim c).mode = .exclusive then s.grantWaiting e c
      else (s.grantWaiting e c).grantPass e := by
  have hgrant := State.grantWaiting_entry s e c e
  rw [if_pos rfl] at hgrant
  rw [State.grantPass_of_no_upgrade hu, hw, List.length_cons, State.grantHeads_of_granted hw hs hg ht]
  split
  · exact State.settleEntry_of_holders (by rw [hgrant]; simp)
  · rw [State.grantPass_of_no_upgrade (by rw [hgrant]; exact hu), State.grantWaiting_waiters hw]

/-- A head that no token can be issued to. -/
theorem State.grantPass_of_exhausted (hu : (s.entry e).upgrade = none)
    (hw : (s.entry e).waiters = c :: rest) (hs : (s.session (s.claim c).session).state ≠ .ending)
    (hg : s.headGrantable e (s.claim c).mode = true) (ht : ¬ s.canIssue = true) :
    s.grantPass e = (s.raise .tokensLow).settleEntry e := by
  rw [State.grantPass_of_no_upgrade hu, hw, List.length_cons,
    State.grantHeads_of_exhausted hw hs hg ht]

/-! ### A pending upgrade of an ENDING session (R39) -/

theorem State.grantPass_of_ending_upgrade (hu : (s.entry e).upgrade = some c)
    (hs : (s.session (s.claim c).session).state = .ending) :
    s.grantPass e = (s.clearUpgrade e c).grantPass e := by
  have hclear : s.clearEndingUpgrade e = s.clearUpgrade e c := by
    unfold State.clearEndingUpgrade; rw [hu]; exact if_pos hs
  have hnone : ((s.clearUpgrade e c).entry e).upgrade = none := by
    rw [State.clearUpgrade_entry, if_pos rfl]
  have hagain : (s.clearUpgrade e c).clearEndingUpgrade e = s.clearUpgrade e c := by
    conv_lhs => unfold State.clearEndingUpgrade
    rw [hnone]
  unfold State.grantPass
  rw [hclear, hagain]

theorem State.clearUpgrade_writes (s : State) (e : EntryIx) (c : ClaimIx) : s.clearUpgrade e c =
    { s with claims := (s.clearUpgrade e c).claims, entries := (s.clearUpgrade e c).entries,
             deadlines := s.deadlines.filter (fun d => !refersToWait c d.ref) } := rfl

end Sys2Proof.Machine
end

section
/-!
The waiters of an entry without holders leave in arrival order (R11, R25, R30, R44); and what every grant
pass without a pending upgrade does.
-/

namespace Sys2Proof.Machine

variable {s : State} {e : EntryIx} {c : ClaimIx}

/-! ### A waiter that is told, or freed (R11) -/

/-- A claim's session is OPEN: the claim is DETACHED with a notice, not freed. -/
def State.told (s : State) (c : ClaimIx) : Bool := (s.session (s.claim c).session).state == .opened

/-- The record of a waiter that has left (R11). -/
def State.leftWaiter (s : State) (c : ClaimIx) : Claim :=
  if s.told c then
    { s.claim c with state := .detached, upgrade := false, waitDeadline := none,
                     notice := some .waitExpired }
  else { Claim.reset with useCount := (s.claim c).useCount }

theorem State.dropClaim_eq (s : State) (c : ClaimIx) (k : NoticeKind) :
    s.dropClaim c k = if s.told c = true then s.detachClaim c k else s.freeClaim c := by
  unfold State.dropClaim State.told
  by_cases h : (s.session (s.claim c).session).state = .opened <;> simp [h]

theorem State.dropWaiter_claim (hn : (s.claim c).notice = none) (d : ClaimIx) :
    (s.dropClaim c .waitExpired).claim d = if c = d then s.leftWaiter c else s.claim d := by
  rw [State.dropClaim_eq, State.leftWaiter]
  by_cases ht : s.told c = true
  · rw [if_pos ht, if_pos ht, State.detachClaim_claim, hn]
  · rw [if_neg ht, if_neg ht, State.freeClaim_claim]

theorem State.dropWaiter_entry (hw : (s.claim c).state = .waiting) (f : EntryIx) :
    (s.dropClaim c .waitExpired).entry f = if (s.claim c).entry = f then
      { s.entry f with waiters := (s.entry f).waiters.filter (fun d => d != c) } else s.entry f := by
  rw [State.dropClaim_eq]
  split
  · rw [State.detachClaim_entry, hw]; rfl
  · rw [State.freeClaim_entry, hw]; rfl

theorem State.dropWaiter_session (hw : (s.claim c).state = .waiting) (i : SlotIx) :
    (s.dropClaim c .waitExpired).session i = if (s.claim c).session = i then
      { s.session i with
        waitingCount := (s.session i).waitingCount - 1,
        claimList := if s.told c then (s.session i).claimList
          else (s.session i).claimList.filter (fun d => d != c) } else s.session i := by
  rw [State.dropClaim_eq]
  split
  · rw [State.detachClaim_session, hw]; simp
  · rw [State.freeClaim_session, hw]; simp

theorem State.dropWaiter_line (hn : (s.claim c).notice = none) (l : LineIx) :
    (s.dropClaim c .waitExpired).line l = if s.told c && lineOf (s.claim c).session == l then
      { s.line l with notices := (s.line l).notices ++ [.claim c] } else s.line l := by
  rw [State.dropClaim_eq]
  by_cases ht : s.told c = true <;> by_cases hl : lineOf (s.claim c).session = l <;>
    simp [ht, hl, hn, State.detachClaim_line, State.freeClaim_line]

theorem State.dropWaiter_writes (s : State) (c : ClaimIx) : s.dropClaim c .waitExpired =
    { s with
      claims := (s.dropClaim c .waitExpired).claims, entries := (s.dropClaim c .waitExpired).entries,
      sessions := (s.dropClaim c .waitExpired).sessions, lines := (s.dropClaim c .waitExpired).lines,
      deadlines := s.deadlines.filter (fun d => !refersToWait c d.ref),
      freeList := s.freeList ++ (if s.told c then [] else [c]),
      freeClaimCount := s.freeClaimCount + (if s.told c then 0 else 1) } := by
  rw [State.dropClaim_eq]
  split
  · rw [List.append_nil, Nat.add_zero]; exact State.detachClaim_writes s c _
  · exact State.freeClaim_writes s c

/-! ### Waiters that leave in turn -/

/-- The claims of a list leave in its order (R11). -/
def State.dropWaiters (s : State) (cs : List ClaimIx) : State :=
  cs.foldl (fun acc c => acc.dropClaim c .waitExpired) s

theorem State.dropWaiters_cons (s : State) (c : ClaimIx) (cs : List ClaimIx) :
    s.dropWaiters (c :: cs) = (s.dropClaim c .waitExpired).dropWaiters cs := rfl

theorem State.detachWaiters_eq (s : State) (e : EntryIx) :
    s.detachWaiters e = (s.dropWaiters (s.entry e).waiters).retireEntry e := rfl

/-- The claims wait on the entry `e`, once each and without a notice. -/
def WaitOn (s : State) (e : EntryIx) (cs : List ClaimIx) : Prop :=
  cs.Nodup ∧ ∀ d ∈ cs, (s.claim d).state = .waiting ∧ (s.claim d).entry = e ∧ (s.claim d).notice = none

/-- A later waiter is as it was when an earlier one has left. -/
theorem State.dropWaiter_claim_later (hn : (s.claim c).notice = none) {cs : List ClaimIx} (hc : c ∉ cs)
    {d : ClaimIx} (hd : d ∈ cs) : (s.dropClaim c .waitExpired).claim d = s.claim d := by
  rw [State.dropWaiter_claim hn, if_neg (fun (h : c = d) => hc (h ▸ hd))]

theorem State.dropWaiter_told_later (hn : (s.claim c).notice = none) {cs : List ClaimIx} (hc : c ∉ cs)
    {d : ClaimIx} (hd : d ∈ cs) : (s.dropClaim c .waitExpired).told d = s.told d := by
  unfold State.told
  rw [State.dropWaiter_claim_later hn hc hd, (TableStep.dropClaim s c .waitExpired).sessions]

theorem WaitOn.after {cs : List ClaimIx} (h : WaitOn s e (c :: cs)) :
    WaitOn (s.dropClaim c .waitExpired) e cs := by
  obtain ⟨hnodup, hwait⟩ := h
  obtain ⟨hc, hcs⟩ := List.nodup_cons.1 hnodup
  refine ⟨hcs, fun d hd => ?_⟩
  rw [State.dropWaiter_claim_later (hwait c List.mem_cons_self).2.2 hc hd]
  exact hwait d (List.mem_cons_of_mem _ hd)

theorem State.dropWaiters_claim_other {cs : List ClaimIx} (h : WaitOn s e cs) {d : ClaimIx} (hd : d ∉ cs) :
    (s.dropWaiters cs).claim d = s.claim d := by
  induction cs generalizing s with
  | nil => rfl
  | cons c cs ih =>
    rw [State.dropWaiters_cons, ih h.after (fun hx => hd (List.mem_cons_of_mem _ hx)),
      State.dropWaiter_claim (h.2 c List.mem_cons_self).2.2,
      if_neg (fun (hx : c = d) => hd (hx ▸ List.mem_cons_self))]

theorem State.dropWaiters_claim {cs : List ClaimIx} (h : WaitOn s e cs) {d : ClaimIx} (hd : d ∈ cs) :
    (s.dropWaiters cs).claim d = s.leftWaiter d := by
  induction cs generalizing s with
  | nil => cases hd
  | cons c cs ih =>
    have hn := (h.2 c List.mem_cons_self).2.2
    have hc := (List.nodup_cons.1 h.1).1
    rw [State.dropWaiters_cons]
    by_cases hdc : d ∈ cs
    · rw [ih h.after hdc, State.leftWaiter, State.leftWaiter, State.dropWaiter_told_later hn hc hdc,
        State.dropWaiter_claim_later hn hc hdc]
    · have heq : c = d := ((List.mem_cons.1 hd).resolve_right hdc).symm
      rw [State.dropWaiters_claim_other h.after hdc, State.dropWaiter_claim hn, if_pos heq, heq]

theorem State.dropWaiters_entry {cs : List ClaimIx} (h : WaitOn s e cs) :
    (s.dropWaiters cs).entry e =
      { s.entry e with waiters := (s.entry e).waiters.filter (fun d => !cs.contains d) } := by
  induction cs generalizing s with
  | nil => simp [State.dropWaiters]
  | cons c cs ih =>
    obtain ⟨hst, he, -⟩ := h.2 c List.mem_cons_self
    rw [State.dropWaiters_cons, ih h.after, State.dropWaiter_entry hst, if_pos he]
    simp only [Entry.mk.injEq, true_and, and_true, List.filter_filter]
    refine List.filter_congr fun d _ => ?_
    rw [List.contains_cons, Bool.not_or, Bool.and_comm]
    rfl

theorem State.dropWaiters_entry_other {cs : List ClaimIx} (h : WaitOn s e cs) {f : EntryIx}
    (hf : e ≠ f) : (s.dropWaiters cs).entry f = s.entry f := by
  induction cs generalizing s with
  | nil => rfl
  | cons c cs ih =>
    obtain ⟨hst, he, -⟩ := h.2 c List.mem_cons_self
    rw [State.dropWaiters_cons, ih h.after, State.dropWaiter_entry hst, he, if_neg hf]

theorem State.dropWaiters_session {cs : List ClaimIx} (h : WaitOn s e cs) (i : SlotIx) :
    (s.dropWaiters cs).session i = { s.session i with
      waitingCount := (s.session i).waitingCount - cs.countP (fun c => (s.claim c).session == i),
      claimList := (s.session i).claimList.filter (fun c =>
        !(cs.contains c && (s.claim c).session == i && !s.told c)) } := by
  induction cs generalizing s with
  | nil => simp [State.dropWaiters]
  | cons c cs ih =>
    obtain ⟨hst, -, hn⟩ := h.2 c List.mem_cons_self
    have hc := (List.nodup_cons.1 h.1).1
    have hcount : cs.countP (fun d => ((s.dropClaim c .waitExpired).claim d).session == i) =
        cs.countP (fun d => (s.claim d).session == i) := by
      refine List.countP_congr fun d hd => ?_
      rw [State.dropWaiter_claim_later hn hc hd]
    have hlist : ∀ L : List ClaimIx, L.filter (fun d => !(cs.contains d &&
        ((s.dropClaim c .waitExpired).claim d).session == i && !(s.dropClaim c .waitExpired).told d)) =
        L.filter (fun d => !(cs.contains d && (s.claim d).session == i && !s.told d)) := fun L => by
      refine List.filter_congr fun d _ => ?_
      by_cases hd : d ∈ cs
      · rw [State.dropWaiter_claim_later hn hc hd, State.dropWaiter_told_later hn hc hd]
      · simp [hd]
    rw [State.dropWaiters_cons, ih h.after, hcount, hlist, State.dropWaiter_session hst]
    by_cases hi : (s.claim c).session = i
    · rw [if_pos hi]
      simp only [Session.mk.injEq, true_and, and_true, List.countP_cons, hi, beq_self_eq_true, if_true]
      refine ⟨by omega, ?_⟩
      by_cases ht : s.told c = true
      · rw [if_pos ht]
        refine List.filter_congr fun d _ => ?_
        by_cases hdc : d = c
        · subst hdc; simp [ht]
        · simp [hdc]
      · rw [if_neg ht, List.filter_filter]
        refine List.filter_congr fun d _ => ?_
        by_cases hdc : d = c
        · subst hdc; simp [ht, hi]
        · simp [hdc]
    · rw [if_neg hi]
      simp only [Session.mk.injEq, true_and, and_true, List.countP_cons]
      refine ⟨by simp [hi], List.filter_congr fun d _ => ?_⟩
      by_cases hdc : d = c
      · have hother : ((s.claim d).session == i) = false := by rw [hdc]; simpa using hi
        simp [hother]
      · simp [hdc]

theorem State.dropWaiters_line {cs : List ClaimIx} (h : WaitOn s e cs) (l : LineIx) :
    (s.dropWaiters cs).line l = { s.line l with
      notices := (s.line l).notices ++
        (cs.filter (fun c => s.told c && lineOf (s.claim c).session == l)).map .claim } := by
  induction cs generalizing s with
  | nil => simp [State.dropWaiters]
  | cons c cs ih =>
    obtain ⟨-, -, hn⟩ := h.2 c List.mem_cons_self
    have hc := (List.nodup_cons.1 h.1).1
    have hlater : cs.filter (fun d => (s.dropClaim c .waitExpired).told d &&
        lineOf ((s.dropClaim c .waitExpired).claim d).session == l) =
        cs.filter (fun d => s.told d && lineOf (s.claim d).session == l) := by
      refine List.filter_congr fun d hd => ?_
      rw [State.dropWaiter_claim_later hn hc hd, State.dropWaiter_told_later hn hc hd]
    rw [State.dropWaiters_cons, ih h.after, hlater, State.dropWaiter_line hn, List.filter_cons]
    split <;> simp

theorem State.dropWaiters_writes {cs : List ClaimIx} (h : WaitOn s e cs) : s.dropWaiters cs =
    { s with
      claims := (s.dropWaiters cs).claims, entries := (s.dropWaiters cs).entries,
      sessions := (s.dropWaiters cs).sessions, lines := (s.dropWaiters cs).lines,
      deadlines := s.deadlines.filter (fun d => cs.all (fun c => !refersToWait c d.ref)),
      freeList := s.freeList ++ cs.filter (fun c => !s.told c),
      freeClaimCount := s.freeClaimCount + cs.countP (fun c => !s.told c) } := by
  induction cs generalizing s with
  | nil => simp [State.dropWaiters]
  | cons c cs ih =>
    have hn := (h.2 c List.mem_cons_self).2.2
    have hc := (List.nodup_cons.1 h.1).1
    have hfilter : cs.filter (fun d => !(s.dropClaim c .waitExpired).told d) =
        cs.filter (fun d => !s.told d) :=
      List.filter_congr fun d hd => by rw [State.dropWaiter_told_later hn hc hd]
    have hcount : cs.countP (fun d => !(s.dropClaim c .waitExpired).told d) =
        cs.countP (fun d => !s.told d) :=
      List.countP_congr fun d hd => by rw [State.dropWaiter_told_later hn hc hd]
    have hdeadlines : (s.deadlines.filter (fun d => !refersToWait c d.ref)).filter
        (fun d => cs.all (fun c => !refersToWait c d.ref)) =
        s.deadlines.filter (fun d => (c :: cs).all (fun c => !refersToWait c d.ref)) := by
      rw [List.filter_filter]
      exact List.filter_congr fun d _ => by rw [List.all_cons, Bool.and_comm]
    have hfree : s.freeList ++ (if s.told c then [] else [c]) ++ cs.filter (fun d => !s.told d) =
        s.freeList ++ (c :: cs).filter (fun d => !s.told d) := by
      cases ht : s.told c <;> simp [ht]
    have hnumber : s.freeClaimCount + (if s.told c then 0 else 1) + cs.countP (fun d => !s.told d) =
        s.freeClaimCount + (c :: cs).countP (fun d => !s.told d) := by
      cases ht : s.told c <;> (simp [ht]; try omega)
    have hdrop := State.dropWaiter_writes s c
    have hrest := ih h.after
    rw [hfilter, hcount] at hrest
    rw [State.dropWaiters_cons]
    generalize s.dropClaim c .waitExpired = u at hdrop hrest
    rw [hrest]
    generalize u.dropWaiters cs = v
    rw [hdrop]
    simp only [hdeadlines, hfree, hnumber]

/-- The waiters of an entry leave as R11 says. -/
theorem State.waitersLeave (h : WaitOn s e (s.entry e).waiters) :
    WaitersLeave s (s.dropWaiters (s.entry e).waiters) e := by
  refine ⟨State.dropWaiters_writes h, fun c hc => State.dropWaiters_claim h hc,
    fun c hc => State.dropWaiters_claim_other h hc, ?_, fun f hf => ?_, State.dropWaiters_session h,
    State.dropWaiters_line h⟩
  · rw [State.dropWaiters_entry h, filter_not_contains_self]
  · exact State.dropWaiters_entry_other h (by simpa [eq_comm] using hf)

/-! ### Every grant pass without a pending upgrade -/

theorem State.length_admitted (s : State) (e : EntryIx) :
    ((s.entry e).waiters.take (s.admits e)).length = s.admits e :=
  List.length_take_of_le (State.admits_le s e)

/-- The entry after the waiters that the modes admit have been granted. -/
theorem State.grantAll_admitted_entry (hne : (s.entry e).holders ≠ [] ∨ (s.entry e).waiters ≠ []) :
    (s.grantAll e ((s.entry e).waiters.take (s.admits e))).entry e = { s.entry e with
      holders := (s.entry e).holders ++ (s.entry e).waiters.take (s.admits e),
      waiters := (s.entry e).waiters.drop (s.admits e),
      mode := if (s.entry e).holders = [] then
          (match (s.entry e).waiters.head? with
            | some c => (s.claim c).mode
            | none => (s.entry e).mode)
        else (s.entry e).mode,
      latestToken := if s.admits e = 0 then (s.entry e).latestToken
        else s.tokenCounter + s.admits e - 1 } := by
  have hnone : (s.entry e).waiters.take (s.admits e) = [] ↔ s.admits e = 0 := by
    rw [← List.length_eq_zero_iff, State.length_admitted]
  rw [State.grantAll_entry (List.take_append_drop (s.admits e) _).symm, State.length_admitted]
  simp only [hnone]
  by_cases hh : (s.entry e).holders = []
  · have hpos := State.admits_pos hh (hne.resolve_left fun hx => hx hh)
    rw [if_pos hh, if_pos hh, List.head?_take, if_neg (by omega)] <;> rfl
  · rw [if_neg hh, if_neg hh]

/-- No token for the head: an entry with holders stays, one without loses its waiters and is retired. -/
theorem State.grantPass_exhausted_retires {rest : List ClaimIx} (hu : (s.entry e).upgrade = none)
    (hw : (s.entry e).waiters = c :: rest) (hs : (s.session (s.claim c).session).state ≠ .ending)
    (hh : (s.entry e).holders = []) (ht : ¬ s.canIssue = true) (hwait : WaitOn s e (s.entry e).waiters) :
    ∃ w, WaitersLeave (s.raise .tokensLow) w e ∧ EntryRetired w (s.grantPass e) e := by
  refine ⟨_, State.waitersLeave (s := s.raise .tokensLow) hwait, ?_⟩
  rw [State.grantPass_of_exhausted hu hw hs (State.headGrantable_iff.2 (.inl hh)) ht,
    State.settleEntry_of_waiters (s := s.raise .tokensLow) hh (by rw [show ((s.raise .tokensLow).entry e).waiters = _ from hw]; simp),
    State.detachWaiters_eq]
  exact State.retireEntry_spec _ e

end Sys2Proof.Machine

open Sys2Proof Sys2Proof.Machine

/-- Settles O24: a pass with enough tokens is the grant of a prefix of the queue in turn; every other one is
an equation on the head of the queue. -/
theorem grantPassAdmitsFromTheHead : Obligations.GrantPassAdmitsFromTheHead := by
  refine ⟨?_, ?_, fun s e c hu hs => ?_⟩
  · intro s e x n t hu hs ht hne
    have hpass : t = s.grantAll e (x.waiters.take n) := State.grantPass_eq_grantAll hu hs ht hne
    have hwrites := State.grantAll_writes s e (x.waiters.take n)
    have hlen : (x.waiters.take n).length = n := State.length_admitted s e
    rw [← hpass, hlen] at hwrites
    refine ⟨hwrites, ?_, fun f hf => ?_, fun c hc => ?_, fun c hc => ?_,
      fun k c hk hkc hcount => ?_, fun i => ?_, fun hn l => ?_⟩
    · rw [hpass]; exact State.grantAll_admitted_entry hne
    · rw [hpass, State.grantAll_entry_other (fun h => hf (by simp [h]))]
    · rw [hpass]; exact State.grantAll_claim_held hc
    · rw [hpass]; exact State.grantAll_claim_other hc
    · have htake : (x.waiters.take n)[k]? = some c := by rw [List.getElem?_take_of_lt hk]; exact hkc
      rw [hpass]
      refine State.grantAll_claim htake (le_antisymm ?_ ?_)
      · rw [← hcount]; exact (List.take_sublist n _).count_le _
      · exact List.count_pos_iff.2 (List.mem_of_getElem? htake)
    · rw [hpass]; exact State.grantAll_session s e _ i
    · rw [hpass]; exact State.grantAll_line (hn.sublist (List.take_sublist n _)) l
  · intro s e hu x
    refine ⟨fun hh hw => ?_, ?_⟩
    · rw [State.grantPass_of_no_upgrade hu, State.grantHeads_nil hw, State.settleEntry_of_empty hh hw]
      exact State.retireEntry_spec s e
    intro c rest hw ending grantable
    refine ⟨State.grantPass_of_ending_head hu hw, fun hs hg => ?_, fun hs hg ht => ?_, fun hs hg ht => ?_⟩
    · exact State.grantPass_of_not_grantable hu hw hs (fun hx => hg (State.headGrantable_iff.1 hx))
    · exact ⟨_, State.grantWaiting_spec s e c, State.grantPass_of_granted hu hw hs
        (State.headGrantable_iff.2 hg) (State.canIssue_iff.2 ht)⟩
    · have hno : ¬ s.canIssue = true := fun hx => by rw [State.canIssue_iff] at hx; omega
      refine ⟨fun hh => ?_, fun hh hn hwait => ?_⟩
      · rw [State.grantPass_of_exhausted hu hw hs (State.headGrantable_iff.2 hg) hno]
        exact State.settleEntry_of_holders hh
      · exact State.grantPass_exhausted_retires hu hw hs hh hno ⟨hn, hwait⟩
  · refine ⟨s.clearUpgrade e c, State.grantPass_of_ending_upgrade hu hs, State.clearUpgrade_writes s e c,
      ?_, fun d hd => ?_, ?_, fun f hf => ?_⟩
    · rw [State.clearUpgrade_claim, if_pos rfl]
    · rw [State.clearUpgrade_claim, if_neg (fun h => hd (by simp [h]))]
    · rw [State.clearUpgrade_entry, if_pos rfl]
    · rw [State.clearUpgrade_entry, if_neg (fun h => hf (by simp [h]))]
end

section
/-!
What the clear sweep's freeing of claims and retiring of entries leave, record by record (R17, R25, R50, R53,
R108, R119): `Freeing s t G R` says that from `s` to `t` the claims `G` have been freed in this order, and the
entries `R` retired.
-/

namespace Sys2Proof.Machine

variable {s t : State} {G : List ClaimIx} {R : List EntryIx} {c : ClaimIx} {e : EntryIx}

/-! ### The counts of the namespaces and NS_DRAINED (R108) -/

/-- From `s` to `t` the namespace has drained. -/
abbrev DrainedNow (s t : State) (n : NsIx) : Prop :=
  (s.ns n).state = .draining ∧ (s.ns n).revokeSweep = false ∧ (s.ns n).occupied ≠ 0 ∧
    (t.ns n).occupied = 0

/-- From `s` to `t` the occupied counts have only fallen, a DRAINING namespace that came to 0 is DISABLED, and
NS_DRAINED is raised for it alone. -/
structure Draining (s t : State) : Prop where
  le : ∀ n, (t.ns n).occupied ≤ (s.ns n).occupied
  ns : ∀ n, t.ns n = { s.ns n with
    occupied := (t.ns n).occupied, state := if DrainedNow s t n then .disabled else (s.ns n).state }
  raised : (∃ n, DrainedNow s t n) → t.deviceCauses = s.deviceCauses ||| 0x20#7
  quiet : (∀ n, ¬ DrainedNow s t n) → t.deviceCauses = s.deviceCauses

theorem Draining.refl (s : State) : Draining s s where
  le _ := le_refl _
  ns n := by rw [if_neg (fun h => h.2.2.1 h.2.2.2)]
  raised := fun ⟨_, h⟩ => absurd h.2.2.2 h.2.2.1
  quiet _ := rfl

theorem Draining.of_same {u : State} (h : Draining s t) (hn : u.namespaces = t.namespaces)
    (hc : u.deviceCauses = t.deviceCauses) : Draining s u := by
  have hns : ∀ n, u.ns n = t.ns n := State.ns_congr hn
  have hd : ∀ n, DrainedNow s u n ↔ DrainedNow s t n := fun n => by
    unfold DrainedNow; rw [hns]
  refine ⟨fun n => by rw [hns]; exact h.le n, fun n => ?_, fun ⟨n, hx⟩ => ?_, fun hx => ?_⟩
  · simp only [hd]
    rw [hns]; exact h.ns n
  · rw [hc]; exact h.raised ⟨n, (hd n).1 hx⟩
  · rw [hc]; exact h.quiet fun n hy => hx n ((hd n).2 hy)

/-- A retired entry takes one from its namespace's count, which may drain it. -/
theorem Draining.retireEntry (h : Draining s t) (hocc : (t.ns (t.entry e).key.ns).occupied ≠ 0) :
    Draining s (t.retireEntry e) := by
  generalize hm : (t.entry e).key.ns = m at hocc
  have hother : ∀ n, m ≠ n → (t.retireEntry e).ns n = t.ns n := fun n hn => by
    rw [State.retireEntry_ns, hm, if_neg hn]
  have hcount : ((t.retireEntry e).ns m).occupied = (t.ns m).occupied - 1 := by
    rw [State.retireEntry_ns, hm, if_pos rfl]
  have hbefore : ¬ DrainedNow s t m := fun hx => hocc hx.2.2.2
  have hstate := h.ns m
  rw [if_neg hbefore] at hstate
  have hle := h.le m
  have hdrain : (t.ns m).state = .draining ∧ (t.ns m).revokeSweep = false ∧ (t.ns m).occupied - 1 = 0 ↔
      DrainedNow s (t.retireEntry e) m := by
    unfold DrainedNow
    rw [hcount, hstate]
    exact ⟨fun hx => ⟨hx.1, hx.2.1, by omega, hx.2.2⟩, fun hx => ⟨hx.1, hx.2.1, hx.2.2.2⟩⟩
  have hsame : ∀ n, m ≠ n → (DrainedNow s (t.retireEntry e) n ↔ DrainedNow s t n) := fun n hn => by
    unfold DrainedNow; rw [hother n hn]
  have hcauses := State.retireEntry_causes t e
  rw [hm] at hcauses
  refine ⟨fun n => ?_, fun n => ?_, fun ⟨n, hx⟩ => ?_, fun hx => ?_⟩
  · by_cases hn : m = n
    · subst hn; rw [hcount]; omega
    · rw [hother n hn]; exact h.le n
  · by_cases hn : m = n
    · subst hn
      by_cases hd : DrainedNow s (t.retireEntry e) m
      · rw [if_pos hd, hcount, State.retireEntry_ns, hm, if_pos rfl, if_pos (hdrain.2 hd), hstate]
      · rw [if_neg hd, hcount, State.retireEntry_ns, hm, if_pos rfl, if_neg (fun hx => hd (hdrain.1 hx)),
          hstate]
    · simp only [hsame n hn]
      rw [hother n hn]; exact h.ns n
  · by_cases hd : DrainedNow s (t.retireEntry e) m
    · rw [hcauses, if_pos (hdrain.2 hd)]
      by_cases hold : ∃ k, DrainedNow s t k
      · rw [h.raised hold, BitVec.or_assoc, BitVec.or_self]
      · rw [h.quiet fun k hk => hold ⟨k, hk⟩]
    · have hn : m ≠ n := fun heq => hd (heq ▸ hx)
      rw [hcauses, if_neg (fun hy => hd (hdrain.1 hy)), BitVec.or_zero]
      exact h.raised ⟨n, (hsame n hn).1 hx⟩
  · rw [hcauses, if_neg (fun hy => hx m (hdrain.1 hy)), BitVec.or_zero]
    refine h.quiet fun n hy => ?_
    by_cases hn : m = n
    · subst hn; exact hbefore hy
    · exact hx n ((hsame n hn).2 hy)

/-- The namespace of an occupied entry counts it (R13). -/
theorem EntryLaws.occupied_ne_zero (h : EntryLaws s) (he : (s.entry e).occupied = true) :
    (s.ns (s.entry e).key.ns).occupied ≠ 0 := by
  rw [h.occupiedCount, State.countP_entries, ← Nat.pos_iff_ne_zero, List.countP_pos_iff]
  exact ⟨e, List.mem_finRange e, by simp [he]⟩

/-! ### Entries that have lost claims -/

/-- An entry without the claims `G`. -/
def entryLess (G : List ClaimIx) (x : Entry) : Entry :=
  { x with holders := x.holders.filter (fun c => !G.contains c),
           waiters := x.waiters.filter (fun c => !G.contains c),
           upgrade := x.upgrade.filter (fun c => !G.contains c) }

theorem entryLess_nil (x : Entry) : entryLess [] x = x := by
  obtain ⟨occupied, key, mode, holders, waiters, upgrade, token⟩ := x
  cases upgrade <;> simp [entryLess]

theorem filter_not_append_singleton (L G : List ClaimIx) (c : ClaimIx) :
    L.filter (fun d => !(G ++ [c]).contains d) =
      (L.filter (fun d => !G.contains d)).filter (fun d => d != c) := by
  rw [List.filter_filter]
  refine List.filter_congr fun d _ => ?_
  by_cases hd : d = c <;> simp [hd]

theorem filter_ne_self {L : List ClaimIx} (h : c ∉ L) : L.filter (fun d => d != c) = L :=
  List.filter_eq_self.2 fun d hd => by simpa using fun (hx : d = c) => h (hx ▸ hd)

theorem option_filter_not_append_singleton (o : Option ClaimIx) (hG : c ∉ G) :
    o.filter (fun d => !(G ++ [c]).contains d) =
      if o.filter (fun d => !G.contains d) = some c then none else o.filter (fun d => !G.contains d) := by
  cases o with
  | none => rfl
  | some d =>
    by_cases hd : d = c
    · subst hd; simp [Option.filter, hG]
    · by_cases hdG : d ∈ G <;> simp [Option.filter, hdG, hd]

/-- The claim `c` leaves an entry that has lost others: what `entryWithout` says of it. -/
theorem entryLess_append_singleton (h : ClaimLaws s) (hG : c ∉ G) (e : EntryIx) :
    entryLess (G ++ [c]) (s.entry e) = if (s.claim c).entry = e then
      entryWithout (s.claim c).state c (entryLess G (s.entry e)) else entryLess G (s.entry e) := by
  have holders := (h.holders e).2 c
  have waiters := (h.waiters e).2 c
  have hupgrade : (s.entry e).upgrade = some c → c ∈ (s.entry e).holders := h.upgradeHolds e c
  have honto : entryLess (G ++ [c]) (s.entry e) = { entryLess G (s.entry e) with
      holders := (entryLess G (s.entry e)).holders.filter (fun d => d != c),
      waiters := (entryLess G (s.entry e)).waiters.filter (fun d => d != c),
      upgrade := if (entryLess G (s.entry e)).upgrade = some c then none
        else (entryLess G (s.entry e)).upgrade } := by
    simp only [entryLess, filter_not_append_singleton, option_filter_not_append_singleton _ hG]
    rfl
  have hholders : c ∉ (s.entry e).holders → (entryLess G (s.entry e)).holders.filter (fun d => d != c) =
      (entryLess G (s.entry e)).holders := fun hx => filter_ne_self fun hy => hx (List.mem_of_mem_filter hy)
  have hwaiters : c ∉ (s.entry e).waiters → (entryLess G (s.entry e)).waiters.filter (fun d => d != c) =
      (entryLess G (s.entry e)).waiters := fun hx => filter_ne_self fun hy => hx (List.mem_of_mem_filter hy)
  have hup : c ∉ (s.entry e).holders → (if (entryLess G (s.entry e)).upgrade = some c then none
      else (entryLess G (s.entry e)).upgrade) = (entryLess G (s.entry e)).upgrade := fun hx => by
    refine if_neg fun hy => hx (hupgrade ?_)
    exact (Option.filter_eq_some_iff.1 hy).1
  rw [honto]
  by_cases he : (s.claim c).entry = e
  · rw [if_pos he]
    cases hst : (s.claim c).state with
    | held =>
      rw [hwaiters (fun hx => by simp [waiters, hst] at hx)]
      rfl
    | waiting =>
      have hno : c ∉ (s.entry e).holders := fun hx => by simp [holders, hst] at hx
      rw [hholders hno, hup hno]
      rfl
    | detached =>
      have hno : c ∉ (s.entry e).holders := fun hx => by simp [holders, hst] at hx
      rw [hholders hno, hup hno, hwaiters (fun hx => by simp [waiters, hst] at hx)]
      rfl
    | free =>
      have hno : c ∉ (s.entry e).holders := fun hx => by simp [holders, hst] at hx
      rw [hholders hno, hup hno, hwaiters (fun hx => by simp [waiters, hst] at hx)]
      rfl
  · have hno : c ∉ (s.entry e).holders := fun hx => he (holders.1 hx).2
    rw [if_neg he, hholders hno, hup hno, hwaiters (fun hx => he (waiters.1 hx).2)]

theorem entryWithout_reset (st : ClaimState) (c : ClaimIx) :
    entryWithout st c Entry.reset = Entry.reset := by
  cases st <;> rfl

/-! ### The run of freeings and retirements -/

/-- A notice item stays on a line's list: it is not the item of a claim of `G` (R50). -/
def itemStays (s : State) (G : List ClaimIx) (l : LineIx) (it : NoticeItem) : Bool :=
  match it with
  | .claim c => !(G.contains c && (s.claim c).notice != none && lineOf (s.claim c).session == l)
  | .sessionEnded _ => true

/-- From `s` to `t` the claims `G` have been freed in this order, and the entries `R` retired. -/
structure Freeing (s t : State) (G : List ClaimIx) (R : List EntryIx) : Prop where
  nodup : G.Nodup
  used : ∀ c ∈ G, (s.claim c).state ≠ .free
  claim : ∀ c, t.claim c =
    if c ∈ G then { Claim.reset with useCount := (s.claim c).useCount } else s.claim c
  entry : ∀ e, t.entry e = if e ∈ R then Entry.reset else entryLess G (s.entry e)
  chain : ∀ b, t.chain b = (s.chain b).filter (fun e => !R.contains e)
  claimList : ∀ i, (t.session i).claimList = (s.session i).claimList.filter (fun c => !G.contains c)
  freeList : t.freeList = s.freeList ++ G
  freeClaimCount : t.freeClaimCount = s.freeClaimCount + G.length
  deadlines : t.deadlines = s.deadlines.filter (fun d => G.all (fun c => !refersToWait c d.ref))
  notices : ∀ l, (t.line l).notices = (s.line l).notices.filter (itemStays s G l)
  drained : Draining s t

theorem Freeing.refl (s : State) : Freeing s s [] [] where
  nodup := List.nodup_nil
  used c hc := by cases hc
  claim c := by simp
  entry e := by rw [entryLess_nil]; simp
  chain b := by simp
  claimList i := by simp
  freeList := by simp
  freeClaimCount := by simp
  deadlines := by simp
  notices l := by
    rw [List.filter_eq_self.2]
    intro it _
    cases it <;> rfl
  drained := .refl s

/-- Freeing one more claim. -/
theorem Freeing.freeClaim (h : Freeing s t G R) (hs : ClaimLaws s) (hG : c ∉ G)
    (hc : (s.claim c).state ≠ .free) : Freeing s (t.freeClaim c) (G ++ [c]) R := by
  have hrecord : t.claim c = s.claim c := by rw [h.claim, if_neg hG]
  refine ⟨?_, fun d hd => ?_, fun d => ?_, fun e => ?_, fun b => ?_, fun i => ?_, ?_, ?_, ?_, fun l => ?_,
    ?_⟩
  · exact List.nodup_append.2 ⟨h.nodup, List.nodup_singleton c, by
      rintro a ha b hb rfl; exact hG (List.mem_singleton.1 hb ▸ ha)⟩
  · rcases List.mem_append.1 hd with hd | hd
    · exact h.used d hd
    · rw [List.mem_singleton.1 hd]; exact hc
  · rw [State.freeClaim_claim, hrecord, h.claim]
    by_cases hd : c = d
    · subst hd; simp
    · simp [hd, Ne.symm hd]
  · rw [State.freeClaim_entry, hrecord, h.entry]
    by_cases he : e ∈ R
    · rw [if_pos he, if_pos he, entryWithout_reset, ite_self]
    · rw [if_neg he, if_neg he, entryLess_append_singleton hs hG]
  · rw [← h.chain]; exact State.chain_congr (by simp) b
  · rw [State.freeClaim_session, hrecord, filter_not_append_singleton, ← h.claimList]
    by_cases hi : (s.claim c).session = i
    · rw [if_pos hi]
    · rw [if_neg hi, filter_ne_self]
      rw [h.claimList]
      exact fun hx => hi (((hs.claimList i).2 c).1 (List.mem_of_mem_filter hx)).2
  · rw [State.freeClaim_writes, h.freeList, List.append_assoc]
  · rw [State.freeClaim_writes, h.freeClaimCount, List.length_append, List.length_singleton,
      Nat.add_assoc]
  · rw [State.freeClaim_writes, h.deadlines, List.filter_filter]
    refine List.filter_congr fun d _ => ?_
    simp [Bool.and_comm]
  · rw [State.freeClaim_line, hrecord]
    have hstep : (s.line l).notices.filter (itemStays s (G ++ [c]) l) =
        if lineOf (s.claim c).session = l ∧ (s.claim c).notice ≠ none then
          ((s.line l).notices.filter (itemStays s G l)).filter (fun it => it != .claim c)
        else (s.line l).notices.filter (itemStays s G l) := by
      split
      · rename_i hl
        rw [List.filter_filter]
        refine List.filter_congr fun it _ => ?_
        cases it with
        | claim d => by_cases hd : d = c <;> simp [itemStays, hd, hl.1, hl.2]
        | sessionEnded j => simp [itemStays]
      · rename_i hl
        refine List.filter_congr fun it _ => ?_
        cases it with
        | claim d =>
          by_cases hd : d = c
          · subst hd
            simp only [not_and, not_not] at hl
            by_cases hline : lineOf (s.claim d).session = l
            · simp [itemStays, hG, hl hline]
            · simp [itemStays, hG, hline]
          · simp [itemStays, hd]
        | sessionEnded j => rfl
    rw [hstep, ← h.notices]
    by_cases hl : lineOf (s.claim c).session = l <;> by_cases hn : (s.claim c).notice = none <;>
      simp [hl, hn]
  · exact h.drained.of_same (by simp) (by simp)

/-- Freeing claims in turn. -/
theorem Freeing.freeClaims {cs : List ClaimIx} (h : Freeing s t G R) (hs : ClaimLaws s)
    (hn : (G ++ cs).Nodup) (hc : ∀ d ∈ cs, (s.claim d).state ≠ .free) :
    Freeing s (cs.foldl (fun acc d => acc.freeClaim d) t) (G ++ cs) R := by
  induction cs generalizing t G with
  | nil => rw [List.append_nil]; exact h
  | cons c cs ih =>
    have hG : c ∉ G := fun hx =>
      (List.nodup_append.1 hn).2.2 c hx c List.mem_cons_self rfl
    have hassoc : G ++ c :: cs = G ++ [c] ++ cs := by simp
    rw [hassoc] at hn ⊢
    exact ih (h.freeClaim hs hG (hc c List.mem_cons_self)) hn
      fun d hd => hc d (List.mem_cons_of_mem _ hd)

/-- Retiring one more entry. -/
theorem Freeing.retireEntry (h : Freeing s t G R) (hs : EntryLaws s) (he : (t.entry e).occupied = true)
    (hn : (t.ns (t.entry e).key.ns).occupied ≠ 0) : Freeing s (t.retireEntry e) G (e :: R) := by
  have hR : e ∉ R := fun hx => by rw [h.entry, if_pos hx] at he; cases he
  have hkey : (t.entry e).key = (s.entry e).key := by rw [h.entry, if_neg hR]; rfl
  refine ⟨h.nodup, h.used, fun d => ?_, fun f => ?_, fun b => ?_, fun i => ?_, ?_, ?_, ?_, fun l => ?_,
    h.drained.retireEntry hn⟩
  · rw [← h.claim]; exact State.claim_congr (by simp) d
  · rw [State.retireEntry_entry, h.entry]
    by_cases hf : e = f
    · subst hf; simp
    · simp [hf, Ne.symm hf]
  · have hfilter : (s.chain b).filter (fun f => !(e :: R).contains f) =
        (t.chain b).filter (fun f => f != e) := by
      rw [h.chain, List.filter_filter]
      refine List.filter_congr fun f _ => ?_
      by_cases hf : f = e <;> simp [hf]
    rw [State.retireEntry_chain, hfilter, hkey]
    by_cases hb : bucketOf (s.entry e).key = b
    · rw [if_pos hb, hb]
    · rw [if_neg hb]
      refine (List.filter_eq_self.2 fun f hf => ?_).symm
      rw [h.chain] at hf
      have hbucket := ((hs.chains b f).1 (List.mem_of_mem_filter hf)).2
      simpa using fun (hx : f = e) => hb (hx ▸ hbucket)
  · rw [← h.claimList]; simp
  · rw [← h.freeList]; simp
  · rw [← h.freeClaimCount]; simp
  · rw [← h.deadlines]; simp
  · rw [← h.notices]; simp

end Sys2Proof.Machine
end

section
/-!
The clear step's run over a claim list: which claims it frees and which entries it retires (R17, R53, R96).
-/

namespace Sys2Proof.Machine

variable {s t : State} {G L P : List ClaimIx} {R : List EntryIx} {c : ClaimIx} {e : EntryIx}

/-! ### One claim (R17, R53) -/

/-- The claims that the clearing of a claim frees, in order. -/
def State.clears (s : State) (c : ClaimIx) : List ClaimIx :=
  match (s.claim c).state with
  | .free => []
  | .detached => [c]
  | .waiting => [c]
  | .held =>
    c :: if (s.entry (s.claim c).entry).holders = [c] then (s.entry (s.claim c).entry).waiters else []

/-- The entry that the clearing of a claim retires, if any: the one it was the only holder of. -/
def State.empties (s : State) (c : ClaimIx) : List EntryIx :=
  if (s.claim c).state = .held ∧ (s.entry (s.claim c).entry).holders = [c] then [(s.claim c).entry] else []

theorem State.clears_free (h : (s.claim c).state = .free) : s.clears c = [] := by
  simp [State.clears, h]

theorem State.clears_off_lock (h : (s.claim c).state = .detached ∨ (s.claim c).state = .waiting) :
    s.clears c = [c] := by
  rcases h with h | h <;> simp [State.clears, h]

theorem State.clears_held (h : (s.claim c).state = .held) : s.clears c =
    c :: if (s.entry (s.claim c).entry).holders = [c] then (s.entry (s.claim c).entry).waiters
      else [] := by
  simp [State.clears, h]

theorem State.empties_of_not_held (h : (s.claim c).state ≠ .held) : s.empties c = [] :=
  if_neg fun hx => h hx.1

theorem filter_ne_eq_nil_iff {L : List ClaimIx} (hn : L.Nodup) (hc : c ∈ L) :
    L.filter (fun d => d != c) = [] ↔ L = [c] := by
  constructor
  · intro h
    have hall : ∀ d ∈ L, d = c := by simpa [List.filter_eq_nil_iff] using h
    cases L with
    | nil => cases hc
    | cons a as =>
      obtain ⟨ha, -⟩ := List.nodup_cons.1 hn
      have hac : a = c := hall a List.mem_cons_self
      cases as with
      | nil => rw [hac]
      | cons b bs =>
        have hbc : b = c := hall b (List.mem_cons_of_mem _ List.mem_cons_self)
        exact absurd (by rw [hac, hbc]; exact List.mem_cons_self) ha
  · rintro rfl
    simp

theorem State.freeClaims_namespaces (s : State) (cs : List ClaimIx) :
    (cs.foldl (fun acc d => acc.freeClaim d) s).namespaces = s.namespaces := by
  induction cs generalizing s with
  | nil => rfl
  | cons c cs ih => rw [List.foldl_cons, ih]; simp

namespace Freeing

/-- A claim in use has not been freed, and its record is as it was. -/
theorem not_mem (h : Freeing s t G R) (hc : (t.claim c).state ≠ .free) : c ∉ G := fun hx => by
  rw [h.claim, if_pos hx] at hc; exact hc rfl

theorem claim_eq (h : Freeing s t G R) (hc : (t.claim c).state ≠ .free) : t.claim c = s.claim c := by
  rw [h.claim, if_neg (h.not_mem hc)]

/-- An occupied entry has not been retired. -/
theorem entry_not_mem (h : Freeing s t G R) (he : (t.entry e).occupied = true) : e ∉ R := fun hx => by
  rw [h.entry, if_pos hx] at he; cases he

theorem entry_eq (h : Freeing s t G R) (he : (t.entry e).occupied = true) :
    t.entry e = entryLess G (s.entry e) := by rw [h.entry, if_neg (h.entry_not_mem he)]

/-- The clearing of a claim frees the claims and retires the entry that it is said to. -/
theorem clearClaim (h : Freeing s t G R) (hs : LawsBut none s) (ht : LawsBut none t) (c : ClaimIx) :
    Freeing s (t.clearClaim c) (G ++ t.clears c) (t.empties c ++ R) := by
  have hone : (t.claim c).state ≠ .free → Freeing s (t.freeClaim c) (G ++ [c]) R := fun hc =>
    h.freeClaim hs.pool (h.not_mem hc) (by rw [← h.claim_eq hc]; exact hc)
  unfold State.clearClaim
  split
  case h_1 hst =>
    rw [State.clears_free hst, State.empties_of_not_held (by simp [hst]), List.append_nil]
    exact h
  case h_2 hst =>
    rw [State.clears_off_lock (.inl hst), State.empties_of_not_held (by simp [hst])]
    exact hone (by simp [hst])
  case h_4 hst =>
    have hocc := ht.occupied_of_claim (.inr hst)
    have hkept : ((t.freeClaim c).entry (t.claim c).entry).holders =
        (t.entry (t.claim c).entry).holders := by
      rw [State.freeClaim_entry, if_pos rfl, hst]; rfl
    have hholder := ht.hasHolder (t.claim c).entry (by simp) hocc
    rw [State.clears_off_lock (.inr hst), State.empties_of_not_held (by simp [hst])]
    dsimp only
    rw [hkept, if_neg (fun hx => hholder hx.1)]
    exact hone (by simp [hst])
  case h_3 hst =>
    have hocc := ht.occupied_of_claim (.inl hst)
    have hmem := ((ht.pool.holders (t.claim c).entry).2 c).2 ⟨hst, rfl⟩
    obtain ⟨hwn, hwaiters⟩ := ht.pool.waiters (t.claim c).entry
    have hfree := hone (by simp [hst])
    have hleft : (t.freeClaim c).entry (t.claim c).entry =
        entryWithout .held c (t.entry (t.claim c).entry) := by
      rw [State.freeClaim_entry, if_pos rfl, hst]
    have hempty : ((t.freeClaim c).entry (t.claim c).entry).holders = [] ↔
        (t.entry (t.claim c).entry).holders = [c] := by
      rw [hleft]; exact filter_ne_eq_nil_iff (ht.pool.holders _).1 hmem
    rw [State.clears_held hst]
    dsimp only
    simp only [hempty]
    by_cases hsole : (t.entry (t.claim c).entry).holders = [c]
    · rw [if_pos hsole, if_pos hsole, State.empties, if_pos ⟨hst, hsole⟩, hleft]
      have hw : ∀ d ∈ (t.entry (t.claim c).entry).waiters, (t.claim d).state ≠ .free := fun d hd => by
        rw [((hwaiters d).1 hd).1]; simp
      have hall := hfree.freeClaims hs.pool (cs := (t.entry (t.claim c).entry).waiters)
        (List.nodup_append.2 ⟨hfree.nodup, hwn, fun a ha b hb hab => ?_⟩)
        (fun d hd => by rw [← h.claim_eq (hw d hd)]; exact hw d hd)
      · rw [List.append_assoc] at hall
        have hentry : ((t.entry (t.claim c).entry).waiters.foldl (fun acc d => acc.freeClaim d)
            (t.freeClaim c)).entry (t.claim c).entry =
            entryLess (G ++ ([c] ++ (t.entry (t.claim c).entry).waiters)) (s.entry (t.claim c).entry) := by
          rw [hall.entry, if_neg (h.entry_not_mem hocc)]
        have hsame := h.entry_eq hocc
        refine hall.retireEntry hs.table (by rw [hentry]; rw [hsame] at hocc; exact hocc) ?_
        have hkey : (entryLess (G ++ ([c] ++ (t.entry (t.claim c).entry).waiters))
            (s.entry (t.claim c).entry)).key = (t.entry (t.claim c).entry).key := by rw [hsame]; rfl
        have hns : (t.freeClaim c).namespaces = t.namespaces := by simp
        rw [hentry, hkey, State.ns_congr ((State.freeClaims_namespaces _ _).trans hns)]
        exact ht.table.occupied_ne_zero hocc
      · subst hab
        rcases List.mem_append.1 ha with ha | ha
        · exact h.not_mem (hw a hb) ha
        · rw [List.mem_singleton.1 ha] at hb
          have := ((hwaiters c).1 hb).1
          rw [hst] at this; cases this
    · rw [if_neg hsole, if_neg hsole, State.empties, if_neg (fun hx => hsole hx.2)]
      exact hfree

end Freeing

/-! ### The run over a claim list (R96) -/

/-- From `s` to `t` the claims `P` of the list `L` have been cleared: they are freed, and else only waiters of
the entries retired, whose every holder and waiter is freed. -/
structure ClearRun (s t : State) (L P G : List ClaimIx) (R : List EntryIx) : Prop where
  freeing : Freeing s t G R
  laws : LawsBut none t
  done : ∀ c ∈ P, c ∈ G
  reason : ∀ c ∈ G, c ∈ L ∨ ((s.claim c).state = .waiting ∧ (s.claim c).entry ∈ R)
  emptied : ∀ e ∈ R, (s.entry e).occupied = true ∧ (∀ d ∈ (s.entry e).holders, d ∈ G) ∧
    ∀ d ∈ (s.entry e).waiters, d ∈ G

/-- The claims freed with one of the list, as they stood before the run. -/
def State.clearedWith (s : State) (c : ClaimIx) : List ClaimIx :=
  c :: if (s.claim c).state = .held ∧ (s.entry (s.claim c).entry).holders = [c] then
    (s.entry (s.claim c).entry).waiters else []

/-- The list has one claim at most on each lock. -/
def OnePerLock (s : State) (L : List ClaimIx) : Prop :=
  ∀ c ∈ L, ∀ d ∈ L, ((s.claim c).state = .held ∨ (s.claim c).state = .waiting) →
    ((s.claim d).state = .held ∨ (s.claim d).state = .waiting) →
    (s.claim c).entry = (s.claim d).entry → c = d

namespace ClearRun

/-- A claim of the list is cleared next. -/
theorem clearClaim (h : ClearRun s t L P G R) (hs : LawsBut none s) (hc : c ∈ L)
    (hst : (s.claim c).state ≠ .free) :
    ClearRun s (t.clearClaim c) L (P ++ [c]) (G ++ t.clears c) (t.empties c ++ R) := by
  have hfree := h.freeing.clearClaim hs h.laws c
  have waits : ∀ d, d ∈ (t.entry (t.claim c).entry).waiters →
      (s.claim d).state = .waiting ∧ (s.claim d).entry = (t.claim c).entry := fun d hd => by
    have hw := ((h.laws.pool.waiters (t.claim c).entry).2 d).1 hd
    rw [← h.freeing.claim_eq (by rw [hw.1]; simp)]; exact hw
  refine ⟨hfree, h.laws.clearClaim c, fun d hd => ?_, fun d hd => ?_, fun e he => ?_⟩
  · rcases List.mem_append.1 hd with hd | hd
    · exact List.mem_append_left _ (h.done d hd)
    · rw [List.mem_singleton] at hd
      subst hd
      have hgone := (OnlyFreed.clearClaim t d).2
      rw [hfree.claim] at hgone
      by_contra hne
      rw [if_neg hne] at hgone
      exact hst hgone
  · rcases List.mem_append.1 hd with hd | hd
    · exact (h.reason d hd).imp id fun hx => ⟨hx.1, List.mem_append_right _ hx.2⟩
    · cases hstate : (t.claim c).state with
      | free => rw [State.clears_free hstate] at hd; cases hd
      | detached =>
        rw [State.clears_off_lock (.inl hstate), List.mem_singleton] at hd; exact .inl (hd ▸ hc)
      | waiting =>
        rw [State.clears_off_lock (.inr hstate), List.mem_singleton] at hd; exact .inl (hd ▸ hc)
      | held =>
        rw [State.clears_held hstate] at hd
        rcases List.mem_cons.1 hd with rfl | hd
        · exact .inl hc
        · split at hd
          · rename_i hsole
            obtain ⟨hw, he⟩ := waits d hd
            refine .inr ⟨hw, List.mem_append_left _ ?_⟩
            rw [he, State.empties, if_pos ⟨hstate, hsole⟩]; exact List.mem_cons_self
          · cases hd
  · rcases (List.mem_append.1 he).symm with he | he
    · have hold := h.emptied e he
      exact ⟨hold.1, fun d hd => List.mem_append_left _ (hold.2.1 d hd),
        fun d hd => List.mem_append_left _ (hold.2.2 d hd)⟩
    · unfold State.empties at he
      split at he
      · rename_i hsole
        rw [List.mem_singleton] at he
        subst he
        have hocc := h.laws.occupied_of_claim (.inl hsole.1)
        have hentry := h.freeing.entry_eq hocc
        have hholders : (t.entry (t.claim c).entry).holders =
            (s.entry (t.claim c).entry).holders.filter (fun d => !G.contains d) := by rw [hentry]; rfl
        have hwaiters : (t.entry (t.claim c).entry).waiters =
            (s.entry (t.claim c).entry).waiters.filter (fun d => !G.contains d) := by rw [hentry]; rfl
        have hclears := State.clears_held hsole.1
        rw [if_pos hsole.2] at hclears
        refine ⟨by rw [hentry] at hocc; exact hocc, fun d hd => ?_, fun d hd => ?_⟩
        · by_cases hdG : d ∈ G
          · exact List.mem_append_left _ hdG
          · have hmem : d ∈ (t.entry (t.claim c).entry).holders := by
              rw [hholders]; exact List.mem_filter.2 ⟨hd, by simpa using hdG⟩
            rw [hsole.2, List.mem_singleton] at hmem
            rw [hclears, hmem]; simp
        · by_cases hdG : d ∈ G
          · exact List.mem_append_left _ hdG
          · have hmem : d ∈ (t.entry (t.claim c).entry).waiters := by
              rw [hwaiters]; exact List.mem_filter.2 ⟨hd, by simpa using hdG⟩
            rw [hclears]
            exact List.mem_append_right _ (List.mem_cons_of_mem _ hmem)
      · cases he

/-- Where the list has one claim at most on each lock, what a claim clears is what stood with it before. -/
theorem clears_eq (h : ClearRun s t L P G R) (hs : LawsBut none s) (hone : OnePerLock s L)
    (hG : G = P.flatMap s.clearedWith) (hP : ∀ d ∈ P, d ∈ L) (hc : c ∈ L) (hcP : c ∉ P)
    (hst : (s.claim c).state ≠ .free) : t.clears c = s.clearedWith c := by
  have hcG : c ∉ G := fun hx => by
    rw [hG, List.mem_flatMap] at hx
    obtain ⟨p, hp, hx⟩ := hx
    rcases List.mem_cons.1 hx with rfl | hx
    · exact hcP hp
    · split at hx
      · rename_i hsole
        have hw := ((hs.pool.waiters (s.claim p).entry).2 c).1 hx
        exact hcP ((hone c hc p (hP p hp) (.inr hw.1) (.inl hsole.1) hw.2) ▸ hp)
      · cases hx
  have hrecord : t.claim c = s.claim c := by rw [h.freeing.claim, if_neg hcG]
  unfold State.clearedWith
  cases hstate : (s.claim c).state with
  | free => exact absurd hstate hst
  | detached => rw [State.clears_off_lock (.inl (by rw [hrecord]; exact hstate))]; simp
  | waiting => rw [State.clears_off_lock (.inr (by rw [hrecord]; exact hstate))]; simp
  | held =>
    have htstate : (t.claim c).state = .held := by rw [hrecord]; exact hstate
    have hocc := h.laws.occupied_of_claim (.inl htstate)
    have hentry := h.freeing.entry_eq hocc
    have hnotR := h.freeing.entry_not_mem hocc
    rw [hrecord] at hentry hnotR
    have hnot : ∀ d, (s.claim d).entry = (s.claim c).entry →
        (s.claim d).state = .held ∨ (s.claim d).state = .waiting → d ∉ G := fun d hd hlock hdG => by
      rcases h.reason d hdG with hx | hx
      · exact hcG (hone c hc d hx (.inl hstate) hlock hd.symm ▸ hdG)
      · exact hnotR (hd ▸ hx.2)
    have hholders : (t.entry (s.claim c).entry).holders = (s.entry (s.claim c).entry).holders := by
      rw [hentry]
      refine List.filter_eq_self.2 fun d hd => ?_
      have hx := ((hs.pool.holders (s.claim c).entry).2 d).1 hd
      simpa using hnot d hx.2 (.inl hx.1)
    have hwaiters : (t.entry (s.claim c).entry).waiters = (s.entry (s.claim c).entry).waiters := by
      rw [hentry]
      refine List.filter_eq_self.2 fun d hd => ?_
      have hx := ((hs.pool.waiters (s.claim c).entry).2 d).1 hd
      simpa using hnot d hx.2 (.inr hx.1)
    rw [State.clears_held htstate, hrecord, hholders, hwaiters]
    simp

/-- The whole list is cleared. -/
theorem foldl (hs : LawsBut none s) {Q : List ClaimIx} (hL : P ++ Q = L) (hn : L.Nodup)
    (hst : ∀ c ∈ L, (s.claim c).state ≠ .free) (h : ClearRun s t L P G R)
    (horder : OnePerLock s L → G = P.flatMap s.clearedWith) :
    ∃ G' R', ClearRun s (Q.foldl (fun acc c => acc.clearClaim c) t) L L G' R' ∧
      (OnePerLock s L → G' = L.flatMap s.clearedWith) := by
  induction Q generalizing t P G R with
  | nil =>
    rw [List.append_nil] at hL
    subst hL
    exact ⟨G, R, h, horder⟩
  | cons c Q ih =>
    have hc : c ∈ L := by rw [← hL]; simp
    have hcP : c ∉ P := fun hx => by
      rw [← hL] at hn
      exact (List.nodup_append.1 hn).2.2 c hx c List.mem_cons_self rfl
    refine ih (P := P ++ [c]) (by rw [← hL]; simp) (h.clearClaim hs hc (hst c hc)) fun hone => ?_
    rw [List.flatMap_append, ← horder hone, List.flatMap_singleton,
      h.clears_eq hs hone (horder hone) (fun d hd => by rw [← hL]; exact List.mem_append_left _ hd) hc hcP
        (hst c hc)]

end ClearRun

end Sys2Proof.Machine
end

section
/-!
A clear step's end state (R13, R14, R17, R50, R53, R96, R108, R119): the run over the session's claim list,
and the closing of the session's own record, deadline and notice, give what `SessionCleared` says.
-/

namespace Sys2Proof.Machine

variable {s t u : State} {L G : List ClaimIx} {R : List EntryIx} {c : ClaimIx} {e : EntryIx} {i : SlotIx}

/-! ### What the run over a whole claim list has done -/

/-- Every holder of the entry is on the list. -/
def HoldersOn (s : State) (L : List ClaimIx) (e : EntryIx) : Prop :=
  (s.entry e).occupied = true ∧ (s.entry e).holders.filter (fun c => !L.contains c) = []

namespace ClearRun

/-- The entries retired are those whose every holder was on the list (R53). -/
theorem retired_iff (h : ClearRun s u L L G R) (hs : LawsBut none s) : e ∈ R ↔ HoldersOn s L e := by
  constructor
  · intro he
    obtain ⟨hocc, hholders, -⟩ := h.emptied e he
    refine ⟨hocc, List.filter_eq_nil_iff.2 fun d hd => ?_⟩
    have hheld := (((hs.pool.holders e).2 d).1 hd).1
    have hL := (h.reason d (hholders d hd)).resolve_right fun hx => by rw [hheld] at hx; cases hx.1
    simpa using hL
  · rintro ⟨hocc, hleft⟩
    by_contra hne
    have hentry : u.entry e = entryLess G (s.entry e) := by rw [h.freeing.entry, if_neg hne]
    obtain ⟨d, hd⟩ := List.exists_mem_of_ne_nil _
      (h.laws.hasHolder e (by simp) (by rw [hentry]; exact hocc))
    rw [hentry] at hd
    obtain ⟨hd, hdG⟩ := List.mem_filter.1 hd
    have hdL : d ∈ L := by simpa using List.filter_eq_nil_iff.1 hleft d hd
    simp [h.done d hdL] at hdG

/-- The claims freed are those of the list and the waiters of the retired entries. -/
theorem freed_iff (h : ClearRun s u L L G R) (hs : LawsBut none s) : c ∈ G ↔
    c ∈ L ∨ ((s.claim c).state = .waiting ∧ HoldersOn s L (s.claim c).entry) := by
  constructor
  · exact fun hc => (h.reason c hc).imp id fun hx => ⟨hx.1, (h.retired_iff hs).1 hx.2⟩
  · rintro (hc | ⟨hw, he⟩)
    · exact h.done c hc
    · exact (h.emptied _ ((h.retired_iff hs).2 he)).2.2 c (((hs.pool.waiters _).2 c).2 ⟨hw, rfl⟩)

/-- An entry that stays has lost the claims of the list alone. -/
theorem entry_stays (h : ClearRun s u L L G R) (hs : LawsBut none s) (he : ¬ HoldersOn s L e) :
    u.entry e = entryLess L (s.entry e) := by
  have hnot : e ∉ R := fun hx => he ((h.retired_iff hs).1 hx)
  have hsame : ∀ d, d ∈ (s.entry e).holders ∨ d ∈ (s.entry e).waiters → (d ∈ G ↔ d ∈ L) := fun d hd => by
    refine ⟨fun hx => ?_, h.done d⟩
    have hentry : (s.claim d).entry = e := hd.elim (fun hx => (((hs.pool.holders e).2 d).1 hx).2)
      fun hx => (((hs.pool.waiters e).2 d).1 hx).2
    exact (h.reason d hx).resolve_right fun hx => hnot (hentry ▸ hx.2)
  rw [h.freeing.entry, if_neg hnot, entryLess, entryLess]
  congr 1
  · exact List.filter_congr fun d hd => by simp [hsame d (.inl hd)]
  · exact List.filter_congr fun d hd => by simp [hsame d (.inr hd)]
  · have hup := hs.pool.upgradeHolds e
    cases hu : (s.entry e).upgrade with
    | none => rfl
    | some d => simp [Option.filter, hsame d (.inl (hup d hu))]

/-- A claim in use before the run is free after it if the run freed it. -/
theorem gone_eq (h : ClearRun s u L L G R) (c : ClaimIx) :
    ((s.claim c).state != .free && (u.claim c).state == .free) = G.contains c := by
  rw [h.freeing.claim]
  by_cases hc : c ∈ G
  · have := h.freeing.used c hc
    simp [hc, this, Claim.reset]
  · by_cases hst : (s.claim c).state = .free <;> simp [hc, hst]

theorem claimList_eq (h : ClearRun s u L L G R) (hs : LawsBut none s) (i : SlotIx) :
    (u.session i).claimList =
      (s.session i).claimList.filter (fun c => (u.claim c).state != .free) := by
  rw [h.freeing.claimList]
  refine List.filter_congr fun c hc => ?_
  have hused := bne_iff_ne.2 (((hs.pool.claimList i).2 c).1 hc).1
  rw [← h.gone_eq c, hused, Bool.true_and]
  rfl

theorem chain_eq (h : ClearRun s u L L G R) (hs : LawsBut none s) (b : BucketIx) :
    u.chain b = (s.chain b).filter (fun e => (u.entry e).occupied) := by
  rw [h.freeing.chain]
  refine List.filter_congr fun e he => ?_
  have hocc := ((hs.table.chains b e).1 he).1
  rw [h.freeing.entry]
  by_cases hR : e ∈ R
  · simp [hR, Entry.reset]
  · simp [hR, entryLess, hocc]

end ClearRun

/-! ### The closing of the session -/

/-- From `u` to `t` session `i` is closed: its LEASE entry and its SESSION_ENDED item are gone, and the tables
and the claims' lists are as before (R82, R119). -/
structure SessionClosed (i : SlotIx) (u t : State) : Prop where
  entries : t.entries = u.entries
  chains : t.chains = u.chains
  claims : t.claims = u.claims
  freeList : t.freeList = u.freeList
  freeClaimCount : t.freeClaimCount = u.freeClaimCount
  freeEntryCount : t.freeEntryCount = u.freeEntryCount
  namespaces : t.namespaces = u.namespaces
  causes : t.deviceCauses = u.deviceCauses
  lists : ∀ j, (t.session j).claimList = (u.session j).claimList ∧
    (t.session j).heldCount = (u.session j).heldCount ∧
    (t.session j).waitingCount = (u.session j).waitingCount
  deadlines : t.deadlines = u.deadlines.filter (fun d => !refersToLease i d.ref)
  notices : ∀ l, (t.line l).notices = if lineOf i = l then
    (u.line l).notices.filter (fun it => it != .sessionEnded i) else (u.line l).notices

/-- The two filters of the deadline list are one (R119). -/
theorem deadlines_filter (ds : List Deadline) (G : List ClaimIx) (i : SlotIx) :
    (ds.filter (fun d => G.all (fun c => !refersToWait c d.ref))).filter
        (fun d => !refersToLease i d.ref) =
      ds.filter (fun d => match d.ref with
        | .lease j => j != i
        | .wait c _ => !G.contains c) := by
  rw [List.filter_filter]
  refine List.filter_congr fun d _ => ?_
  cases hd : d.ref with
  | lease j => simp [refersToLease, refersToWait, bne]
  | wait c n =>
    simp only [refersToLease, refersToWait, Bool.not_false, Bool.true_and]
    by_cases hc : c ∈ G
    · rw [List.all_eq_false.2 ⟨c, hc, by simp⟩]; simp [hc]
    · rw [List.all_eq_true.2 fun g hg => by simpa using fun (hx : c = g) => hc (hx ▸ hg)]; simp [hc]

/-- The session's item is on its own line alone, so its withdrawal is a filter of every list (R91, R94). -/
theorem SessionLaws.withdraw_eq (h : SessionLaws s) (i : SlotIx) (l : LineIx) :
    (if lineOf i = l then
      ((s.line l).notices.filter (itemStays s G l)).filter (fun it => it != .sessionEnded i)
      else (s.line l).notices.filter (itemStays s G l)) =
    (s.line l).notices.filter (fun it => match it with
      | .claim c => !(G.contains c && (s.claim c).notice != none && lineOf (s.claim c).session == l)
      | .sessionEnded j => j != i) := by
  split
  · rw [List.filter_filter]
    refine List.filter_congr fun it _ => ?_
    cases it with
    | claim c => simp [itemStays]
    | sessionEnded j =>
      have hitem : (NoticeItem.sessionEnded j != .sessionEnded i) = (j != i) := by
        by_cases hj : j = i
        · simp [hj]
        · rw [bne_iff_ne.2 hj, bne_iff_ne.2 (by simpa using hj)]
      simp [itemStays, hitem]
  · rename_i hl
    refine List.filter_congr fun it hit => ?_
    cases it with
    | claim c => rfl
    | sessionEnded j =>
      have hj : j ≠ i := by
        rintro rfl
        exact hl ((h.endedItem l j).2 hit).1.symm
      simp [itemStays, hj]

/-- The run over the session's claims and its closing leave every table as `SessionCleared` says. -/
theorem ClearRun.sessionCleared (hs : LawsBut none s)
    (h : ClearRun s u (s.session i).claimList (s.session i).claimList G R)
    (horder : OnePerLock s (s.session i).claimList → G = (s.session i).claimList.flatMap s.clearedWith)
    (ht : SessionClosed i u t) : SessionCleared s t i := by
  have hentry : ∀ e, t.entry e = u.entry e := State.entry_congr ht.entries
  have hclaim : ∀ c, t.claim c = u.claim c := State.claim_congr ht.claims
  have hns : ∀ n, t.ns n = u.ns n := State.ns_congr ht.namespaces
  have hlist : (t.session i).claimList = [] := by
    rw [(ht.lists i).1, h.freeing.claimList]
    exact List.filter_eq_nil_iff.2 fun c hc => by simp [h.done c hc]
  have hcounts : ∀ j, (t.session j).heldCount =
      (t.session j).claimList.countP (fun c => (t.claim c).state == .held) ∧
      (t.session j).waitingCount =
        (t.session j).claimList.countP (fun c => (t.claim c).state == .waiting) := fun j => by
    obtain ⟨hl, hheld, hwaiting⟩ := ht.lists j
    simp only [hclaim]
    rw [hl, hheld, hwaiting]
    exact h.laws.pool.counts j
  have hgone : ∀ c, ((s.claim c).state != .free && (t.claim c).state == .free) = G.contains c := fun c => by
    rw [hclaim]; exact h.gone_eq c
  have hdrained : ∀ n, ((s.ns n).state = .draining ∧ (s.ns n).revokeSweep = false ∧
      (s.ns n).occupied ≠ 0 ∧ (t.ns n).occupied = 0) ↔ DrainedNow s u n := fun n => by rw [hns]
  unfold SessionCleared
  intro x left emptied freed onLock gone drained
  have hemptied : ∀ e, emptied e ↔ HoldersOn s x.claimList e := fun e => Iff.rfl
  have hfreed : ∀ c, c ∈ G ↔ freed c := fun c => h.freed_iff hs
  refine ⟨hlist, ?_, ?_, fun e he => ?_, fun e he => ?_, fun b => ?_, fun c hc => ?_, fun c hc => ?_,
    fun j => ?_, ⟨G, ?_, h.freeing.nodup, fun c => ?_, ?_, ?_⟩, ?_, fun n => ⟨fun hn => ?_, fun hn => ?_⟩,
    fun ⟨n, hn⟩ => ?_, fun hn => ?_, ?_, fun l => ?_⟩
  · rw [(hcounts i).1, hlist]; rfl
  · rw [(hcounts i).2, hlist]; rfl
  · rw [hentry, h.freeing.entry, if_pos ((h.retired_iff hs).2 he)]
  · rw [hentry, h.entry_stays hs he]; rfl
  · rw [State.chain_congr ht.chains, h.chain_eq hs]
    simp only [hentry]
  · rw [hclaim, h.freeing.claim, if_pos ((hfreed c).2 hc)]
  · rw [hclaim, h.freeing.claim, if_neg (fun hx => hc ((hfreed c).1 hx))]
  · refine ⟨?_, hcounts j⟩
    rw [(ht.lists j).1, h.claimList_eq hs]
    simp only [hclaim]
  · rw [ht.freeList, h.freeing.freeList]
  · show c ∈ G ↔ ((s.claim c).state != .free && (t.claim c).state == .free) = true
    rw [hgone]; simp
  · rw [ht.freeClaimCount, h.freeing.freeClaimCount]
  · exact horder
  · rw [ht.freeEntryCount, ht.entries]; exact h.laws.table.freeCount
  · have hx := (hdrained n).1 hn
    rw [hns, h.freeing.drained.ns n, if_pos hx, hx.2.2.2]
  · have hx : ¬ DrainedNow s u n := fun hy => hn ((hdrained n).2 hy)
    rw [hns, h.freeing.drained.ns n, if_neg hx, ht.entries, ← h.laws.table.occupiedCount]
  · rw [ht.causes]; exact h.freeing.drained.raised ⟨n, (hdrained n).1 hn⟩
  · rw [ht.causes]; exact h.freeing.drained.quiet fun n hx => hn n ((hdrained n).2 hx)
  · rw [ht.deadlines, h.freeing.deadlines, deadlines_filter]
    refine List.filter_congr fun d _ => ?_
    cases d.ref with
    | lease j => rfl
    | wait c n => exact congrArg (! ·) (hgone c).symm
  · rw [ht.notices, h.freeing.notices, hs.people.withdraw_eq]
    refine List.filter_congr fun it _ => ?_
    cases it with
    | claim c =>
      show _ = !(((s.claim c).state != .free && (t.claim c).state == .free) && _ && _)
      rw [hgone]
    | sessionEnded j => rfl

end Sys2Proof.Machine
end

section
/-!
A clear step from any state (R96, R169): the parts of the state it writes, the closing of the session's
record, and its pending CLOSE reply; and the final step of the clear sweep (R170).
-/

namespace Sys2Proof.Machine

variable {s t u : State} {i : SlotIx}

/-! ### The parts that a clear step writes -/

/-- From `s` to `t` no token is issued, no counter advances, and the host's side is as before (R169). -/
def ClearWrites (s t : State) : Prop :=
  t = { s with entries := t.entries, chains := t.chains, namespaces := t.namespaces,
               freeEntryCount := t.freeEntryCount, claims := t.claims, freeList := t.freeList,
               freeClaimCount := t.freeClaimCount, sessions := t.sessions, deadlines := t.deadlines,
               lines := t.lines, deviceCauses := t.deviceCauses }

namespace ClearWrites

theorem refl (s : State) : ClearWrites s s := rfl

theorem trans (h : ClearWrites s t) (g : ClearWrites t u) : ClearWrites s u := by
  have h1 : t = _ := h
  have g1 : u = _ := g
  show u = _
  rw [g1, h1]

theorem foldl {α : Type} {f : State → α → State} (hf : ∀ s a, ClearWrites s (f s a)) (as : List α)
    (s : State) : ClearWrites s (as.foldl f s) := by
  induction as generalizing s with
  | nil => exact refl s
  | cons a as ih => exact (hf s a).trans (ih _)

theorem freeClaim (s : State) (c : ClaimIx) : ClearWrites s (s.freeClaim c) := by
  unfold ClearWrites
  apply State.eq_of_fields <;> simp

theorem retireEntry (s : State) (e : EntryIx) : ClearWrites s (s.retireEntry e) := by
  unfold ClearWrites
  apply State.eq_of_fields <;> simp

end ClearWrites

/-- What the clearing of a claim is made of, for a relation that freeing and retiring keep. -/
theorem clearClaim_relates {r : State → State → Prop} (hrefl : ∀ s, r s s)
    (htrans : ∀ {s t u}, r s t → r t u → r s u) (hfree : ∀ s c, r s (s.freeClaim c))
    (hretire : ∀ s e, r s (s.retireEntry e)) (s : State) (c : ClaimIx) : r s (s.clearClaim c) := by
  have hfold : ∀ (cs : List ClaimIx) (v : State), r v (cs.foldl (fun acc d => acc.freeClaim d) v) := by
    intro cs
    induction cs with
    | nil => exact hrefl
    | cons c cs ih => exact fun v => htrans (hfree v c) (ih _)
  unfold State.clearClaim
  dsimp only
  split
  · exact hrefl s
  · exact hfree s c
  · split
    · exact htrans (htrans (hfree s c) (hfold _ _)) (hretire _ _)
    · exact hfree s c
  · split
    · exact htrans (hfree s c) (hretire _ _)
    · exact hfree s c

theorem ClearWrites.clearClaim (s : State) (c : ClaimIx) : ClearWrites s (s.clearClaim c) :=
  clearClaim_relates ClearWrites.refl ClearWrites.trans ClearWrites.freeClaim ClearWrites.retireEntry s c

theorem TableStep.clearClaim (s : State) (c : ClaimIx) : TableStep s (s.clearClaim c) :=
  clearClaim_relates TableStep.refl TableStep.trans TableStep.freeClaim TableStep.retireEntry s c

/-! ### The two halves of a clear step -/

/-- The session takes its end cause, as a clear step begins. -/
def State.causeCleared (s : State) (i : SlotIx) : State :=
  s.updSession i (fun x =>
    { x with endCause := if x.state = .opened then .serviceClear else x.endCause })

/-- The claims of the session are cleared. -/
def State.claimsCleared (s : State) (i : SlotIx) : State :=
  (s.session i).claimList.foldl (fun acc c => acc.clearClaim c) (s.causeCleared i)

/-- The session is closed. -/
def State.closeSession (s : State) (i : SlotIx) : State :=
  (((s.dropLease i).settleClose i).withdrawSessionEnded i).updSession i (fun x =>
    { x with leaseDeadline := none, endingSweep := .inactive, cache := { x.cache with valid := false },
             state := .idle })

theorem State.causeCleared_session (s : State) (i : SlotIx) : (s.causeCleared i).session i =
    { s.session i with
      endCause := if (s.session i).state = .opened then .serviceClear else (s.session i).endCause } :=
  State.updSession_session_same _ _ _

theorem State.causeCleared_session_other {j : SlotIx} (hj : i ≠ j) :
    (s.causeCleared i).session j = s.session j := by
  rw [State.causeCleared, State.updSession_session, if_neg hj]

theorem State.clearSession_eq (s : State) (i : SlotIx) :
    s.clearSession i = (s.claimsCleared i).closeSession i := by
  have hlist : ((s.causeCleared i).session i).claimList = (s.session i).claimList := by
    rw [State.causeCleared_session]
  rw [State.claimsCleared, ← hlist]
  rfl

theorem TableStep.claimsCleared (s : State) (i : SlotIx) :
    TableStep (s.causeCleared i) (s.claimsCleared i) :=
  TableStep.foldl _ TableStep.clearClaim _ _

theorem ClearWrites.claimsCleared (s : State) (i : SlotIx) : ClearWrites s (s.claimsCleared i) :=
  ClearWrites.trans (t := s.causeCleared i) rfl (.foldl ClearWrites.clearClaim _ _)

/-- The session's record after its claims are cleared: the counts and the claim list apart, the end cause has
been written. -/
theorem State.claimsCleared_session (s : State) (i : SlotIx) : (s.claimsCleared i).session i =
    { s.session i with
      endCause := if (s.session i).state = .opened then .serviceClear else (s.session i).endCause,
      heldCount := ((s.claimsCleared i).session i).heldCount,
      waitingCount := ((s.claimsCleared i).session i).waitingCount,
      claimList := ((s.claimsCleared i).session i).claimList } := by
  have h := (TableStep.claimsCleared s i).sessions i
  rwa [State.causeCleared_session] at h

/-! ### The pending CLOSE reply (R91, R96) -/

theorem fillFirst_append {st : StationIx} {content : ReplyContent} {ys zs : List ReplySlot}
    (h : ∀ y ∈ ys, ¬ (y.station = st ∧ y.content = none)) :
    fillFirst st content (ys ++ zs) = ys ++ fillFirst st content zs := by
  induction ys with
  | nil => rfl
  | cons y ys ih =>
    rw [List.cons_append, fillFirst, if_neg (h y List.mem_cons_self),
      ih fun z hz => h z (List.mem_cons_of_mem _ hz)]
    rfl

/-- With no slot reserved a fill places nothing. -/
theorem fillReserved_none {st : StationIx} {content : ReplyContent} {slots : List ReplySlot}
    (h : ∀ y ∈ slots, ¬ (y.station = st ∧ y.content = none)) :
    fillReserved st content slots = slots := by
  have hfill := fillFirst_append (content := content) (zs := [])
    fun y (hy : y ∈ slots.reverse) => h y (List.mem_reverse.1 hy)
  rw [List.append_nil] at hfill
  rw [fillReserved, hfill, fillFirst, List.append_nil, List.reverse_reverse]

/-- A fill reaches the slot reserved last. -/
theorem fillReserved_last {st : StationIx} {content : ReplyContent} {before after : List ReplySlot}
    {y : ReplySlot} (hy : y.station = st ∧ y.content = none)
    (h : ∀ z ∈ after, ¬ (z.station = st ∧ z.content = none)) :
    fillReserved st content (before ++ y :: after) =
      before ++ { y with content := some content } :: after := by
  have hsplit : (before ++ y :: after).reverse = after.reverse ++ (y :: before.reverse) := by simp
  rw [fillReserved, hsplit, fillFirst_append fun z hz => h z (List.mem_reverse.1 hz), fillFirst,
    if_pos hy]
  simp

theorem State.settleClose_session (s : State) (i j : SlotIx) : (s.settleClose i).session j =
    if i = j then { s.session j with closeReply := false } else s.session j := by
  unfold State.settleClose
  by_cases hj : i = j
  · subst hj
    split
    · rw [State.updSession_session_same, if_pos rfl]; rfl
    · rename_i hc
      rw [if_pos rfl]
      have hf : (s.session i).closeReply = false := by simpa using hc
      rw [← hf]
  · rw [if_neg hj]
    split
    · rw [State.updSession_session, if_neg hj]; rfl
    · rfl

theorem State.settleClose_line (s : State) (i : SlotIx) (l : LineIx) : (s.settleClose i).line l =
    if (s.session i).closeReply = true ∧ lineOf i = l then
      { s.line l with
        replies := fillReserved (stationOf i) (contentOf s i ⟨.ok, []⟩) (s.line l).replies }
    else s.line l := by
  unfold State.settleClose
  by_cases hc : (s.session i).closeReply = true
  · rw [if_pos hc, State.updSession_line, State.fillReply_line]
    by_cases hl : lineOf i = l
    · rw [if_pos hl, if_pos ⟨hc, hl⟩]
    · rw [if_neg hl, if_neg (fun hx => hl hx.2)]
  · rw [if_neg hc, if_neg (fun hx => hc hx.1)]

/-! ### The closing of the session -/

theorem State.closeSession_session (s : State) (i : SlotIx) : (s.closeSession i).session i =
    { s.session i with leaseDeadline := none, endingSweep := .inactive, closeReply := false,
                       cache := { (s.session i).cache with valid := false }, state := .idle } := by
  rw [State.closeSession, State.updSession_session_same, (State.withdrawSessionEnded_reads _ i).2.2.1,
    State.settleClose_session, if_pos rfl]
  rfl

theorem State.closeSession_session_other {j : SlotIx} (hj : i ≠ j) :
    (s.closeSession i).session j = s.session j := by
  rw [State.closeSession, State.updSession_session, if_neg hj, (State.withdrawSessionEnded_reads _ i).2.2.1,
    State.settleClose_session, if_neg hj]
  rfl

theorem State.closeSession_line (s : State) (i : SlotIx) (l : LineIx) : (s.closeSession i).line l =
    if lineOf i = l then
      { s.line l with
        replies := if (s.session i).closeReply = true then
            fillReserved (stationOf i) (contentOf s i ⟨.ok, []⟩) (s.line l).replies
          else (s.line l).replies,
        notices := (s.line l).notices.filter (fun it => it != .sessionEnded i) }
    else s.line l := by
  rw [State.closeSession, State.updSession_line, State.withdrawSessionEnded, State.updLine_line]
  by_cases hl : lineOf i = l
  · subst hl
    rw [if_pos rfl, if_pos rfl, State.settleClose_line]
    by_cases hc : (s.session i).closeReply = true
    · rw [if_pos hc, if_pos ⟨hc, rfl⟩]; rfl
    · rw [if_neg hc, if_neg (fun hx => hc hx.1)]; rfl
  · rw [if_neg hl, if_neg hl, State.settleClose_line, if_neg (fun hx => hl hx.2)]
    rfl

theorem State.closeSession_writes (s : State) (i : SlotIx) : s.closeSession i =
    { s with sessions := (s.closeSession i).sessions, lines := (s.closeSession i).lines,
             deadlines := s.deadlines.filter (fun d => !refersToLease i d.ref) } := by
  have hsettle : ∀ v : State, v.settleClose i =
      { v with sessions := (v.settleClose i).sessions, lines := (v.settleClose i).lines } := fun v => by
    unfold State.settleClose
    split <;> rfl
  have hclose : ∀ v : State, v.withdrawSessionEnded i = { v with lines := (v.withdrawSessionEnded i).lines } :=
    fun v => rfl
  unfold State.closeSession
  rw [hclose, hsettle]
  rfl

theorem State.sessionClosed (s : State) (i : SlotIx) : SessionClosed i s (s.closeSession i) := by
  have hw := State.closeSession_writes s i
  refine ⟨by rw [hw], by rw [hw], by rw [hw], by rw [hw], by rw [hw], by rw [hw], by rw [hw], by rw [hw],
    fun j => ?_, by rw [hw], fun l => ?_⟩
  · by_cases hj : i = j
    · subst hj; rw [State.closeSession_session]; exact ⟨rfl, rfl, rfl⟩
    · rw [State.closeSession_session_other hj]; exact ⟨rfl, rfl, rfl⟩
  · rw [State.closeSession_line]
    split <;> rfl

/-! ### The laws after a clear step -/

/-- A clear step's run begins. -/
theorem ClearRun.begin (h : LawsBut none s) (i : SlotIx) (L : List ClaimIx) :
    ClearRun s (s.causeCleared i) L [] [] [] := by
  have hlists : ∀ j, ((s.causeCleared i).session j).claimList = (s.session j).claimList := fun j => by
    by_cases hj : i = j
    · subst hj; rw [State.causeCleared_session]
    · rw [State.causeCleared_session_other hj]
  refine ⟨{ Freeing.refl s with
      claimList := fun j => (hlists j).trans ((Freeing.refl s).claimList j)
      drained := (Draining.refl s).of_same rfl rfl },
    h.of_same (.updSession s i _ fun _ => ⟨rfl, rfl, rfl, rfl, rfl⟩), ?_, ?_, ?_⟩
  · intro c hc; cases hc
  · intro c hc; cases hc
  · intro e he; cases he

/-- A clear step leaves the tables as `SessionCleared` says, where the laws of the lock table hold. -/
theorem LawsBut.sessionCleared (h : LawsBut none s) (ht : SessionClosed i (s.claimsCleared i) t) :
    SessionCleared s t i := by
  obtain ⟨hn, hlist⟩ := h.pool.claimList i
  obtain ⟨G, R, hrun, horder⟩ := ClearRun.foldl h (P := []) (List.nil_append _) hn
    (fun c hc => ((hlist c).1 hc).1) (.begin h i _) fun _ => rfl
  exact hrun.sessionCleared h horder ht

end Sys2Proof.Machine
end

section
/-!
The clear sweep's steps from the sweep source (R169, R170).
-/

namespace Sys2Proof.Machine

variable {s : State} {i : SlotIx}

/-! ### What ending a session in a clear step leaves -/

theorem ClearWrites.closeSession (s : State) (i : SlotIx) : ClearWrites s (s.closeSession i) := by
  unfold ClearWrites
  rw [State.closeSession_writes]

theorem ClearWrites.clearSession (s : State) (i : SlotIx) : ClearWrites s (s.clearSession i) := by
  rw [State.clearSession_eq]
  exact (ClearWrites.claimsCleared s i).trans (.closeSession _ i)

/-- The session that a clear step ends. -/
theorem State.clearSession_session (s : State) (i : SlotIx) : (s.clearSession i).session i =
    { s.session i with
      state := .idle,
      endCause := if (s.session i).state = .opened then .serviceClear else (s.session i).endCause,
      leaseDeadline := none, cache := { (s.session i).cache with valid := false },
      closeReply := false, endingSweep := .inactive,
      heldCount := ((s.clearSession i).session i).heldCount,
      waitingCount := ((s.clearSession i).session i).waitingCount,
      claimList := ((s.clearSession i).session i).claimList } := by
  rw [State.clearSession_eq, State.closeSession_session]
  generalize hx : (s.claimsCleared i).session i = x
  rw [State.claimsCleared_session] at hx
  rw [← hx]

/-- Every other session keeps all but its claims. -/
theorem State.clearSession_session_other {j : SlotIx} (hj : j ≠ i) :
    (s.clearSession i).session j = { s.session j with
      claimList := ((s.clearSession i).session j).claimList,
      heldCount := ((s.clearSession i).session j).heldCount,
      waitingCount := ((s.clearSession i).session j).waitingCount } := by
  have htable := (TableStep.claimsCleared s i).sessions j
  rw [State.causeCleared_session_other hj.symm] at htable
  rw [State.clearSession_eq, State.closeSession_session_other hj.symm]
  exact htable

theorem State.clearSession_claims (s : State) (i : SlotIx) :
    (s.clearSession i).claims = (s.claimsCleared i).claims := by
  rw [State.clearSession_eq, State.closeSession_writes]

/-- Every claim of the session is free, without a notice (R25, R50). -/
theorem State.clearSession_claim {c : ClaimIx} (hc : c ∈ (s.session i).claimList) :
    ((s.clearSession i).claim c).state = .free ∧
      ((s.claim c).state ≠ .free → ((s.clearSession i).claim c).notice = none) := by
  rw [State.claim_congr (State.clearSession_claims s i)]
  obtain ⟨hfreed, hall⟩ := OnlyFreed.clearClaims (s.causeCleared i) (s.session i).claimList
  have hfree : ((s.claimsCleared i).claim c).state = .free := hall c hc
  refine ⟨hfree, fun hs => ?_⟩
  rcases hfreed c with hkept | hreset
  · have hsame : (s.claimsCleared i).claim c = s.claim c := hkept
    rw [hsame] at hfree
    exact absurd hfree hs
  · have hsame : (s.claimsCleared i).claim c = { Claim.reset with useCount := (s.claim c).useCount } :=
      hreset
    rw [hsame]
    rfl

theorem State.clearSession_no_lease (s : State) (i : SlotIx) :
    ∀ d ∈ (s.clearSession i).deadlines, d.ref ≠ .lease i := by
  rw [State.clearSession_eq, State.closeSession_writes]
  exact State.dropLease_no_lease _ i

theorem State.clearSession_rules (s : State) (i : SlotIx) (n : NsIx) :
    ((s.clearSession i).ns n).rules = (s.ns n).rules := by
  have hns : (s.clearSession i).namespaces = (s.claimsCleared i).namespaces := by
    rw [State.clearSession_eq, State.closeSession_writes]
  rw [State.ns_congr hns, (TableStep.claimsCleared s i).namespaces n]
  rfl

/-- The reply of a pending CLOSE is the session's, with OK (R91, R96). -/
theorem State.contentOf_claimsCleared (s : State) (i : SlotIx) (reply : Reply) :
    contentOf (s.claimsCleared i) i reply = contentOf s i reply := by
  rw [contentOf, State.claimsCleared_session]
  rfl

/-- The lines after a clear step: the CLOSE reply and the session's notice on its own line, and the notices
of the freed claims. -/
theorem State.clearSession_line (s : State) (i : SlotIx) (l : LineIx) : (s.clearSession i).line l =
    { s.line l with
      replies := if (s.session i).closeReply = true ∧ lineOf i = l then
          fillReserved (stationOf i) (contentOf s i ⟨.ok, []⟩) (s.line l).replies
        else (s.line l).replies,
      notices := if lineOf i = l then
          ((s.claimsCleared i).line l).notices.filter (fun it => it != .sessionEnded i)
        else ((s.claimsCleared i).line l).notices } := by
  have hline : (s.claimsCleared i).line l =
      { s.line l with notices := ((s.claimsCleared i).line l).notices } :=
    (TableStep.claimsCleared s i).lines l
  have hreplies : ((s.claimsCleared i).line l).replies = (s.line l).replies := by rw [hline]
  have hclose : ((s.claimsCleared i).session i).closeReply = (s.session i).closeReply := by
    rw [State.claimsCleared_session]
  rw [State.clearSession_eq, State.closeSession_line, hclose, hreplies, State.contentOf_claimsCleared]
  by_cases hl : lineOf i = l
  · rw [if_pos hl, if_pos hl, hline]
    simp only [hl, and_true]
  · rw [if_neg hl, if_neg hl, if_neg fun h => hl h.2]
    exact hline

/-- A clear step writes the replies and the notices of the lines only. -/
theorem State.clearSession_line_frame (s : State) (i : SlotIx) (l : LineIx) :
    (s.clearSession i).line l =
      { s.line l with replies := ((s.clearSession i).line l).replies,
                      notices := ((s.clearSession i).line l).notices } := by
  rw [State.clearSession_line]

theorem State.clearSession_replies_same {l : LineIx}
    (h : l ≠ lineOf i ∨ (s.session i).closeReply = false) :
    ((s.clearSession i).line l).replies = (s.line l).replies := by
  have hno : ¬ ((s.session i).closeReply = true ∧ lineOf i = l) := by
    rintro ⟨hc, hl⟩
    rcases h with hne | hf
    · exact hne hl.symm
    · rw [hf] at hc; cases hc
  rw [State.clearSession_line]
  exact if_neg hno

theorem State.clearSession_replies_close (hc : (s.session i).closeReply = true) :
    ((s.clearSession i).line (lineOf i)).replies =
      fillReserved (stationOf i) (contentOf s i ⟨.ok, []⟩) (s.line (lineOf i)).replies := by
  rw [State.clearSession_line]
  exact if_pos ⟨hc, rfl⟩

theorem State.clearSession_not_told (s : State) (i : SlotIx) :
    .sessionEnded i ∉ ((s.clearSession i).line (lineOf i)).notices := by
  rw [State.clearSession_line, if_pos rfl]
  simp

/-- The tables after a clear step, where the laws of the lock table hold. -/
theorem LawsBut.clearSession_cleared (h : LawsBut none s) (i : SlotIx) :
    SessionCleared s (s.clearSession i) i := by
  rw [State.clearSession_eq]
  exact h.sessionCleared (State.sessionClosed _ i)

/-! ### The steps of the sweep -/

/-- A clear step of the sweep. -/
theorem exec_clearStep (h : SweepOffered s sweepClear) (hi : (s.session i).state ≠ .idle)
    (hlow : ∀ j : SlotIx, j < i → (s.session j).state = .idle) :
    exec .clearStep s = .next ((swept s sweepClear).clearStep i) := by
  have htarget : s.clearTarget = some i :=
    lowest_eq_some_iff.2 ⟨bne_iff_ne.2 hi, fun j hj => by rw [hlow j hj]; rfl⟩
  refine congrArg Host.Outcome.next ((if_pos (State.sweepTurn_of_offered h)).trans ?_)
  rw [htarget]
  rfl

/-- The final step of the sweep. -/
theorem exec_clearSweepFinalStep (h : SweepOffered s sweepClear)
    (hidle : ∀ i, (s.session i).state = .idle) :
    exec .clearSweepFinalStep s = .next ((swept s sweepClear).clearFinal) := by
  have htarget : s.clearTarget = none :=
    lowest_eq_none_iff.2 fun j => by rw [hidle j]; rfl
  exact congrArg Host.Outcome.next (if_pos ⟨State.sweepTurn_of_offered h, htarget⟩)

end Sys2Proof.Machine

open Sys2Proof Sys2Proof.Machine

/-- Settles O53: a clear step is the clearing of the session's claims and then the closing of its record, and
under the laws of the lock table the run over the claim list leaves the tables as they say. -/
theorem clearSweepSteps : Obligations.ClearSweepSteps := by
  refine ⟨?_, fun s h hidle => ?_⟩
  · intro s i h hi hlow x
    have hrun := exec_clearStep h hi hlow
    have hcleared (hlaws : LockTableLaws s) : SessionCleared s ((swept s sweepClear).clearSession i) i :=
      ((lawsBut_none_iff.2 hlaws).of_same (.servedSweep s sweepClear)).clearSession_cleared i
    have hwrites := ClearWrites.clearSession (swept s sweepClear) i
    have hsession := State.clearSession_session (swept s sweepClear) i
    have hothers (j : SlotIx) (hj : j ≠ i) :=
      State.clearSession_session_other (s := swept s sweepClear) hj
    have hclaims (c : ClaimIx) (hc : c ∈ x.claimList) :=
      State.clearSession_claim (s := swept s sweepClear) hc
    have hlease := State.clearSession_no_lease (swept s sweepClear) i
    have htold := State.clearSession_not_told (swept s sweepClear) i
    have hline (l : LineIx) : _ = { s.line l with
        replies := (((swept s sweepClear).clearSession i).line l).replies,
        notices := (((swept s sweepClear).clearSession i).line l).notices } :=
      State.clearSession_line_frame (swept s sweepClear) i l
    have hrules := State.clearSession_rules (swept s sweepClear) i
    have hsame (l : LineIx) (hl : l ≠ lineOf i ∨ x.closeReply = false) :=
      State.clearSession_replies_same (s := swept s sweepClear) hl
    have hclose (hc : x.closeReply = true) :=
      State.clearSession_replies_close (s := swept s sweepClear) hc
    unfold State.clearStep at hrun
    dsimp only at hrun
    generalize (swept s sweepClear).clearSession i = u at *
    refine ⟨_, hrun, ?_, (congrArg Session.state hsession :), (congrArg Session.endCause hsession :),
      (congrArg Session.leaseDeadline hsession :), (congrArg (fun y => y.cache.valid) hsession :),
      (congrArg Session.closeReply hsession :), (congrArg Session.endingSweep hsession :),
      (congrArg Session.incarnation hsession :), (congrArg Session.ring hsession :),
      (congrArg Session.lease hsession :), (congrArg Session.noticeCounter hsession :),
      (congrArg Session.noticeSuppressed hsession :), hclaims, hothers, hlease, htold, hline, hrules,
      hsame, ?_, hcleared⟩
    · have hu : u = _ := hwrites
      rw [hu]
      rfl
    · intro hc reserved slots
      have hreplies : (u.line (lineOf i)).replies =
        fillReserved (stationOf i) ⟨x.incarnation, .ok, x.noticeCounter, []⟩ slots := hclose hc
      refine ⟨fun hnone => hreplies.trans (fillReserved_none hnone), ?_⟩
      intro before y after hslots hy hafter
      rw [hslots] at hreplies
      exact hreplies.trans (fillReserved_last hy hafter)
  · refine ⟨{ swept s sweepClear with
        expiries := [], clearSweep := false, service := .suspended,
        namespaces := s.namespaces.map (fun (x : Namespace) => { x with occupied := 0 }) }, _,
      exec_clearSweepFinalStep h hidle, rfl, fun n => ?_, State.complete_spec _ _ _⟩
    exact Vector.getElem_map _ _
end

section
/-!
The settings of the part (R26, R98, R116, R144): which operations leave them as they are, and what each command
that writes one of them may write.
-/

-- One theorem at a time: side by side they would need more memory than the check gives.
set_option Elab.async false

namespace Sys2Proof.Machine

/-! ### The settings of a state -/

/-- The values that the host sets: lease bounds, pool threshold, line configurations, namespace rules. -/
structure Settings where
  leaseMin : Nat
  leaseMax : Nat
  poolThreshold : Nat
  config : LineIx → LineConfig
  rules : NsIx → NsRules

/-- The settings a state holds. -/
def State.settings (s : State) : Settings :=
  ⟨s.leaseMin, s.leaseMax, s.poolThreshold, fun l => (s.line l).config, fun n => (s.ns n).rules⟩

variable {s t : State} {l : LineIx} {n : NsIx}

/-- The ranges of a line configuration, item by item (R144). -/
theorem LineConfig.inRange_iff (c : LineConfig) : c.inRange = true ↔
    1 ≤ c.divisor ∧ c.divisor ≤ 65535 ∧ 1 ≤ c.turnaround ∧ c.turnaround ≤ 16 ∧
      2 ≤ c.gapLimit ∧ c.gapLimit ≤ 32 ∧ 1 ≤ c.ringFloor ∧ c.ringFloor ≤ 7 := by
  simp [LineConfig.inRange, and_assoc]

/-- The ranges of a namespace's rules, item by item (R98). -/
theorem NsRules.inRange_iff (x : NsRules) : x.inRange = true ↔
    1 ≤ x.exclusiveLimit ∧ x.exclusiveLimit ≤ x.sharedLimit ∧ x.sharedLimit ≤ x.queryLimit ∧
      x.queryLimit ≤ 7 ∧ 1 ≤ x.sharerLimit ∧ x.sharerLimit ≤ 16 ∧ x.queueLimit ≤ 32 ∧
      1 ≤ x.quota ∧ x.quota ≤ 2048 := by
  simp [NsRules.inRange, and_assoc]

/-- The law speaks of the settings alone, by the range checks that the commands make. -/
theorem settingsInRange_iff : SettingsInRange s ↔
    50 ≤ s.settings.leaseMin ∧ s.settings.leaseMin ≤ s.settings.leaseMax ∧ s.settings.leaseMax ≤ 65535 ∧
      s.settings.poolThreshold ≤ 4096 ∧ (∀ l, (s.settings.config l).inRange = true) ∧
      ∀ n, (s.settings.rules n).inRange = true := by
  simp only [LineConfig.inRange_iff, NsRules.inRange_iff]
  exact Iff.rfl

theorem SettingsInRange.of_same (h : SettingsInRange s) (hs : t.settings = s.settings) :
    SettingsInRange t := by
  rw [settingsInRange_iff, hs]; exact settingsInRange_iff.1 h

/-! ### Primitive updates -/

theorem State.settings_updLine (s : State) (l : LineIx) (f : Line → Line)
    (hf : ∀ x, (f x).config = x.config := by intro x; rfl) : (s.updLine l f).settings = s.settings := by
  have hconfig : ∀ m, ((s.updLine l f).line m).config = (s.line m).config := fun m => by
    rw [State.updLine_line]
    split
    · rename_i h; subst h; exact hf _
    · rfl
  simp [State.settings, hconfig]

theorem State.settings_updNs (s : State) (n : NsIx) (f : Namespace → Namespace)
    (hf : ∀ x, (f x).rules = x.rules := by intro x; rfl) : (s.updNs n f).settings = s.settings := by
  have hrules : ∀ m, ((s.updNs n f).ns m).rules = (s.ns m).rules := fun m => by
    rw [State.updNs_ns]
    split
    · rename_i h; subst h; exact hf _
    · rfl
  simp [State.settings, hrules]

@[simp] theorem State.settings_complete (s : State) (r : ResultCode) (bs : List Byte) :
    (s.complete r bs).settings = s.settings := rfl

theorem State.settings_setLong (s : State) (c : Option LongCommand) :
    ({ s with longCommand := c } : State).settings = s.settings := rfl

theorem State.settings_foldl {α : Type} {f : State → α → State}
    (hf : ∀ s a, (f s a).settings = s.settings) (as : List α) (s : State) :
    (as.foldl f s).settings = s.settings := by
  induction as generalizing s with
  | nil => rfl
  | cons a as ih => exact (ih _).trans (hf s a)

theorem State.settings_ite {a b : State} {p : Prop} [Decidable p] (ha : p → a.settings = s.settings)
    (hb : ¬ p → b.settings = s.settings) : (if p then a else b).settings = s.settings := by
  split
  · exact ha ‹_›
  · exact hb ‹_›

/-- Where the host's side is as before, the configurations and rules decide. -/
theorem State.settings_of_host (h : HostSideSame s t)
    (hl : ∀ l, (t.line l).config = (s.line l).config)
    (hn : ∀ n, (t.ns n).rules = (s.ns n).rules) : t.settings = s.settings := by
  have hmin : t.leaseMin = s.leaseMin := by rw [h]
  have hmax : t.leaseMax = s.leaseMax := by rw [h]
  have hpool : t.poolThreshold = s.poolThreshold := by rw [h]
  simp [State.settings, hmin, hmax, hpool, hl, hn]

/-- The operations on claims and entries. -/
theorem TableStep.settings (h : TableStep s t) : t.settings = s.settings :=
  State.settings_of_host h.host (fun l => by rw [h.lines l]) fun n => by rw [h.namespaces n]

theorem RequestFrame.settings (h : RequestFrame l s t) : t.settings = s.settings := by
  refine State.settings_of_host h.host (fun m => ?_) h.rules
  by_cases hm : m = l
  · subst hm; exact h.own.1
  · rw [h.lines m hm]

end Sys2Proof.Machine
end

section
/-!
Every command keeps the settings in their ranges: most leave them as they are, and the five that write them check
the range first (R26, R98, R116, R144).
-/

-- One theorem at a time: side by side they would need more memory than the check gives.
set_option Elab.async false

namespace Sys2Proof.Machine

variable {s t : State}

/-! ### Notices, sessions and expiries -/

theorem State.settings_forgetNotice (s : State) (c : ClaimIx) :
    (if ((s.updClaim c (fun x => { x with notice := none })).claim c).state = .detached then
      (s.updClaim c (fun x => { x with notice := none })).freeClaim c
      else s.updClaim c (fun x => { x with notice := none })).settings = s.settings :=
  settings_ite (fun _ => (TableStep.freeClaim _ c).settings) fun _ => rfl

theorem State.settings_emptyNotices (s : State) (l : LineIx) :
    (s.emptyNotices l).settings = s.settings := by
  refine (settings_foldl (fun v it => ?_) _ _).trans (settings_updLine s l _)
  cases it with
  | claim c => exact settings_forgetNotice v c
  | sessionEnded i => exact settings_ite (fun _ => rfl) fun _ => rfl

theorem State.settings_restartSessions (s : State) (l : LineIx) (cause : EndCause) (suppress : Bool) :
    (s.restartSessions l cause suppress).settings = s.settings := by
  refine settings_foldl (fun v i => ?_) _ s
  unfold State.restartSession
  split <;> rfl

theorem State.settings_restartStep (s : State) (l : LineIx) :
    (s.restartStep l).settings = s.settings := by
  simp [State.restartStep, settings_updLine, settings_restartSessions, settings_emptyNotices]

theorem State.settings_sendNotice (s : State) (l : LineIx) (frame : List Byte) :
    (s.sendNotice l frame).settings = s.settings := settings_updLine s l _

theorem State.settings_startNotice (s : State) (l : LineIx) (c : ClaimIx) (k : NoticeKind) :
    (s.startNotice l c k).settings = s.settings := by
  unfold State.startNotice
  exact (settings_forgetNotice _ c).trans (settings_sendNotice (s.countNotice (s.claim c).session) l _)

theorem State.settings_expireLease (s : State) (i : SlotIx) (time : Nat) :
    (s.expireLease i time).settings = s.settings := by
  unfold State.expireLease
  split <;> rfl

theorem State.settings_expireWait (s : State) (c : ClaimIx) (use : BitVec 16) (time : Nat) :
    (s.expireWait c use time).settings = s.settings := by
  refine settings_ite (fun _ => settings_ite (fun _ => ?_) fun _ => ?_) fun _ => rfl
  · exact (((TableStep.countWaitExpiry s).trans (.dropClaim _ c _)).trans (.grantPass _ _)).settings
  · have hclear := (TableStep.countWaitExpiry s).trans (.clearUpgrade _ (s.claim c).entry c)
    exact ((TableStep.ite (fun _ => hclear.trans (.raiseNotice _ c _)) fun _ => hclear).trans
      (.grantPass _ _)).settings

/-! ### Sweeps -/

theorem State.settings_takeBack (s : State) (c : ClaimIx) : (s.takeBack c).settings = s.settings := by
  have hpass := ((TableStep.freeClaim s c).trans (.grantPass _ (s.claim c).entry)).settings
  unfold State.takeBack
  split
  · exact hpass
  · exact hpass
  · exact (TableStep.freeClaim s c).settings
  · rfl

theorem State.settings_endingStep (s : State) (i : SlotIx) (c : ClaimIx) :
    (s.endingStep i c).settings = s.settings :=
  (settings_foldl (fun v _ => ((TableStep.clearUpgrade v _ _).trans (.grantPass _ _)).settings) _ _).trans
    (settings_takeBack (s.updSession i (fun x => { x with endingSweep := .running })) c)

theorem State.settings_settleClose (s : State) (i : SlotIx) :
    (s.settleClose i).settings = s.settings :=
  settings_ite (fun _ => (RequestFrame.fillReply s rfl _).settings) fun _ => rfl

theorem State.settings_leaveEnding (s : State) (i : SlotIx) :
    (s.leaveEnding i).settings = s.settings :=
  settings_ite (fun _ => settings_settleClose _ i) fun _ =>
    settings_ite (fun _ => settings_updLine _ _ _) fun _ => rfl

theorem State.settings_completeRestart (s : State) (l : LineIx) :
    (s.completeRestart l).settings = s.settings :=
  settings_ite (fun _ => (settings_complete _ _ _).trans (settings_updLine s l _)) fun _ => rfl

theorem State.settings_endingFinal (s : State) (i : SlotIx) :
    (s.endingFinal i).settings = s.settings := by
  have hevict : ∀ v : State, (v.completeEvict i).settings = v.settings := fun v =>
    settings_ite (fun _ => rfl) fun _ => rfl
  exact (settings_completeRestart _ _).trans ((hevict _).trans (settings_leaveEnding s i))

theorem State.settings_revokeStep (s : State) (n : NsIx) (e : EntryIx) :
    (s.revokeStep n e).settings = s.settings :=
  (settings_updNs _ n _).trans
    (((TableStep.revokeClaims s (s.entry e).holders).trans (.revokeClaims _ (s.entry e).waiters)).trans
      (.retireEntry _ e)).settings

theorem State.settings_revokeFinal (s : State) (n : NsIx) :
    (s.revokeFinal n).settings = s.settings :=
  (settings_complete _ _ _).trans (settings_updNs s n _)

theorem State.settings_clearStep (s : State) (i : SlotIx) : (s.clearStep i).settings = s.settings := by
  have hwithdraw : ∀ v : State, (v.withdrawSessionEnded i).settings = v.settings := fun v =>
    settings_updLine v _ _
  have hclose : ∀ v : State, (v.closeSession i).settings = v.settings := fun v =>
    (hwithdraw _).trans (settings_settleClose (v.dropLease i) i)
  change (s.clearSession i).settings = s.settings
  rw [State.clearSession_eq]
  exact (hclose _).trans (TableStep.claimsCleared s i).settings

theorem State.settings_clearFinal (s : State) : s.clearFinal.settings = s.settings := by
  have hrules : ∀ n, (s.clearFinal.ns n).rules = (s.ns n).rules := fun n => by
    show (s.namespaces.map (fun (x : Namespace) => { x with occupied := 0 }))[n].rules = _
    simp
  simp only [State.settings, hrules]
  rfl

/-! ### Commands of the host that leave the settings -/

theorem State.settings_setTokenBase (s : State) : s.setTokenBase.settings = s.settings :=
  settings_ite (fun _ => settings_ite (fun _ => rfl) fun _ => rfl) fun _ => rfl

theorem State.settings_startService (s : State) : s.startService.settings = s.settings := by
  unfold State.startService
  split
  · exact settings_ite (fun _ => rfl) fun _ => rfl
  all_goals rfl

theorem State.settings_suspendService (s : State) : s.suspendService.settings = s.settings := by
  unfold State.suspendService
  split <;> rfl

theorem State.settings_clearService (s : State) : s.clearService.settings = s.settings := by
  unfold State.clearService
  split <;> rfl

theorem State.settings_disableNs (s : State) (n : NsIx) : (s.disableNs n).settings = s.settings := by
  unfold State.disableNs
  split
  · rfl
  · exact settings_ite (fun _ => rfl) fun _ => rfl
  · refine settings_ite (fun _ => ?_) fun _ => settings_ite (fun _ => ?_) fun _ => rfl
    · exact (TableStep.completeDrain _ n).settings.trans (settings_updNs s n _)
    · exact (settings_setLong _ _).trans (settings_updNs s n _)

theorem State.settings_evict (s : State) (i : SlotIx) : (s.evict i).settings = s.settings := by
  unfold State.evict
  split <;> rfl

theorem State.settings_revokeLock (s : State) : s.revokeLock.settings = s.settings := by
  unfold State.revokeLock
  split
  · rfl
  refine settings_ite (fun _ => ?_) fun _ => settings_ite (fun _ => ?_) fun _ => rfl
  · split
    · rfl
    · exact (settings_complete _ _ _).trans ((TableStep.revokeClaims s _).trans (.grantPass _ _)).settings
  · split
    · rfl
    · exact (settings_complete _ _ _).trans
        (((TableStep.revokeClaims s _).trans (.revokeClaims _ _)).trans (.retireEntry _ _)).settings

theorem State.settings_inspectLock (s : State) : s.inspectLock.settings = s.settings := by
  unfold State.inspectLock
  split
  · rfl
  refine settings_ite (fun _ => ?_) fun _ => rfl
  split <;> rfl

theorem State.settings_enableLine (s : State) (l : LineIx) : (s.enableLine l).settings = s.settings := by
  unfold State.enableLine
  split
  · exact (settings_complete _ _ _).trans (settings_updLine s l _)
  · rfl
  · rfl

theorem State.settings_beginRestart (s : State) (l : LineIx) (fin : RestartEnd) :
    (s.beginRestart l fin).settings = s.settings := by
  refine (settings_completeRestart _ l).trans ((settings_setLong _ _).trans
    ((settings_updLine _ l _).trans ?_))
  rw [settings_restartSessions, settings_emptyNotices]
  exact settings_updLine s l Line.stopped

theorem State.settings_restartLine (s : State) (l : LineIx) :
    (s.restartLine l).settings = s.settings := by
  unfold State.restartLine
  split
  · exact settings_beginRestart s l _
  · rfl
  · rfl

theorem State.settings_disableLine (s : State) (l : LineIx) :
    (s.disableLine l).settings = s.settings := by
  unfold State.disableLine
  split
  · exact settings_beginRestart s l _
  · rfl
  · rfl

theorem State.settings_readCounters (s : State) : s.readCounters.settings = s.settings := by
  unfold State.readCounters
  split
  · exact (settings_complete _ _ _).trans (settings_updLine s _ _)
  · exact settings_ite (fun _ => rfl) fun _ => rfl

/-! ### The host's writes and the Line Units' own actions -/

theorem State.settings_writeCommandCode (s : State) (data : Byte) :
    (s.writeCommandCode data).settings = s.settings := by
  unfold State.writeCommandCode
  split
  · exact settings_ite (fun _ => rfl) fun _ => rfl
  · rfl
  · exact settings_ite (fun _ => rfl) fun _ => rfl

theorem State.settings_writeLineByte (s : State) (l : LineIx) (data : Byte) :
    (s.writeLineByte l data).settings = s.settings := settings_updLine s l _

theorem State.settings_writeWindow (s : State) (a : Nat) (data : Byte) :
    (s.writeWindow a data).settings = s.settings := by
  unfold State.writeWindow
  split
  · exact settings_writeCommandCode s data
  split
  · rfl
  split
  · rfl
  split
  · exact settings_writeLineByte s _ data
  split <;> rfl

theorem State.settings_spiByte {p : SpiPlace} {a : Nat} {write : State → State}
    (hw : (write s).settings = s.settings) : (s.spiByte p a write).settings = s.settings :=
  settings_ite (fun _ => hw) fun _ => rfl

theorem Line.judgeFrame_config (ln : Line) (n : Nat) (bytes : List Byte) (bad : Bool) :
    (ln.judgeFrame n bytes bad).config = ln.config := by
  unfold Line.judgeFrame
  dsimp only
  split
  · rfl
  split
  · rfl
  split
  · rfl
  split <;> rfl

theorem Line.lengthCharacter_config (ln : Line) (ch : RxChar) :
    (ln.lengthCharacter ch).config = ln.config := by
  unfold Line.lengthCharacter
  split
  · rfl
  · split <;> rfl

/-- A Line Unit's own action leaves its configuration. -/
theorem LineAction.settings {l : LineIx} {c : Instr} (h : LineAction l c) (s : State) :
    Answers (fun t => t.settings = s.settings) (exec c s) := by
  have own : ∀ f : Line → Line, (∀ x, (f x).config = x.config) → (s.updLine l f).settings = s.settings :=
    fun f hf => State.settings_updLine s l f hf
  cases h with
  | hunt ch =>
    refine .ite (fun _ => own _ fun ln => ?_) rfl
    unfold Line.huntCharacter; split <;> rfl
  | length ch => exact .ite (fun _ => own _ fun ln => ln.lengthCharacter_config ch) rfl
  | body ch =>
    change Answers _ (execBodyCharacter l ch s)
    unfold execBodyCharacter
    split
    · exact .ite (fun _ => own _ fun _ => rfl) rfl
    · exact .next rfl
    · exact .next rfl
  | frame ch =>
    change Answers _ (execFrameReceived l ch s)
    unfold execFrameReceived
    split
    · exact .ite (fun _ => own _ fun ln => ln.judgeFrame_config _ _ _) rfl
    · exact .next rfl
    · exact .next rfl
  | gap idle => exact .ite (fun _ => own _ fun _ => rfl) rfl
  | brk low =>
    refine .ite (fun _ => own _ fun ln => ?_) rfl
    unfold Line.breakDetected; dsimp only; split <;> rfl
  | brkEnd high =>
    refine .next (own _ fun ln => ?_)
    unfold Line.breakEnded; split <;> rfl
  | reply idle =>
    change Answers _ (execReplyFrameStart l idle s)
    unfold execReplyFrameStart
    split
    · exact .ite (fun _ => own _ fun _ => rfl) rfl
    · exact .next rfl
  | sent => exact .next (own _ fun _ => rfl)

/-! ### Commands of the host that write a setting -/

/-- A line's new configuration is in range if it was checked. -/
theorem SettingsInRange.setConfig (h : SettingsInRange s) (l : LineIx) {c : LineConfig}
    (hc : c.inRange = true) : SettingsInRange (s.updLine l (fun ln => { ln with config := c })) := by
  obtain ⟨hlo, hle, hhi, hpool, hconfig, hrules⟩ := settingsInRange_iff.1 h
  refine settingsInRange_iff.2 ⟨hlo, hle, hhi, hpool, fun m => ?_, hrules⟩
  change ((s.updLine l (fun ln => { ln with config := c })).line m).config.inRange = true
  rw [State.updLine_line]
  split
  · exact hc
  · exact hconfig m

/-- A namespace's new rules are in range if they were checked. -/
theorem SettingsInRange.setRules (h : SettingsInRange s) (n : NsIx) {f : Namespace → Namespace}
    (hf : (f (s.ns n)).rules.inRange = true) : SettingsInRange (s.updNs n f) := by
  obtain ⟨hlo, hle, hhi, hpool, hconfig, hrules⟩ := settingsInRange_iff.1 h
  refine settingsInRange_iff.2 ⟨hlo, hle, hhi, hpool, hconfig, fun m => ?_⟩
  change ((s.updNs n f).ns m).rules.inRange = true
  rw [State.updNs_ns]
  split
  · exact hf
  · exact hrules m

/-- The configuration of a LINE CONFIG has passed its range check. -/
theorem State.paramLineConfig_inRange {c : LineConfig} (h : s.paramLineConfig = some c) :
    c.inRange = true := by
  unfold State.paramLineConfig at h
  split at h
  · dsimp only at h
    split at h
    · cases h; assumption
    · cases h
  · cases h

theorem SettingsInRange.configureLine (h : SettingsInRange s) (l : LineIx) :
    SettingsInRange (s.configureLine l) := by
  unfold State.configureLine
  split
  · exact h.of_same rfl
  split
  · exact (h.setConfig l (State.paramLineConfig_inRange ‹_›)).of_same rfl
  · exact h.of_same rfl

theorem SettingsInRange.defineNs (h : SettingsInRange s) (n : NsIx) :
    SettingsInRange (s.defineNs n) := by
  unfold State.defineNs
  split
  · exact h.of_same rfl
  split
  · exact (h.setRules n (f := fun x => { x with rules := s.paramRules, state := .enabled }) ‹_›).of_same rfl
  · exact h.of_same rfl

theorem SettingsInRange.changeNs (h : SettingsInRange s) (n : NsIx) :
    SettingsInRange (s.changeNs n) := by
  unfold State.changeNs
  split
  · exact h.of_same rfl
  split
  · split
    · exact (h.setRules n (f := fun x => { x with rules := s.paramRules }) ‹_›).of_same rfl
    · exact h.of_same rfl
  · exact h.of_same rfl

theorem SettingsInRange.setLeaseBounds (h : SettingsInRange s) : SettingsInRange s.setLeaseBounds := by
  unfold State.setLeaseBounds
  dsimp only
  split
  · rename_i hrange
    obtain ⟨-, -, -, hpool, hconfig, hrules⟩ := settingsInRange_iff.1 h
    have hmax : s.param 2 2 ≤ 65535 := Nat.le_of_lt_succ (s.param_lt 2 2)
    exact settingsInRange_iff.2 ⟨hrange.1, hrange.2, hmax, hpool, hconfig, hrules⟩
  · exact h.of_same rfl

theorem SettingsInRange.setPoolThreshold (h : SettingsInRange s) :
    SettingsInRange s.setPoolThreshold := by
  unfold State.setPoolThreshold
  dsimp only
  split
  · rename_i hrange
    obtain ⟨hlo, hle, hhi, -, hconfig, hrules⟩ := settingsInRange_iff.1 h
    have hset : SettingsInRange { s with poolThreshold := s.param 0 2 } :=
      settingsInRange_iff.2 ⟨hlo, hle, hhi, hrange, hconfig, hrules⟩
    exact hset.of_same (State.settings_ite (fun _ => rfl) fun _ => rfl)
  · exact h.of_same rfl

/-! ### The dispatch -/

theorem SettingsInRange.nsCommand (h : SettingsInRange s) {run : State → NsIx → State}
    (hrun : ∀ n, SettingsInRange (run s n)) : SettingsInRange (s.nsCommand run) := by
  unfold State.nsCommand
  split
  · exact h.of_same rfl
  · exact hrun _

theorem SettingsInRange.slotCommand (h : SettingsInRange s) {run : State → SlotIx → State}
    (hrun : ∀ i, (run s i).settings = s.settings) : SettingsInRange (s.slotCommand run) := by
  unfold State.slotCommand
  split
  · exact h.of_same rfl
  · exact h.of_same (hrun _)

theorem SettingsInRange.lineCommand (h : SettingsInRange s) {run : State → LineIx → State}
    (hrun : ∀ l, SettingsInRange (run s l)) : SettingsInRange (s.lineCommand run) := by
  unfold State.lineCommand
  split
  · exact h.of_same rfl
  · exact hrun _

/-- A command that is taken runs on the settings as they stand. -/
theorem SettingsInRange.commandStep (h : SettingsInRange s) {mine : Nat → Bool} {run : State → State}
    (hrun : ∀ v, SettingsInRange v → SettingsInRange (run v)) :
    SettingsInRange (s.commandStep mine run) := by
  unfold State.commandStep
  split
  · split
    · exact hrun _ (h.of_same rfl)
    · exact h
  · exact h

/-- Every command keeps the settings in their ranges. -/
theorem SettingsInRange.exec (h : SettingsInRange s) (c : Instr) :
    Answers SettingsInRange (Machine.exec c s) := by
  have keeps : ∀ {t : State}, t.settings = s.settings → Answers SettingsInRange (.next t) :=
    fun ht => .next (h.of_same ht)
  have all : ∀ {r : Result}, Answers (fun t => t.settings = s.settings) r → Answers SettingsInRange r :=
    fun ⟨t, ht, hs⟩ => ⟨t, ht, h.of_same hs⟩
  have line : ∀ {l c}, LineAction l c → Answers SettingsInRange (Machine.exec c s) :=
    fun ha => all (ha.settings s)
  have request : ∀ {l c}, RequestRow l c → Answers SettingsInRange (Machine.exec c s) := fun hr =>
    let ⟨t, ht, hf⟩ := hr.frame s
    ⟨t, ht, h.of_same hf.settings⟩
  have command : ∀ {mine : Nat → Bool} {run : State → State}, (∀ v, (run v).settings = v.settings) →
      Answers SettingsInRange (.next (s.commandStep mine run)) := fun hrun =>
    .next (h.commandStep fun v hv => hv.of_same (hrun v))
  have onLine : ∀ {mine : Nat → Bool} {run : State → LineIx → State},
      (∀ v l, (run v l).settings = v.settings) →
      Answers SettingsInRange (.next (s.commandStep mine (fun v => v.lineCommand run))) := fun hrun =>
    .next (h.commandStep fun v hv => hv.lineCommand fun l => hv.of_same (hrun v l))
  have onSlot : ∀ {mine : Nat → Bool} {run : State → SlotIx → State},
      (∀ v i, (run v i).settings = v.settings) →
      Answers SettingsInRange (.next (s.commandStep mine (fun v => v.slotCommand run))) := fun hrun =>
    .next (h.commandStep fun v hv => hv.slotCommand (hrun v))
  have disable : ∀ {mine : Nat → Bool}, Answers SettingsInRange
      (.next (s.commandStep mine (fun v => v.nsCommand State.disableNs))) :=
    .next (h.commandStep fun v hv => hv.nsCommand fun n => hv.of_same (v.settings_disableNs n))
  cases c with
  | reqOpen l => exact request (l := l) .opens
  | reqClose l => exact request (l := l) .closes
  | reqRenew l => exact request (l := l) .renews
  | reqAcquire l => exact request (l := l) .acquires
  | reqRelease l => exact request (l := l) .releases
  | reqConvert l => exact request (l := l) .converts
  | reqCancel l => exact request (l := l) .cancels
  | reqQuery l => exact request (l := l) .queries
  | reqGroup l => exact request (l := l) .groups
  | reqUnknownKind l => exact request (l := l) .others
  | setTokenBase => exact command State.settings_setTokenBase
  | startService => exact command State.settings_startService
  | suspendService => exact command State.settings_suspendService
  | clearService => exact command State.settings_clearService
  | defineNamespace => exact .next (h.commandStep fun v hv => hv.nsCommand hv.defineNs)
  | changeNamespace => exact .next (h.commandStep fun v hv => hv.nsCommand hv.changeNs)
  | disableNamespaceDrain => exact disable
  | disableNamespaceRevoke => exact disable
  | evictSession => exact onSlot State.settings_evict
  | inspectSession => exact onSlot fun _ _ => rfl
  | revokeLockHolders => exact command State.settings_revokeLock
  | revokeLockAll => exact command State.settings_revokeLock
  | inspectLock => exact command State.settings_inspectLock
  | lineConfig => exact .next (h.commandStep fun v hv => hv.lineCommand hv.configureLine)
  | lineEnable => exact onLine State.settings_enableLine
  | lineDisable => exact onLine State.settings_disableLine
  | lineRestart => exact onLine State.settings_restartLine
  | setLeaseBounds => exact .next (h.commandStep fun _ hv => hv.setLeaseBounds)
  | setPoolThreshold => exact .next (h.commandStep fun _ hv => hv.setPoolThreshold)
  | readCounters => exact command State.settings_readCounters
  | unknownCommand => exact command fun _ => rfl
  | mailboxAck p => exact keeps (State.settings_spiByte (s.settings_writeCommandCode _))
  | registerWrite addr data p => exact keeps (State.settings_spiByte (s.settings_writeWindow _ data))
  | causeClear target data p =>
    cases target with
    | device => exact keeps (State.settings_spiByte rfl)
    | line l => exact keeps (State.settings_spiByte (s.settings_writeLineByte l data))
  | maskWrite target data p =>
    cases target with
    | device => exact keeps (State.settings_spiByte rfl)
    | line l => exact keeps (State.settings_spiByte (s.settings_writeLineByte l data))
  | frameReceived l ch => exact line (.frame l ch)
  | lengthByte l ch => exact line (.length l ch)
  | gapLimitExpiry l idle => exact line (.gap l idle)
  | breakDetected l low => exact line (.brk l low)
  | requestSyncByte l ch => exact line (.hunt l ch)
  | bodyCharacter l ch => exact line (.body l ch)
  | replyFrameStart l idle => exact line (.reply l idle)
  | frameTransmissionEnd l => exact line (.sent l)
  | breakEnd l high => exact line (.brkEnd l high)
  | restartStep l => exact all (.ite (fun _ => (s.served _).settings_restartStep l) rfl)
  | noticeFrameStart l idle =>
    change Answers _ (execNoticeFrameStart l idle s)
    unfold execNoticeFrameStart
    split
    · split
      · exact keeps (s.settings_startNotice l _ _)
      · exact keeps rfl
    · exact keeps rfl
    · exact keeps rfl
  | sessionEndedFrameStart l idle =>
    change Answers _ (execSessionEndedFrameStart l idle s)
    unfold execSessionEndedFrameStart
    split
    · exact keeps ((s.countNotice _).settings_sendNotice l _)
    · exact keeps rfl
    · exact keeps rfl
  | timeCounterAdvance => exact keeps rfl
  | posting =>
    change Answers _ (execPosting s)
    unfold execPosting
    split
    · exact all (.ite (fun _ => rfl) rfl)
    · exact keeps rfl
  | leaseExpiry =>
    change Answers _ (execLeaseExpiry s)
    unfold execLeaseExpiry
    split
    · exact keeps (s.takeExpiry.settings_expireLease _ _)
    · exact keeps rfl
    · exact keeps rfl
  | waitExpiry =>
    change Answers _ (execWaitExpiry s)
    unfold execWaitExpiry
    split
    · exact keeps (s.takeExpiry.settings_expireWait _ _ _)
    · exact keeps rfl
    · exact keeps rfl
  | endingSweepStep i =>
    refine all (.ite (fun _ => ?_) rfl)
    split
    · exact (s.servedSweep _).settings_endingStep i _
    · rfl
  | endingSweepFinalStep i => exact all (.ite (fun _ => (s.servedSweep _).settings_endingFinal i) rfl)
  | revokeSweepStep n =>
    refine all (.ite (fun _ => ?_) rfl)
    split
    · exact (s.servedSweep _).settings_revokeStep n _
    · rfl
  | revokeSweepFinalStep n => exact all (.ite (fun _ => (s.servedSweep _).settings_revokeFinal n) rfl)
  | clearStep =>
    refine all (.ite (fun _ => ?_) rfl)
    split
    · exact (s.servedSweep _).settings_clearStep _
    · rfl
  | clearSweepFinalStep => exact all (.ite (fun _ => (s.servedSweep _).settings_clearFinal) rfl)
  | deviceReset => exact .next (State.reset_settings.of_same rfl)

end Sys2Proof.Machine

open Sys2Proof Sys2Proof.Machine

/-- Settles O56: of the commands, five write a setting, each after its range check; the rest leave them all. -/
theorem everyStepKeepsSettingsInRange : Obligations.EveryStepKeepsSettingsInRange :=
  fun _ _ => step_keeps (fun _ _ h => h.of_same rfl) fun _ c h => h.exec c
end

section
/-!
Claims that leave their lock: freeing (R25), detaching and its notice (R11, R44, R48, R49), and the revoking of
a list of claims (R46, R110).
-/

-- One theorem at a time: side by side they would need more memory than the check gives.
set_option Elab.async false

namespace Sys2Proof.Machine

variable {s : State} {c : ClaimIx}

/-! ### Notices (R48, R49) -/

/-- A first notice writes the claim and its line's list. -/
theorem State.raiseNotice_first (h : (s.claim c).notice = none) (k : NoticeKind) :
    s.raiseNotice c k =
      { s with claims := (s.raiseNotice c k).claims, lines := (s.raiseNotice c k).lines } := by
  unfold State.raiseNotice
  rw [h]
  rfl

/-- A later notice writes the claim alone. -/
theorem State.raiseNotice_later {pending : NoticeKind} (h : (s.claim c).notice = some pending)
    (k : NoticeKind) : s.raiseNotice c k = { s with claims := (s.raiseNotice c k).claims } := by
  unfold State.raiseNotice
  rw [h]
  rfl

theorem State.raiseNotice_other (s : State) (c : ClaimIx) (k : NoticeKind) :
    ClaimsSameBut [c] s (s.raiseNotice c k) := fun d hd => by
  rw [State.raiseNotice_claim, if_neg (List.ne_of_not_mem_cons hd).symm]

/-! ### Revoking (R46) -/

theorem State.dropClaim_other (s : State) {c d : ClaimIx} (k : NoticeKind) (h : c ≠ d) :
    (s.dropClaim c k).claim d = s.claim d := by
  rw [State.dropClaim_claim, if_neg h]

/-- A revoked claim's record: DETACHED with a REVOKED notice where its session is OPEN, else free. -/
def State.revoked (s : State) (c : ClaimIx) : Claim :=
  if (s.session (s.claim c).session).state = .opened then
    { s.claim c with state := .detached, upgrade := false, waitDeadline := none, notice := some .revoked }
  else { Claim.reset with useCount := (s.claim c).useCount }

theorem State.revokeClaim_same (s : State) (c : ClaimIx) : (s.revokeClaim c).claim c = s.revoked c := by
  refine (State.dropClaim_claim s.countRevoke c .revoked c).trans ((if_pos rfl).trans ?_)
  cases h : (s.claim c).notice <;> simp [State.revoked, mergedNotice_revoked, h]

theorem State.revokeClaim_other (s : State) {c d : ClaimIx} (h : c ≠ d) :
    (s.revokeClaim c).claim d = s.claim d := State.dropClaim_other s.countRevoke .revoked h

/-- A revoked claim is off its lock. -/
theorem State.revoked_state (s : State) (c : ClaimIx) :
    (s.revoked c).state = .detached ∨ (s.revoked c).state = .free := by
  unfold State.revoked
  split
  · exact .inl rfl
  · exact .inr rfl

theorem State.revokeClaim_session_state (s : State) (c : ClaimIx) (i : SlotIx) :
    ((s.revokeClaim c).session i).state = (s.session i).state := by
  rw [(TableStep.revokeClaim s c).sessions i]

theorem State.revokeClaims_cons (s : State) (c : ClaimIx) (cs : List ClaimIx) :
    s.revokeClaims (c :: cs) = (s.revokeClaim c).revokeClaims cs := rfl

theorem State.revokeClaims_other {cs : List ClaimIx} (h : c ∉ cs) :
    (s.revokeClaims cs).claim c = s.claim c := by
  induction cs generalizing s with
  | nil => rfl
  | cons d cs ih =>
    rw [List.mem_cons, not_or] at h
    rw [State.revokeClaims_cons, ih h.2, State.revokeClaim_other s (Ne.symm h.1)]

theorem State.revokeClaims_state {cs : List ClaimIx} (h : c ∈ cs) :
    ((s.revokeClaims cs).claim c).state = .detached ∨ ((s.revokeClaims cs).claim c).state = .free := by
  induction cs generalizing s with
  | nil => cases h
  | cons d cs ih =>
    rw [State.revokeClaims_cons]
    by_cases hc : c ∈ cs
    · exact ih hc
    · obtain rfl := (List.mem_cons.1 h).resolve_right hc
      rw [State.revokeClaims_other hc, State.revokeClaim_same]
      exact State.revoked_state s c

/-- A claim named once is revoked as it stood before any of the list. -/
theorem State.revokeClaims_once {cs : List ClaimIx} (h : cs.count c = 1) :
    (s.revokeClaims cs).claim c = s.revoked c := by
  induction cs generalizing s with
  | nil => cases h
  | cons d cs ih =>
    rw [State.revokeClaims_cons]
    by_cases hd : d = c
    · subst hd
      rw [State.revokeClaims_other (List.count_eq_zero.1 (by simpa using h)), State.revokeClaim_same]
    · rw [ih (by rwa [List.count_cons_of_ne hd] at h)]
      simp only [State.revoked, State.revokeClaim_other s hd, State.revokeClaim_session_state]

/-- The parts of the state that losing a lock leaves. -/
theorem State.dropClaim_leaves (s : State) (c : ClaimIx) (k : NoticeKind) :
    (s.dropClaim c k).counters = s.counters ∧ (s.dropClaim c k).tokenCounter = s.tokenCounter ∧
    (s.dropClaim c k).deviceCauses = s.deviceCauses ∧ (s.dropClaim c k).chains = s.chains := by
  unfold State.dropClaim
  split <;> simp

theorem State.revokeClaim_leaves (s : State) (c : ClaimIx) :
    (s.revokeClaim c).counters = { s.counters with revokes := countUp s.counters.revokes } ∧
    (s.revokeClaim c).tokenCounter = s.tokenCounter ∧
    (s.revokeClaim c).deviceCauses = s.deviceCauses ∧ (s.revokeClaim c).chains = s.chains :=
  State.dropClaim_leaves s.countRevoke c .revoked

theorem State.revokeClaims_leaves (s : State) (cs : List ClaimIx) :
    (s.revokeClaims cs).counters =
      { s.counters with revokes := countUp^[cs.length] s.counters.revokes } ∧
    (s.revokeClaims cs).tokenCounter = s.tokenCounter ∧
    (s.revokeClaims cs).deviceCauses = s.deviceCauses ∧ (s.revokeClaims cs).chains = s.chains := by
  induction cs generalizing s with
  | nil => exact ⟨rfl, rfl, rfl, rfl⟩
  | cons c cs ih =>
    obtain ⟨hcount, htoken, hcauses, hchains⟩ := State.revokeClaim_leaves s c
    obtain ⟨icount, itoken, icauses, ichains⟩ := ih (s.revokeClaim c)
    rw [State.revokeClaims_cons]
    refine ⟨?_, itoken.trans htoken, icauses.trans hcauses, ichains.trans hchains⟩
    rw [icount, hcount, List.length_cons, Function.iterate_succ_apply]

end Sys2Proof.Machine

open Sys2Proof Sys2Proof.Machine

/-- Settles O21, record by record. -/
theorem freeingAClaim : Obligations.FreeingAClaim := by
  intro s c hc x i e t
  refine ⟨State.freeClaim_writes s c, ?_, fun d hd => ?_, ?_, fun j hj => ?_, ?_, fun f hf => ?_, ?_,
    fun l hl => ?_⟩
  · exact (State.freeClaim_claim s c c).trans (if_pos rfl)
  · exact (State.freeClaim_claim s c d).trans (if_neg (List.ne_of_not_mem_cons hd).symm)
  · exact (State.freeClaim_session s c i).trans (if_pos rfl)
  · exact (State.freeClaim_session s c j).trans (if_neg (List.ne_of_not_mem_cons hj).symm)
  · exact (State.freeClaim_entry s c e).trans (if_pos rfl)
  · exact (State.freeClaim_entry s c f).trans (if_neg (List.ne_of_not_mem_cons hf).symm)
  · exact (State.freeClaim_line s c (lineOf i)).trans (if_pos rfl)
  · exact (State.freeClaim_line s c l).trans (if_neg (List.ne_of_not_mem_cons hl).symm)

/-- Settles O22: detaching record by record, and the raising of a first and of a later notice. -/
theorem detachingAClaimAndItsNotice : Obligations.DetachingAClaimAndItsNotice := by
  refine ⟨fun s c k hc => ?_, fun s c => ⟨fun k hn => ?_, fun pending new result hn hrow => ?_⟩⟩
  · intro x i e t
    refine ⟨State.detachClaim_writes s c k, ?_, fun d hd => ?_, ?_, fun j hj => ?_, ?_, fun f hf => ?_, ?_,
      fun l hl => ?_⟩
    · exact (State.detachClaim_claim s c c k).trans (if_pos rfl)
    · exact (State.detachClaim_claim s c d k).trans (if_neg (List.ne_of_not_mem_cons hd).symm)
    · exact (State.detachClaim_session s c k i).trans (if_pos rfl)
    · exact (State.detachClaim_session s c k j).trans (if_neg (List.ne_of_not_mem_cons hj).symm)
    · refine (State.detachClaim_entry s c k e).trans ((if_pos rfl).trans ?_)
      rcases hc with hx | hx
      · rw [if_pos hx, hx]; rfl
      · rw [if_neg (by simp [x, hx]), hx]; rfl
    · exact (State.detachClaim_entry s c k f).trans (if_neg (List.ne_of_not_mem_cons hf).symm)
    · exact (State.detachClaim_line s c k (lineOf i)).trans (if_pos rfl)
    · exact (State.detachClaim_line s c k l).trans (if_neg (List.ne_of_not_mem_cons hl).symm)
  · intro t
    refine ⟨State.raiseNotice_first hn k, ?_, State.raiseNotice_other s c k, ?_, fun l hl => ?_⟩
    · exact (State.raiseNotice_claim s c c k).trans ((if_pos rfl).trans (by rw [hn]))
    · exact (State.raiseNotice_line s c k _).trans ((if_pos rfl).trans (by rw [if_pos hn]))
    · exact (State.raiseNotice_line s c k l).trans (if_neg (List.ne_of_not_mem_cons hl).symm)
  · intro t
    refine ⟨State.raiseNotice_later hn new, ?_, State.raiseNotice_other s c new⟩
    have hmerge : mergedNotice pending new = result := by
      simp only [List.mem_cons, Prod.mk.injEq, List.not_mem_nil, or_false] at hrow
      rcases hrow with ⟨rfl, rfl, rfl⟩ | ⟨rfl, rfl, rfl⟩ | ⟨rfl, rfl, rfl⟩ | ⟨rfl, rfl, rfl⟩ |
        ⟨rfl, rfl, rfl⟩ | ⟨rfl, rfl, rfl⟩ <;> rfl
    exact (State.raiseNotice_claim s c c new).trans ((if_pos rfl).trans (by rw [hn, ← hmerge]))

/-- Settles O46, by induction on the list of claims. -/
theorem revokedClaimsAreDetachedOrFreed : Obligations.RevokedClaimsAreDetachedOrFreed := by
  intro s cs t
  obtain ⟨hcount, htoken, hcauses, hchains⟩ := State.revokeClaims_leaves s cs
  exact ⟨fun c hc => State.revokeClaims_state hc, fun c hc => State.revokeClaims_other hc,
    fun c hc _ => State.revokeClaims_once hc, hcount, htoken, hcauses, hchains,
    State.revokeClaims_namespaces s cs, (TableStep.revokeClaims s cs).host⟩
end

section
/-!
The grant pass and the sessions it looks at: a pending upgrade of a session that is not ENDING (R38, R63, R64),
and the claims of an ENDING one, which no pass grants (R39).
-/

-- One theorem at a time: side by side they would need more memory than the check gives.
set_option Elab.async false

namespace Sys2Proof.Machine

variable {s t u : State} {e : EntryIx} {c : ClaimIx}

/-! ### A pending upgrade of a session that is not ENDING (R38 steps 1 and 2) -/

theorem State.grantPass_of_upgrade (hu : (s.entry e).upgrade = some c)
    (hs : (s.session (s.claim c).session).state ≠ .ending) : s.grantPass e =
      if (s.entry e).holders = [c] then
        if s.canIssue then (s.upgradeClaim e c).raiseNotice c .granted else s.raise .tokensLow
      else s := by
  have hkeep : s.clearEndingUpgrade e = s := by
    unfold State.clearEndingUpgrade; rw [hu]; exact if_neg hs
  unfold State.grantPass
  rw [hkeep]
  simp only [hu]

/-- The parts of the state that the grant of a pending upgrade writes (R64). -/
theorem State.upgradeClaim_writes (hu : (s.entry e).upgrade = some c) : s.upgradeClaim e c =
    { s with
      claims := (s.upgradeClaim e c).claims, entries := (s.upgradeClaim e c).entries,
      deadlines := s.deadlines.filter (fun d => !refersToWait c d.ref),
      tokenCounter := s.tokenCounter + 1,
      deviceCauses := s.deviceCauses |||
        (if s.tokenCounter + 1 = Config.tokensLowMark then 0x40#7 else 0#7),
      counters := { s.counters with grants := countUp s.counters.grants } } := by
  have ht := fun v : State => State.issueToken_writes v c e
  apply State.eq_of_fields <;> simp <;> simp [State.upgradeClaim, hu] <;> rw [ht] <;>
    simp [State.countGrant]

/-- A granted upgrade with its notice writes what both write. -/
theorem State.upgradeClaim_told_writes (hu : (s.entry e).upgrade = some c) :
    (s.upgradeClaim e c).raiseNotice c .granted =
      { s with
        claims := ((s.upgradeClaim e c).raiseNotice c .granted).claims,
        entries := ((s.upgradeClaim e c).raiseNotice c .granted).entries,
        lines := ((s.upgradeClaim e c).raiseNotice c .granted).lines,
        deadlines := s.deadlines.filter (fun d => !refersToWait c d.ref),
        tokenCounter := s.tokenCounter + 1,
        deviceCauses := s.deviceCauses |||
          (if s.tokenCounter + 1 = Config.tokensLowMark then 0x40#7 else 0#7),
        counters := { s.counters with grants := countUp s.counters.grants } } := by
  apply State.eq_of_fields <;> simp <;> rw [State.upgradeClaim_writes hu]

/-- The claim of a granted upgrade, before its notice. -/
theorem State.upgradeClaim_claim_same (hu : (s.entry e).upgrade = some c) :
    (s.upgradeClaim e c).claim c = { s.claim c with
      mode := .exclusive, token := s.tokenCounter, upgrade := false, waitDeadline := none } := by
  rw [State.upgradeClaim_claim, if_pos rfl, if_pos hu, if_pos hu]

theorem State.upgradeClaim_claim_other {d : ClaimIx} (hd : c ≠ d) :
    (s.upgradeClaim e c).claim d = s.claim d := by
  rw [State.upgradeClaim_claim, if_neg hd]

/-! ### A claim of an ENDING session (R39) -/

/-- From `s` to `t` the claim `c` has not been granted: it is HELD only if it was, with its token or none. -/
def NotGranted (c : ClaimIx) (s t : State) : Prop :=
  ((t.claim c).state = .held → (s.claim c).state = .held) ∧
    ((t.claim c).token = (s.claim c).token ∨ (t.claim c).token = 0)

/-- If the claim `c` stands on the queue of `e`, it waits there for an ENDING session. -/
def Barred (s : State) (e : EntryIx) (c : ClaimIx) : Prop :=
  c ∈ (s.entry e).waiters →
    (s.session (s.claim c).session).state = .ending ∧ (s.claim c).state = .waiting ∧ (s.claim c).entry = e

theorem NotGranted.of_same (h : t.claim c = s.claim c) : NotGranted c s t := by
  rw [NotGranted, h]; exact ⟨id, .inl rfl⟩

theorem NotGranted.trans (h : NotGranted c s t) (g : NotGranted c t u) : NotGranted c s u :=
  ⟨h.1 ∘ g.1, g.2.elim (fun gt => h.2.imp gt.trans gt.trans) .inr⟩

theorem NotGranted.freeClaim (s : State) (c d : ClaimIx) : NotGranted c s (s.freeClaim d) := by
  by_cases h : d = c
  · subst h; simp [NotGranted, Claim.reset]
  · exact .of_same (by simp [h])

theorem NotGranted.dropClaim (s : State) (c d : ClaimIx) (k : NoticeKind) :
    NotGranted c s (s.dropClaim d k) := by
  unfold State.dropClaim
  split
  · by_cases h : d = c
    · subst h; simp [NotGranted]
    · exact .of_same (by simp [h])
  · exact .freeClaim s c d

theorem NotGranted.dropClaims (s : State) (c : ClaimIx) (ds : List ClaimIx) (k : NoticeKind) :
    NotGranted c s (ds.foldl (fun acc d => acc.dropClaim d k) s) := by
  induction ds generalizing s with
  | nil => exact .of_same rfl
  | cons d ds ih => exact (NotGranted.dropClaim s c d k).trans (ih _)

/-- What the pass leaves of the entry at its end grants nothing. -/
theorem NotGranted.settleEntry (s : State) (e : EntryIx) (c : ClaimIx) :
    NotGranted c s (s.settleEntry e) := by
  have hretire : ∀ v : State, NotGranted c v (v.retireEntry e) := fun v => .of_same (by simp)
  unfold State.settleEntry
  split
  · split
    · exact hretire s
    · exact (NotGranted.dropClaims s c _ _).trans (hretire _)
  · exact .of_same rfl

theorem entryWithout_waiters_subset (st : ClaimState) (d : ClaimIx) (x : Entry) :
    (entryWithout st d x).waiters ⊆ x.waiters := by
  cases st with
  | waiting => exact List.filter_subset_self _
  | held => exact fun _ h => h
  | detached => exact fun _ h => h
  | free => exact fun _ h => h

/-- A step that leaves the claim, its session's state and no new waiter. -/
theorem Barred.of_fewer (h : Barred s e c) (hw : (t.entry e).waiters ⊆ (s.entry e).waiters)
    (hc : (t.claim c).session = (s.claim c).session ∧ (t.claim c).state = (s.claim c).state ∧
      (t.claim c).entry = (s.claim c).entry)
    (hs : ∀ i, (t.session i).state = (s.session i).state) : Barred t e c := fun hmem => by
  obtain ⟨hsession, hstate, hentry⟩ := hc
  rw [hsession, hstate, hentry, hs]
  exact h (hw hmem)

/-- The head of an ENDING session that is freed is off the queue, and no other claim comes onto it. -/
theorem Barred.freeClaim (h : Barred s e c) (d : ClaimIx) : Barred (s.freeClaim d) e c := by
  have hentry := State.freeClaim_entry s d e
  by_cases hd : d = c
  · subst hd
    intro hmem
    rw [hentry] at hmem
    by_cases hw : d ∈ (s.entry e).waiters
    · obtain ⟨-, hstate, he⟩ := h hw
      rw [if_pos he, hstate] at hmem
      simp [entryWithout] at hmem
    · split at hmem
      · exact absurd (entryWithout_waiters_subset _ _ _ hmem) hw
      · exact absurd hmem hw
  · refine h.of_fewer ?_ (by simp [hd]) fun i => by rw [(TableStep.freeClaim s d).sessions i]
    rw [hentry]
    split
    · exact entryWithout_waiters_subset _ _ _
    · exact fun _ h => h

/-- Step 3 of the pass frees a head of an ENDING session, and grants the others. -/
theorem NotGranted.grantHeads (fuel : Nat) (h : Barred s e c) :
    NotGranted c s (State.grantHeads fuel s e) := by
  induction fuel generalizing s with
  | zero => exact .of_same rfl
  | succ fuel ih =>
    cases hw : (s.entry e).waiters with
    | nil => rw [State.grantHeads_nil hw]; exact .of_same rfl
    | cons d rest =>
      by_cases hs : (s.session (s.claim d).session).state = .ending
      · rw [State.grantHeads_of_ending hw hs]
        exact (NotGranted.freeClaim s c d).trans (ih (h.freeClaim d))
      have hne : d ≠ c := by
        rintro rfl
        exact hs (h (by rw [hw]; exact List.mem_cons_self)).1
      by_cases hg : s.headGrantable e (s.claim d).mode = true
      · by_cases ht : s.canIssue = true
        · have hclaim : (s.grantWaiting e d).claim c = s.claim c := by
            rw [State.grantWaiting_claim, if_neg hne]
          have hgrant : NotGranted c s (s.grantWaiting e d) := .of_same hclaim
          have hnext : Barred (s.grantWaiting e d) e c :=
            h.of_fewer (by rw [State.grantWaiting_waiters hw, hw]; exact List.subset_cons_self _ _)
              (by simp [hclaim]) (State.grantWaiting_session_state s e d)
          rw [State.grantHeads_of_granted hw hs hg ht]
          split
          · exact hgrant
          · exact hgrant.trans (ih hnext)
        · rw [State.grantHeads_of_exhausted hw hs hg ht]; exact .of_same rfl
      · rw [State.grantHeads_of_not_grantable hw hs hg]; exact .of_same rfl

/-- A pass never grants a claim that waits on the entry for an ENDING session, if at all. -/
theorem NotGranted.grantPass (hs : (s.session (s.claim c).session).state = .ending)
    (h : Barred s e c) : NotGranted c s (s.grantPass e) := by
  have nothing : ∀ {v : State}, (v.entry e).upgrade = none → Barred v e c →
      NotGranted c v (v.grantPass e) := fun hu hv => by
    rw [State.grantPass_of_no_upgrade hu]
    exact (NotGranted.grantHeads _ hv).trans (.settleEntry _ e c)
  cases hu : (s.entry e).upgrade with
  | none => exact nothing hu h
  | some d =>
    by_cases hd : (s.session (s.claim d).session).state = .ending
    · have hclaim := State.clearUpgrade_claim s e d c
      have hclear : NotGranted c s (s.clearUpgrade e d) := by
        rw [NotGranted, hclaim]
        split
        · rename_i hdc; subst hdc; exact ⟨id, .inl rfl⟩
        · exact ⟨id, .inl rfl⟩
      rw [State.grantPass_of_ending_upgrade hu hd]
      refine hclear.trans (nothing (by simp [State.clearUpgrade_entry]) (h.of_fewer ?_ ?_ fun i => by simp))
      · rw [State.clearUpgrade_entry, if_pos rfl]; exact fun _ h => h
      · rw [hclaim]
        split
        · rename_i hdc; subst hdc; exact ⟨rfl, rfl, rfl⟩
        · exact ⟨rfl, rfl, rfl⟩
    · have hne : d ≠ c := by rintro rfl; exact hd hs
      rw [State.grantPass_of_upgrade hu hd]
      refine .of_same ?_
      split
      · split
        · rw [State.raiseNotice_claim, if_neg hne, State.upgradeClaim_claim_other hne]
        · rfl
      · rfl

/-! ### An entry without a pending upgrade gets none in a pass -/

theorem entryWithout_upgrade {x : Entry} (h : x.upgrade = none) (st : ClaimState) (d : ClaimIx) :
    (entryWithout st d x).upgrade = none := by
  cases st <;> simp [entryWithout, h]

theorem State.freeClaim_upgrade (h : (s.entry e).upgrade = none) (d : ClaimIx) :
    ((s.freeClaim d).entry e).upgrade = none := by
  rw [State.freeClaim_entry]
  split
  · exact entryWithout_upgrade h _ _
  · exact h

theorem State.retireEntry_upgrade (s : State) (e : EntryIx) :
    ((s.retireEntry e).entry e).upgrade = none := by
  rw [State.retireEntry_entry, if_pos rfl]; rfl

theorem State.settleEntry_upgrade (h : (s.entry e).upgrade = none) :
    ((s.settleEntry e).entry e).upgrade = none := by
  unfold State.settleEntry State.detachWaiters
  split
  · split <;> exact State.retireEntry_upgrade _ e
  · exact h

theorem State.grantHeads_upgrade (fuel : Nat) (h : (s.entry e).upgrade = none) :
    ((State.grantHeads fuel s e).entry e).upgrade = none := by
  induction fuel generalizing s with
  | zero => exact h
  | succ fuel ih =>
    have hgrant : ∀ d, ((s.grantWaiting e d).entry e).upgrade = none := fun d => by
      rw [State.grantWaiting_entry, if_pos rfl]; exact h
    rw [State.grantHeads]
    split
    · exact h
    split
    · exact ih (State.freeClaim_upgrade h _)
    split
    · split
      · split
        · exact hgrant _
        · exact ih (hgrant _)
      · exact h
    · exact h

theorem State.grantPass_upgrade (h : (s.entry e).upgrade = none) :
    ((s.grantPass e).entry e).upgrade = none := by
  rw [State.grantPass_of_no_upgrade h]
  exact State.settleEntry_upgrade (State.grantHeads_upgrade _ h)

end Sys2Proof.Machine

open Sys2Proof Sys2Proof.Machine

/-- Settles O23, by the three outcomes of a pass that finds a pending upgrade. -/
theorem grantPassWithAPendingUpgrade : Obligations.GrantPassWithAPendingUpgrade := by
  intro s e c hu hs
  have hpass := State.grantPass_of_upgrade hu hs
  refine ⟨fun hh => hpass.trans (if_neg hh), fun hh ht => ?_, fun hh ht => ?_⟩
  · exact hpass.trans ((if_pos hh).trans (if_neg (by rw [State.canIssue_iff]; omega)))
  · rw [hpass.trans ((if_pos hh).trans (if_pos (State.canIssue_iff.2 ht)))]
    have hclaim := State.upgradeClaim_claim_same hu
    have hlines : ∀ l, (s.upgradeClaim e c).line l = s.line l :=
      fun l => State.line_congr (by rw [State.upgradeClaim_writes hu]) l
    have hwrites := State.upgradeClaim_told_writes hu
    have hcauses : ((s.upgradeClaim e c).raiseNotice c .granted).deviceCauses = s.deviceCauses |||
        (if s.tokenCounter + 1 = Config.tokensLowMark then 0x40#7 else 0#7) := by rw [hwrites]
    refine ⟨by rw [hcauses]; exact hwrites, ?_, fun d hd => ?_, hcauses, ?_, fun f hf => ?_, ?_, fun l hl => ?_⟩
    · rw [State.raiseNotice_claim, if_pos rfl, hclaim]
    · have hne := (List.ne_of_not_mem_cons hd).symm
      rw [State.raiseNotice_claim, if_neg hne, State.upgradeClaim_claim_other hne]
    · simp [State.upgradeClaim_entry, hu]
    · simp [State.upgradeClaim_entry, (List.ne_of_not_mem_cons hf).symm]
    · rw [State.raiseNotice_line, hclaim, if_pos rfl, hlines]
    · rw [State.raiseNotice_line, hclaim, if_neg (List.ne_of_not_mem_cons hl).symm, hlines]

/-- Settles O25, by the freeing of its heads and the clearing of its upgrade. -/
theorem grantPassNeverGrantsAnEndingSession : Obligations.GrantPassNeverGrantsAnEndingSession := by
  intro s e c hs hw
  obtain ⟨hheld, htoken⟩ := NotGranted.grantPass hs fun hc => ⟨hs, hw hc⟩
  refine ⟨fun hne h => hne (hheld h), htoken, fun hu => ?_⟩
  rw [State.grantPass_of_ending_upgrade hu hs]
  exact State.grantPass_upgrade (by rw [State.clearUpgrade_entry, if_pos rfl])
end

section
/-!
Requests that take, queue, release and cancel a claim: an admitted request whose work is known, and the
work of ACQUIRE (R33, R34, R36), RELEASE (R41) and CANCEL (R42, R43) where it is not refused.
-/

-- One theorem at a time: side by side they would need more memory than the check gives.
set_option Elab.async false

namespace Sys2Proof.Machine

variable {s : State} {l : LineIx} {i : SlotIx} {r : Request}

/-- An admitted request whose work is made of table operations is answered with what its work replies. -/
theorem requestStep_answers {isKind : Byte → Bool} {act : State → SlotIx → Request → State × Reply}
    {v : State} {reply : Reply} (h : RequestAdmitted s l r) (hk : isKind r.kind = true)
    (hw : act ((s.takeFrame l r).setLease (slotOf l r.station)) (slotOf l r.station) r = (v, reply))
    (hv : TableStep ((s.takeFrame l r).setLease (slotOf l r.station)) v) :
    RequestAnswered s v (s.requestStep l isKind (State.serveRequest act)) l r reply := by
  rw [State.requestStep_admitted h isKind hk act]
  dsimp only
  rw [hw]
  exact State.answered_after hv reply

/-! ### ACQUIRE (R33, R34, R36) -/

section
variable {f : AcquireFields} {e : EntryIx} {c : ClaimIx} {free : List ClaimIx}

theorem State.acquireAbsent_of_granted (hr : s.creationRefusal f.key = none) (ht : s.canIssue = true)
    (he : s.lowestFreeEntry = some e) (hf : s.freeList = c :: free) :
    s.acquireAbsent i f = (s.grantNew i f.key f.mode e c, ⟨.ok, beBytes 6 s.tokenCounter⟩) := by
  unfold State.acquireAbsent
  rw [hr, he, hf]
  exact if_pos ht

theorem State.acquireJoin_of_granted (ht : s.canIssue = true) (hf : s.freeList = c :: free) :
    s.acquireJoin i f e = (s.grantJoin i f.key e c, ⟨.ok, beBytes 6 s.tokenCounter⟩) := by
  unfold State.acquireJoin
  rw [hf]
  exact if_pos ht

theorem State.acquireQueue_of_queued (hw : f.wait ≠ 0)
    (hq : (s.entry e).waiters.length < (s.ns f.key.ns).rules.queueLimit) (hf : s.freeList = c :: free) :
    s.acquireQueue i f e = (s.queueClaim i f.key f.mode f.wait e c,
      ⟨.queued, [byteOf ((s.entry e).waiters.length + 1)]⟩) := by
  refine (if_neg hw).trans ((if_neg (Nat.not_le_of_lt hq)).trans ?_)
  rw [hf]

end

/-- The parts of the state that queueing a claim writes (R36). -/
theorem State.queueClaim_writes (s : State) (i : SlotIx) (k : Key) (m : Mode) (w : Nat) (e : EntryIx)
    (c : ClaimIx) : s.queueClaim i k m w e c =
      { s with
        claims := (s.queueClaim i k m w e c).claims, entries := (s.queueClaim i k m w e c).entries,
        sessions := (s.queueClaim i k m w e c).sessions,
        freeList := s.freeList.tail, freeClaimCount := s.freeClaimCount - 1,
        deadlines := (s.queueClaim i k m w e c).deadlines,
        deviceCauses := s.deviceCauses |||
          (if s.poolThreshold ≤ s.freeClaimCount ∧ s.freeClaimCount - 1 < s.poolThreshold then
            0x08#7 else 0#7) } := by
  have hw := State.takeClaim_writes s c true m e k i
  apply State.eq_of_fields <;> simp <;>
    simp only [State.queueClaim, State.startWait_fields, State.updEntry_freeList,
      State.updEntry_freeClaimCount, State.updEntry_deviceCauses]
  all_goals rw [hw]

/-! ### RELEASE (R41) -/

section
variable {k : Key} {c : ClaimIx}

theorem State.release_of_bad_payload (h : keyPayload r.payload = none) :
    s.release i r = (s, ⟨.badRequest, []⟩) := by
  unfold State.release; rw [h]; rfl

theorem State.release_of_held (h : keyPayload r.payload = some k)
    (ho : s.ownClaimOn k i = .held c ∨ s.ownClaimOn k i = .upgrading c) :
    s.release i r = ((s.freeClaim c).grantPass (s.claim c).entry, ⟨.ok, []⟩) := by
  unfold State.release
  rw [h]
  obtain ho | ho := ho
  · simp only [ho]; rfl
  · simp only [ho]; rfl

theorem State.release_of_not_held (h : keyPayload r.payload = some k)
    (ho : ∀ c, s.ownClaimOn k i ≠ .held c ∧ s.ownClaimOn k i ≠ .upgrading c) :
    s.release i r = (s, ⟨.notHeld, []⟩) := by
  unfold State.release
  rw [h]
  dsimp only
  split
  case h_1 hc => exact absurd hc (ho _).1
  case h_2 hc => exact absurd hc (ho _).2
  case h_3 => rfl
  case h_4 => rfl

/-! ### CANCEL (R42, R43) -/

theorem State.cancel_of_bad_payload (h : keyPayload r.payload = none) :
    s.cancel i r = (s, ⟨.badRequest, []⟩) := by
  unfold State.cancel; rw [h]; rfl

theorem State.cancel_of_waiting (h : keyPayload r.payload = some k)
    (ho : s.ownClaimOn k i = .waiting c) :
    s.cancel i r = ((s.freeClaim c).grantPass (s.claim c).entry, ⟨.ok, []⟩) := by
  unfold State.cancel
  rw [h]
  simp only [ho]

theorem State.cancel_of_upgrading (h : keyPayload r.payload = some k)
    (ho : s.ownClaimOn k i = .upgrading c) : s.cancel i r =
      ((s.clearUpgrade (s.claim c).entry c).grantPass (s.claim c).entry, ⟨.ok, []⟩) := by
  unfold State.cancel
  rw [h]
  simp only [ho]

theorem State.cancel_of_not_waiting (h : keyPayload r.payload = some k)
    (ho : ∀ c, s.ownClaimOn k i ≠ .waiting c ∧ s.ownClaimOn k i ≠ .upgrading c) :
    s.cancel i r = (s, ⟨.notWaiting, []⟩) := by
  unfold State.cancel
  rw [h]
  dsimp only
  split
  case h_1 hc => exact absurd hc (ho _).1
  case h_2 hc => exact absurd hc (ho _).2
  case h_3 => rfl
  case h_4 => rfl

end

end Sys2Proof.Machine

open Sys2Proof Sys2Proof.Machine

/-- Settles O31, by the two grants an ACQUIRE makes at once. -/
theorem acquireIsGrantedAtOnce : Obligations.AcquireIsGrantedAtOnce := by
  intro s l r f c free i h hk hpass hf ht
  obtain ⟨hlookup, hown, -, hlowest, -, hissue, hnow, hcreate, htake, -⟩ := State.begun_searches s l r i
  have hfree : ((s.takeFrame l r).setLease i).freeList = c :: free := by simpa using hf
  have htokens : ((s.takeFrame l r).setLease i).tokenCounter = s.tokenCounter := by simp
  have hcan := hissue.trans (State.canIssue_iff.2 ht)
  have hchecks := (htake i f.key f.mode).trans (State.takingRefusal_of_passes hpass)
  obtain ⟨hp, -, -⟩ := hpass
  have hkind : (fun k => k == 0x04#8) r.kind = true := by rw [hk]; rfl
  refine ⟨fun e hl he hq hc => ?_, fun e hl ho hm hmode hup hw hh => ?_⟩
  · have hroom := (State.creationRefusal_of_room hq hc (by simp [he])).trans (if_neg (by simp [hf]))
    have hwork := (State.acquire_of_absent hp hchecks ((hlookup _).trans hl)).trans
      (State.acquireAbsent_of_granted ((hcreate _).trans hroom) hcan (hlowest.trans he) hfree)
    rw [htokens] at hwork
    exact ⟨_, _, _, rfl, State.begun_spec s l r, State.grantNew_spec _ _ _ _ _ _,
      requestStep_answers h hkind hwork (.grantNew _ _ _ _ _ _)⟩
  · have hgrant : s.grantableNow e f.mode = true := by
      simp [State.grantableNow, hm, hmode, hup, hw, hh]
    have hwork := ((State.acquire_of_present hp hchecks ((hlookup _).trans hl)).trans
      (if_pos ((hown _ _).trans ho))).trans ((if_pos ((hnow _ _).trans hgrant)).trans
        (State.acquireJoin_of_granted hcan hfree))
    rw [htokens] at hwork
    exact ⟨_, _, _, rfl, State.begun_spec s l r, State.grantJoin_spec _ _ _ _ _,
      requestStep_answers h hkind hwork (.grantJoin _ _ _ _ _)⟩

/-- Settles O32, by what queueing a claim writes. -/
theorem acquireIsQueued : Obligations.AcquireIsQueued := by
  intro s l r f e c free i h hk hpass hl ho hg hw hq hf ends
  obtain ⟨hlookup, hown, -, -, -, -, hnow, -, htake, -⟩ := State.begun_searches s l r i
  have hfree : ((s.takeFrame l r).setLease i).freeList = c :: free := by simpa using hf
  have hchecks := (htake i f.key f.mode).trans (State.takingRefusal_of_passes hpass)
  obtain ⟨hp, -, -⟩ := hpass
  have hkind : (fun k => k == 0x04#8) r.kind = true := by rw [hk]; rfl
  have hwork := ((State.acquire_of_present hp hchecks ((hlookup _).trans hl)).trans
    (if_pos ((hown _ _).trans ho))).trans ((if_neg (by rw [hnow, State.grantableNow_iff.2 hg]; decide)).trans
      (State.acquireQueue_of_queued hw (by simpa using hq) hfree))
  have hentry : ((s.takeFrame l r).setLease i).entry e = s.entry e := by simp
  have hclaim : ((s.takeFrame l r).setLease i).claim c = s.claim c := by simp
  have htime : ((s.takeFrame l r).setLease i).time = s.time := by simp
  have hthreshold : ((s.takeFrame l r).setLease i).poolThreshold = s.poolThreshold := by simp
  have hcount : ((s.takeFrame l r).setLease i).freeClaimCount = s.freeClaimCount := by simp
  have hcauses : ((s.takeFrame l r).setLease i).deviceCauses = s.deviceCauses := by simp
  rw [hentry] at hwork
  refine ⟨_, _, _, rfl, State.begun_spec s l r, ?_, ?_, fun d hd => ?_, ?_, fun x hx => ?_, ?_,
    fun j hj => ?_, requestStep_answers h hkind hwork (.queueClaim _ _ _ _ _ _ _)⟩
  · have hwrites := State.queueClaim_writes ((s.takeFrame l r).setLease i) i f.key f.mode f.wait e c
    rw [State.queueClaim_deadlines, hfree, hclaim, htime, hthreshold, hcount, hcauses] at hwrites
    refine hwrites.trans ?_
    by_cases h : f.wait = 65535
    · simp only [ends, if_pos h]; rfl
    · simp only [ends, if_neg h]; rfl
  · rw [State.queueClaim_claim, if_pos rfl, hclaim, htime]
  · rw [State.queueClaim_claim, if_neg (List.ne_of_not_mem_cons hd).symm]
  · rw [State.queueClaim_entry, if_pos rfl, hentry]
  · rw [State.queueClaim_entry, if_neg (List.ne_of_not_mem_cons hx).symm]
  · rw [State.queueClaim_session, if_pos rfl]
  · rw [State.queueClaim_session, if_neg (List.ne_of_not_mem_cons hj).symm]

/-- Settles O34, by the equations of the RELEASE's work. -/
theorem releaseFreesTheClaimAndRunsAPass : Obligations.ReleaseFreesTheClaimAndRunsAPass := by
  intro s l r h hk i
  obtain ⟨-, -, hown, -⟩ := State.begun_searches s l r i
  have hkind : (fun k => k == 0x05#8) r.kind = true := by rw [hk]; rfl
  refine ⟨fun k c hp ho => ?_, fun k hp ho => ?_, fun hp => ?_⟩
  · have hclaim : ((s.takeFrame l r).setLease i).claim c = s.claim c := by simp
    rw [← hown] at ho
    have hwork := State.release_of_held hp ho
    rw [hclaim] at hwork
    exact ⟨_, _, rfl, State.begun_spec s l r,
      requestStep_answers h hkind hwork ((TableStep.freeClaim _ _).trans (.grantPass _ _))⟩
  · simp only [← hown] at ho
    exact ⟨_, _, rfl, State.begun_spec s l r,
      requestStep_answers h hkind (State.release_of_not_held hp ho) (.refl _)⟩
  · exact ⟨_, _, rfl, State.begun_spec s l r,
      requestStep_answers h hkind (State.release_of_bad_payload hp) (.refl _)⟩

/-- Settles O35, by the equations of the CANCEL's work. -/
theorem cancelEndsAWaitOrAnUpgrade : Obligations.CancelEndsAWaitOrAnUpgrade := by
  intro s l r h hk i
  obtain ⟨-, -, hown, -⟩ := State.begun_searches s l r i
  have hclaim : ∀ c, ((s.takeFrame l r).setLease i).claim c = s.claim c := by simp
  have hkind : (fun k => k == 0x07#8) r.kind = true := by rw [hk]; rfl
  refine ⟨fun k c hp ho => ?_, ?_, fun k hp ho => ?_, fun hp => ?_⟩
  · have hwork := State.cancel_of_waiting hp ((hown _ _).trans ho)
    rw [hclaim] at hwork
    exact ⟨_, _, rfl, State.begun_spec s l r,
      requestStep_answers h hkind hwork ((TableStep.freeClaim _ _).trans (.grantPass _ _))⟩
  · intro k c hp ho e
    have hwork := State.cancel_of_upgrading hp ((hown _ _).trans ho)
    have hentry : ((s.takeFrame l r).setLease i).entry e = s.entry e := by simp
    rw [hclaim] at hwork
    refine ⟨_, _, _, rfl, State.begun_spec s l r, State.clearUpgrade_writes _ e c, ?_, fun d hd => ?_,
      ?_, fun x hx => ?_, requestStep_answers h hkind hwork
        ((TableStep.clearUpgrade _ _ _).trans (.grantPass _ _))⟩
    · rw [State.clearUpgrade_claim, if_pos rfl, hclaim]
    · rw [State.clearUpgrade_claim, if_neg (List.ne_of_not_mem_cons hd).symm]
    · rw [State.clearUpgrade_entry, if_pos rfl, hentry]
    · rw [State.clearUpgrade_entry, if_neg (List.ne_of_not_mem_cons hx).symm]
  · simp only [← hown] at ho
    exact ⟨_, _, rfl, State.begun_spec s l r,
      requestStep_answers h hkind (State.cancel_of_not_waiting hp ho) (.refl _)⟩
  · exact ⟨_, _, rfl, State.begun_spec s l r,
      requestStep_answers h hkind (State.cancel_of_bad_payload hp) (.refl _)⟩
end

section
/-!
The start of a notice frame (R51, R94, R131, R152): the item at the head of its line's list leaves it, and
the frame of its claim or session is sent.
-/

-- One theorem at a time: side by side they would need more memory than the check gives.
set_option Elab.async false

namespace Sys2Proof.Machine

variable {s : State} {l : LineIx} {i : SlotIx} {c : ClaimIx} {idle : Nat}

/-- The head of the notice list starts while the transmitter is free and no reply slot is filled. -/
theorem Line.nextNotice_of_head {ln : Line} {it : NoticeItem} {rest : List NoticeItem}
    (hm : ln.mayStart idle = true) (hr : ∀ x ∈ ln.replies, x.content = none)
    (hn : ln.notices = it :: rest) : ln.nextNotice idle = some it := by
  unfold Line.nextNotice
  rw [if_pos ⟨hm, firstFilled_eq_none_iff.2 hr⟩, hn]
  rfl

/-- The bytes of a notice frame (Table 11.2). -/
theorem noticeFrame_eq (st : StationIx) (incarnation code counter : Byte) (payload : List Byte) :
    noticeFrame st incarnation code counter payload =
      let covered := byteOf (6 + payload.length) ::
        [byteOf (16 + st.val), incarnation, 0#8, code, 0#8, counter] ++ payload
      0x5A#8 :: covered ++ crcBytes covered := by
  have hlength : ([stationByte st, incarnation, 0#8, code, 0#8, counter] ++ payload).length =
      6 + payload.length := by rw [List.length_append]; rfl
  unfold noticeFrame sealFrame
  rw [hlength]
  rfl

/-! ### A session's counter advances and a frame of it is sent -/

/-- The frame is sent in the name of the session `i`. -/
def State.noticeSent (s : State) (l : LineIx) (i : SlotIx) (frame : List Byte) : State :=
  (s.countNotice i).sendNotice l frame

theorem State.countNotice_session (s : State) (i j : SlotIx) : (s.countNotice i).session j =
    if i = j then { s.session i with noticeCounter := (s.session i).noticeCounter + 1#8 }
    else s.session j := by
  simp [State.countNotice, State.updSession_session]

theorem State.noticeSent_line (s : State) (l : LineIx) (i : SlotIx) (frame : List Byte) (m : LineIx) :
    (s.noticeSent l i frame).line m = if l = m then
      { s.line l with notices := (s.line l).notices.tail, transmitting := some frame }
      else s.line m := by
  simp [State.noticeSent, State.sendNotice, State.updLine_line]

theorem State.noticeSent_session (s : State) (l : LineIx) (i : SlotIx) (frame : List Byte) (j : SlotIx) :
    (s.noticeSent l i frame).session j =
      if i = j then { s.session i with noticeCounter := (s.session i).noticeCounter + 1#8 }
      else s.session j := by
  simp [State.noticeSent, State.countNotice_session]

/-! ### The two kinds of item -/

/-- The frame of a claim's notice, with the advanced counter (R48, R131). -/
def State.claimFrame (s : State) (c : ClaimIx) (k : NoticeKind) : List Byte :=
  let i := (s.claim c).session
  noticeFrame (stationOf i) (s.session i).incarnation (noticeCode k)
    ((s.session i).noticeCounter + 1#8) (noticePayload k (s.claim c))

/-- The state in which a claim's notice frame is sent, before a DETACHED claim is freed. -/
def State.claimNoticeSent (s : State) (l : LineIx) (c : ClaimIx) (k : NoticeKind) : State :=
  (s.noticeSent l (s.claim c).session (s.claimFrame c k)).updClaim c (fun x => { x with notice := none })

theorem State.startNotice_eq (s : State) (l : LineIx) (c : ClaimIx) (k : NoticeKind) :
    s.startNotice l c k = if (s.claim c).state = .detached then (s.claimNoticeSent l c k).freeClaim c
      else s.claimNoticeSent l c k := by
  have hstate : ((s.claimNoticeSent l c k).claim c).state = (s.claim c).state := by
    simp [State.claimNoticeSent, State.noticeSent]
  rw [← hstate]
  simp [State.startNotice, State.claimNoticeSent, State.noticeSent, State.claimFrame,
    State.countNotice_session]

/-- The frame of a session's end (R94). -/
def State.endFrame (s : State) (i : SlotIx) : List Byte :=
  noticeFrame (stationOf i) (s.session i).incarnation 0xC4#8 ((s.session i).noticeCounter + 1#8)
    [endCauseCode (s.session i).endCause]

theorem State.startSessionEnded_eq (s : State) (l : LineIx) (i : SlotIx) :
    s.startSessionEnded l i =
      (s.noticeSent l i (s.endFrame i)).updSession i (fun x => { x with state := .idle }) := by
  simp [State.startSessionEnded, State.noticeSent, State.endFrame, State.countNotice_session]

theorem exec_noticeFrameStart {k : NoticeKind} (hn : (s.line l).nextNotice idle = some (.claim c))
    (hk : (s.claim c).notice = some k) :
    exec (.noticeFrameStart l idle) s = .next (s.startNotice l c k) := by
  show execNoticeFrameStart l idle s = _
  unfold execNoticeFrameStart
  rw [hn]
  simp only [hk]

theorem exec_sessionEndedFrameStart (hn : (s.line l).nextNotice idle = some (.sessionEnded i)) :
    exec (.sessionEndedFrameStart l idle) s = .next (s.startSessionEnded l i) := by
  show execSessionEndedFrameStart l idle s = _
  unfold execSessionEndedFrameStart
  rw [hn]

end Sys2Proof.Machine

open Sys2Proof Sys2Proof.Machine

/-- Settles O16, by the head of the notice list and what sending its frame writes. -/
theorem noticeFramesOfClaimsAndSessions : Obligations.NoticeFramesOfClaimsAndSessions := by
  refine ⟨?_, ?_⟩
  · intro s l idle c rest k i payload code covered hm hr hn hk
    have hframe : s.claimFrame c k = 0x5A#8 :: covered ++ crcBytes covered := by
      unfold State.claimFrame
      rw [noticeFrame_eq]
      cases k <;> rfl
    refine ⟨s.claimNoticeSent l c k, s.startNotice l c k,
      exec_noticeFrameStart (Line.nextNotice_of_head hm hr hn) hk, rfl, ?_, fun m hl => ?_, ?_,
      fun j hj => ?_, ?_, fun d hd => ?_, s.startNotice_eq l c k⟩
    · rw [← hframe]; simp [State.claimNoticeSent, State.noticeSent_line, hn]
    · simp [State.claimNoticeSent, State.noticeSent_line, (List.ne_of_not_mem_cons hl).symm]
    · simp [State.claimNoticeSent, State.noticeSent_session, i]
    · simp [State.claimNoticeSent, State.noticeSent_session, (List.ne_of_not_mem_cons hj).symm, i]
    · simp [State.claimNoticeSent, State.noticeSent]
    · simp [State.claimNoticeSent, State.noticeSent, State.updClaim_claim,
        (List.ne_of_not_mem_cons hd).symm]
  · intro s l idle i rest covered hm hr hn
    have hframe : s.endFrame i = 0x5A#8 :: covered ++ crcBytes covered := noticeFrame_eq _ _ _ _ _
    refine ⟨_, (exec_sessionEndedFrameStart (Line.nextNotice_of_head hm hr hn)).trans
      (congrArg Host.Outcome.next (s.startSessionEnded_eq l i)), rfl, ?_, fun m hl => ?_, ?_,
      fun j hj => ?_⟩
    · rw [← hframe]; simp [State.noticeSent_line, hn]
    · simp [State.noticeSent_line, (List.ne_of_not_mem_cons hl).symm]
    · simp [State.noticeSent_session]
    · simp [State.noticeSent_session, State.updSession_session, (List.ne_of_not_mem_cons hj).symm]
end

section
/-!
The token counter (R54 to R58): which operations may issue tokens, and that they issue only while the counter can
hold another.
-/

-- One theorem at a time: side by side they would need more memory than the check gives.
set_option Elab.async false

namespace Sys2Proof.Machine

/-- From `s` to `t` tokens may have been issued: the counter has not fallen and stays within 48 bits, and the
loaded mark, the service state and the clear sweep's activity are as before. -/
structure TokensIssued (s t : State) : Prop where
  grows : s.tokenCounter ≤ t.tokenCounter
  bounded : s.tokenCounter ≤ Config.tokenExhausted → t.tokenCounter ≤ Config.tokenExhausted
  loaded : t.tokenLoaded = s.tokenLoaded
  service : t.service = s.service
  clearSweep : t.clearSweep = s.clearSweep

namespace TokensIssued

variable {s t u : State} {i : SlotIx} {c : ClaimIx} {e : EntryIx}

theorem trans (h : TokensIssued s t) (g : TokensIssued t u) : TokensIssued s u where
  grows := h.grows.trans g.grows
  bounded := g.bounded ∘ h.bounded
  loaded := g.loaded.trans h.loaded
  service := g.service.trans h.service
  clearSweep := g.clearSweep.trans h.clearSweep

/-- No token is issued. -/
theorem of_same (hc : t.tokenCounter = s.tokenCounter) (hl : t.tokenLoaded = s.tokenLoaded)
    (hs : t.service = s.service) (hw : t.clearSweep = s.clearSweep) : TokensIssued s t where
  grows := hc.ge
  bounded h := hc.trans_le h
  loaded := hl
  service := hs
  clearSweep := hw

theorem refl (s : State) : TokensIssued s s := .of_same rfl rfl rfl rfl

/-- Where the host's side is as before, the counter decides. -/
theorem of_host (h : HostSideSame s t) (hg : s.tokenCounter ≤ t.tokenCounter)
    (hb : s.tokenCounter ≤ Config.tokenExhausted → t.tokenCounter ≤ Config.tokenExhausted) :
    TokensIssued s t := ⟨hg, hb, by rw [h], by rw [h], by rw [h]⟩

/-- Table operations that issue no token. -/
theorem of_table (h : TableStep s t) (hc : t.tokenCounter = s.tokenCounter := by simp) :
    TokensIssued s t := .of_host h.host h.tokens hc.trans_le

/-- Table operations that issue one token, the counter having been looked at before. -/
theorem of_issue (h : TableStep s t) (hc : t.tokenCounter = s.tokenCounter + 1)
    (hcan : s.canIssue = true) : TokensIssued s t :=
  .of_host h.host h.tokens fun _ => hc.trans_le (State.canIssue_iff.1 hcan)

theorem ite {a b : State} {p : Prop} [Decidable p] (ha : p → TokensIssued s a)
    (hb : ¬ p → TokensIssued s b) : TokensIssued s (if p then a else b) := by
  split
  · exact ha ‹_›
  · exact hb ‹_›

theorem foldl {α : Type} (f : State → α → State) (hf : ∀ s a, TokensIssued s (f s a)) (as : List α)
    (s : State) : TokensIssued s (as.foldl f s) := by
  induction as generalizing s with
  | nil => exact refl s
  | cons a as ih => exact (hf s a).trans (ih _)

/-! ### Primitive updates -/

theorem updLine (s : State) (l : LineIx) (f : Line → Line) : TokensIssued s (s.updLine l f) :=
  .of_same rfl rfl rfl rfl

theorem updSession (s : State) (i : SlotIx) (f : Session → Session) :
    TokensIssued s (s.updSession i f) := .of_same rfl rfl rfl rfl

theorem updNs (s : State) (n : NsIx) (f : Namespace → Namespace) : TokensIssued s (s.updNs n f) :=
  .of_same rfl rfl rfl rfl

theorem raise (s : State) (k : DeviceCause) : TokensIssued s (s.raise k) := .of_same rfl rfl rfl rfl

theorem complete (s : State) (r : ResultCode) (bs : List Byte) : TokensIssued s (s.complete r bs) :=
  .of_same rfl rfl rfl rfl

/-! ### Claims and entries -/

theorem freeClaim (s : State) (c : ClaimIx) : TokensIssued s (s.freeClaim c) :=
  .of_table (.freeClaim s c)

theorem raiseNotice (s : State) (c : ClaimIx) (k : NoticeKind) : TokensIssued s (s.raiseNotice c k) :=
  .of_table (.raiseNotice s c k)

theorem clearUpgrade (s : State) (e : EntryIx) (c : ClaimIx) : TokensIssued s (s.clearUpgrade e c) :=
  .of_table (.clearUpgrade s e c)

theorem dropClaim (s : State) (c : ClaimIx) (k : NoticeKind) : TokensIssued s (s.dropClaim c k) :=
  .of_table (.dropClaim s c k) (State.dropClaim_leaves s c k).2.1

theorem revokeClaims (s : State) (cs : List ClaimIx) : TokensIssued s (s.revokeClaims cs) :=
  .of_table (.revokeClaims s cs) (State.revokeClaims_leaves s cs).2.1

theorem retireEntry (s : State) (e : EntryIx) : TokensIssued s (s.retireEntry e) :=
  .of_table (.retireEntry s e)

theorem detachWaiters (s : State) (e : EntryIx) : TokensIssued s (s.detachWaiters e) :=
  (foldl _ (fun s c => dropClaim s c .waitExpired) _ s).trans (retireEntry _ e)

end TokensIssued

/-- The parts of the state that an upgrade writes, the claim being the pending upgrade or not (R61, R64). -/
theorem State.upgradeClaim_writes_either (s : State) (e : EntryIx) (c : ClaimIx) : s.upgradeClaim e c =
    { s with
      claims := (s.upgradeClaim e c).claims, entries := (s.upgradeClaim e c).entries,
      tokenCounter := s.tokenCounter + 1,
      deadlines := if (s.entry e).upgrade = some c then
        s.deadlines.filter (fun d => !refersToWait c d.ref) else s.deadlines,
      deviceCauses := s.deviceCauses |||
        (if s.tokenCounter + 1 = Config.tokensLowMark then 0x40#7 else 0#7),
      counters := { s.counters with grants := countUp s.counters.grants } } := by
  by_cases hu : (s.entry e).upgrade = some c
  · rw [if_pos hu]
    exact State.upgradeClaim_writes hu
  · have hissue := fun v : State => State.issueToken_writes v c e
    rw [if_neg hu]
    apply State.eq_of_fields <;> simp <;> simp only [State.upgradeClaim, if_neg hu, State.countGrant]
    all_goals rw [hissue]
    all_goals rfl

namespace TokensIssued

variable {s : State} {c : ClaimIx} {e : EntryIx}

/-! ### Grants (R37 to R39, R61, R64) -/

theorem upgradeClaim (hcan : s.canIssue = true) : TokensIssued s (s.upgradeClaim e c) :=
  .of_issue (.upgradeClaim s e c) (by rw [State.upgradeClaim_writes_either]) hcan

theorem grantWaiting (hcan : s.canIssue = true) : TokensIssued s (s.grantWaiting e c) :=
  .of_issue (.grantWaiting s e c) (State.grantWaiting_fields s e c).1 hcan

theorem grantHeads (fuel : Nat) (s : State) (e : EntryIx) :
    TokensIssued s (State.grantHeads fuel s e) := by
  induction fuel generalizing s with
  | zero => exact refl s
  | succ fuel ih =>
    rw [State.grantHeads]
    split
    · exact refl s
    · refine ite (fun _ => (freeClaim s _).trans (ih _)) fun _ => ?_
      refine ite (fun _ => ?_) fun _ => refl s
      refine ite (fun hcan => ?_) fun _ => raise s _
      exact ite (fun _ => grantWaiting hcan) fun _ => (grantWaiting hcan).trans (ih _)

theorem settleEntry (s : State) (e : EntryIx) : TokensIssued s (s.settleEntry e) :=
  ite (fun _ => ite (fun _ => retireEntry s e) fun _ => detachWaiters s e) fun _ => refl s

theorem clearEndingUpgrade (s : State) (e : EntryIx) : TokensIssued s (s.clearEndingUpgrade e) := by
  unfold State.clearEndingUpgrade
  split
  · exact ite (fun _ => clearUpgrade s e _) fun _ => refl s
  · exact refl s

theorem grantPass (s : State) (e : EntryIx) : TokensIssued s (s.grantPass e) := by
  refine (clearEndingUpgrade s e).trans ?_
  unfold State.grantPass
  generalize s.clearEndingUpgrade e = u
  dsimp only
  split
  · refine ite (fun _ => ite (fun hcan => ?_) fun _ => raise u _) fun _ => refl u
    exact (upgradeClaim hcan).trans (raiseNotice _ _ _)
  · exact (grantHeads _ u e).trans (settleEntry _ e)

theorem freeThenPass (s : State) (c : ClaimIx) (e : EntryIx) :
    TokensIssued s ((s.freeClaim c).grantPass e) := (freeClaim s c).trans (grantPass _ e)

theorem clearThenPass (s : State) (e : EntryIx) (c : ClaimIx) :
    TokensIssued s ((s.clearUpgrade e c).grantPass e) := (clearUpgrade s e c).trans (grantPass _ e)

end TokensIssued

end Sys2Proof.Machine
end

section
/-!
A request issues tokens at most, and only while the counter can hold them: the request path and the ten kinds
(R54, R56, R57, R69).
-/

-- One theorem at a time: side by side they would need more memory than the check gives.
set_option Elab.async false

namespace Sys2Proof.Machine

/-- A granted record takes one token. -/
theorem RecordGranted.tokenCounter {u v : State} {i : SlotIx} {k : Key} {m : Mode} {e : EntryIx}
    {c : ClaimIx} (h : RecordGranted u v i k m e c) : v.tokenCounter = u.tokenCounter + 1 := by
  obtain ⟨hwrites, -⟩ := h
  rw [hwrites]

/-- An element of a group takes one token at most. -/
theorem State.grantElement_tokenCounter_le (s : State) (i : SlotIx) (el : GroupElement) :
    (s.grantElement i el).tokenCounter ≤ s.tokenCounter + 1 := by
  unfold State.grantElement
  split
  · exact Nat.le_succ _
  split
  · exact (State.grantJoin_spec s i el.key _ _).1.tokenCounter.le
  split
  · exact (State.grantNew_spec s i el.key el.mode _ _).1.tokenCounter.le
  · exact Nat.le_succ _

theorem State.grantElements_tokenCounter_le (s : State) (i : SlotIx) (els : List GroupElement) :
    (els.foldl (fun acc el => acc.grantElement i el) s).tokenCounter ≤ s.tokenCounter + els.length := by
  induction els generalizing s with
  | nil => exact le_refl _
  | cons el els ih =>
    calc _ ≤ (s.grantElement i el).tokenCounter + els.length := ih _
      _ ≤ s.tokenCounter + (els.length + 1) := by
        have := s.grantElement_tokenCounter_le i el
        omega

namespace TokensIssued

variable {s t : State} {i : SlotIx} {r : Request}

/-! ### The request path -/

theorem setLease (s : State) (i : SlotIx) : TokensIssued s (s.setLease i) :=
  .of_same rfl rfl rfl rfl

theorem fillReply (s : State) (i : SlotIx) (reply : Reply) : TokensIssued s (s.fillReply i reply) :=
  updLine s _ _

theorem answer (s : State) (i : SlotIx) (reply : Reply) : TokensIssued s (s.answer i reply) :=
  .of_same (by simp) (by simp) (by simp) (by simp)

theorem finish (s : State) (i : SlotIx) (r : Request) (reply : Reply) :
    TokensIssued s (s.finish i r reply) :=
  (answer s i reply).trans
    (updSession (s.answer i reply) i (fun x => { x with cache := ⟨r.tag, r.kind, reply, true⟩ }))

theorem answerFromCache (s : State) (i : SlotIx) : TokensIssued s (s.answerFromCache i) :=
  (setLease s i).trans (fillReply _ i _)

theorem suspendedLease (s : State) (i : SlotIx) (r : Request) : TokensIssued s (s.suspendedLease i r) :=
  ite (fun _ => setLease s i) fun _ => refl s

theorem commonChecks (h : s.commonChecks i r = some t) : TokensIssued s t := by
  unfold State.commonChecks at h
  split at h
  · cases h; exact (suspendedLease s i r).trans (answer _ i _)
  · cases h; exact answer s i _
  · split at h
    · cases h; exact answer s i _
    · split at h <;> cases h
      exact answerFromCache s i

theorem enterEnding (s : State) (i : SlotIx) (cause : EndCause) :
    TokensIssued s (s.enterEnding i cause) := .of_same rfl rfl rfl rfl

/-! ### The kinds -/

theorem acceptOpen (s : State) (i : SlotIx) (r : Request) : TokensIssued s (s.acceptOpen i r) := by
  unfold State.acceptOpen
  refine TokensIssued.trans (t := if (s.session i).state = .ended then s.withdrawSessionEnded i else s)
    (ite (fun _ => updLine s _ _) fun _ => refl s) ?_
  exact ((updSession _ i _).trans (setLease _ i)).trans (finish _ i r _)

theorem openClosed (s : State) (i : SlotIx) (r : Request) : TokensIssued s (s.openClosed i r) :=
  ite (fun _ => answer s i _) fun _ => ite (fun _ => answer s i _) fun _ => acceptOpen s i r

theorem serveOpen (s : State) (i : SlotIx) (r : Request) : TokensIssued s (s.serveOpen i r) := by
  unfold State.serveOpen
  split
  · exact answer s i _
  · split
    · exact ite (fun _ => answerFromCache s i) fun _ => answer s i _
    · exact answer s i _
    · exact openClosed s i r
    · exact openClosed s i r

theorem serveClose (s : State) (i : SlotIx) (r : Request) : TokensIssued s (s.serveClose i r) := by
  unfold State.serveClose
  split
  · exact commonChecks ‹_›
  · exact ite (fun _ => (enterEnding s i _).trans (updSession _ i _))
      fun _ => (setLease s i).trans (finish _ i r _)

theorem acquireAbsent (s : State) (i : SlotIx) (f : AcquireFields) :
    TokensIssued s (s.acquireAbsent i f).1 := by
  unfold State.acquireAbsent
  split
  · exact raise s _
  split
  · split
    · exact of_issue (.grantNew _ _ _ _ _ _) (State.grantNew_spec _ _ _ _ _ _).1.tokenCounter ‹_›
    · exact raise s _
  · exact raise s _

theorem acquireJoin (s : State) (i : SlotIx) (f : AcquireFields) (e : EntryIx) :
    TokensIssued s (s.acquireJoin i f e).1 := by
  unfold State.acquireJoin
  split
  · exact raise s _
  split
  · exact of_issue (.grantJoin _ _ _ _ _) (State.grantJoin_spec _ _ _ _ _).1.tokenCounter ‹_›
  · exact raise s _

theorem acquireQueue (s : State) (i : SlotIx) (f : AcquireFields) (e : EntryIx) :
    TokensIssued s (s.acquireQueue i f e).1 := by
  unfold State.acquireQueue
  split
  · exact refl s
  split
  · exact refl s
  split
  · exact raise s _
  · exact of_table (.queueClaim _ _ _ _ _ _ _)

theorem acquire (s : State) (i : SlotIx) (r : Request) : TokensIssued s (s.acquire i r).1 := by
  unfold State.acquire
  split
  · exact refl s
  split
  · exact refl s
  split
  · exact acquireAbsent s i _
  split
  · split
    · exact acquireJoin s i _ _
    · exact acquireQueue s i _ _
  · exact refl s

theorem release (s : State) (i : SlotIx) (r : Request) : TokensIssued s (s.release i r).1 := by
  unfold State.release
  split
  · exact refl s
  split
  · exact freeThenPass s _ _
  · exact freeThenPass s _ _
  · exact refl s
  · exact refl s

theorem cancel (s : State) (i : SlotIx) (r : Request) : TokensIssued s (s.cancel i r).1 := by
  unfold State.cancel
  split
  · exact refl s
  split
  · exact freeThenPass s _ _
  · exact clearThenPass s _ _
  · exact refl s
  · exact refl s

theorem convertUp (s : State) (c : ClaimIx) (wait : Nat) : TokensIssued s (s.convertUp c wait).1 := by
  unfold State.convertUp
  dsimp only
  split
  · split
    · exact upgradeClaim ‹_›
    · exact raise s _
  split
  · exact refl s
  split
  · exact refl s
  · exact of_table (.makePending _ _ _ _)

theorem convertHeld (s : State) (c : ClaimIx) (f : AcquireFields) :
    TokensIssued s (s.convertHeld c f).1 := by
  unfold State.convertHeld
  split
  · exact refl s
  split
  · exact (of_table ((TableStep.updClaim s c (fun x => { x with mode := .shared })).trans
      (.updEntry _ (s.claim c).entry (fun x => { x with mode := .shared })))).trans (grantPass _ _)
  · exact convertUp s c _

theorem convert (s : State) (i : SlotIx) (r : Request) : TokensIssued s (s.convert i r).1 := by
  unfold State.convert
  split
  · exact refl s
  split
  · exact refl s
  split
  · exact convertHeld s _ _
  · exact convertHeld s _ _
  · exact refl s
  · exact refl s

/-- A group looks once whether the counter can hold its tokens, one for each element (R69, R70). -/
theorem group (s : State) (i : SlotIx) (r : Request) : TokensIssued s (s.group i r).1 := by
  unfold State.group
  split
  · exact refl s
  split
  · exact refl s
  split
  · exact raise s _
  split
  · have hstep := TableStep.foldl _ (fun s el => TableStep.grantElement s i el)
    exact of_host (hstep _ s).host (hstep _ s).tokens fun _ =>
      (s.grantElements_tokenCounter_le i _).trans ‹_›
  · exact raise s _

theorem serveRequest {act : State → SlotIx → Request → State × Reply}
    (hact : ∀ u, TokensIssued u (act u i r).1) : TokensIssued s (State.serveRequest act s i r) := by
  unfold State.serveRequest
  split
  · exact commonChecks ‹_›
  · exact ((setLease s i).trans (hact _)).trans (finish _ i r _)

theorem requestStep {l : LineIx} {isKind : Byte → Bool} {serve : State → SlotIx → Request → State}
    (hserve : ∀ u i r, TokensIssued u (serve u i r)) : TokensIssued s (s.requestStep l isKind serve) := by
  have htake : ∀ r, TokensIssued s (s.takeFrame l r) := fun _ => .of_same rfl rfl rfl rfl
  unfold State.requestStep
  split
  · exact ite (fun _ => (htake _).trans (hserve _ _ _)) fun _ => refl s
  · exact refl s

end TokensIssued

/-- A request row issues tokens at most. -/
theorem RequestRow.issues {l : LineIx} {c : Instr} (h : RequestRow l c) (s : State) :
    Answers (TokensIssued s) (exec c s) := by
  cases h with
  | opens => exact .next (.requestStep fun u i r => .serveOpen u i r)
  | closes => exact .next (.requestStep fun u i r => .serveClose u i r)
  | renews =>
    exact .next (.requestStep fun _ i r => .serveRequest
      fun u => by rw [State.renew_state]; exact .refl u)
  | acquires => exact .next (.requestStep fun _ i r => .serveRequest fun u => .acquire u i r)
  | releases => exact .next (.requestStep fun _ i r => .serveRequest fun u => .release u i r)
  | converts => exact .next (.requestStep fun _ i r => .serveRequest fun u => .convert u i r)
  | cancels => exact .next (.requestStep fun _ i r => .serveRequest fun u => .cancel u i r)
  | queries =>
    exact .next (.requestStep fun _ i r => .serveRequest
      fun u => by rw [State.query_state]; exact .refl u)
  | groups => exact .next (.requestStep fun _ i r => .serveRequest fun u => .group u i r)
  | others => exact .next (.requestStep fun _ i r => .serveRequest fun u => .refl u)

end Sys2Proof.Machine
end

section
/-!
Every command but device reset keeps the law of the token counter, and in service neither lowers the counter nor
returns the part to HALTED (R54 to R56, R166 to R168).
-/

-- One theorem at a time: side by side they would need more memory than the check gives.
set_option Elab.async false

namespace Sys2Proof.Machine

variable {s t u : State}

namespace TokensIssued

/-! ### Notices, sessions and expiries -/

theorem forgetNotice (s : State) (c : ClaimIx) : TokensIssued s
    (if ((s.updClaim c (fun x => { x with notice := none })).claim c).state = .detached then
      (s.updClaim c (fun x => { x with notice := none })).freeClaim c
      else s.updClaim c (fun x => { x with notice := none })) := by
  have h : TokensIssued s (s.updClaim c (fun x => { x with notice := none })) :=
    .of_same rfl rfl rfl rfl
  exact ite (fun _ => h.trans (freeClaim _ c)) fun _ => h

theorem emptyNotices (s : State) (l : LineIx) : TokensIssued s (s.emptyNotices l) := by
  refine (updLine s l _).trans (foldl _ (fun v it => ?_) _ _)
  cases it with
  | claim c => exact forgetNotice v c
  | sessionEnded i => exact ite (fun _ => updSession v i _) fun _ => refl v

theorem restartSessions (s : State) (l : LineIx) (cause : EndCause) (suppress : Bool) :
    TokensIssued s (s.restartSessions l cause suppress) := by
  refine foldl _ (fun v i => ?_) _ s
  unfold State.restartSession
  split
  · exact (enterEnding v i cause).trans (updSession _ i _)
  · exact updSession v i _
  · exact refl v
  · exact refl v

theorem restartStep (s : State) (l : LineIx) : TokensIssued s (s.restartStep l) :=
  ((emptyNotices s l).trans (restartSessions _ l .lineBreak false)).trans
    (updLine _ l (fun ln => { ln with restartStepPending := false, state := .active }))

theorem startNotice (s : State) (l : LineIx) (c : ClaimIx) (k : NoticeKind) :
    TokensIssued s (s.startNotice l c k) :=
  ((updSession s (s.claim c).session (fun x => { x with noticeCounter := x.noticeCounter + 1#8 })).trans
    (updLine _ l _)).trans (forgetNotice _ c)

theorem expireLease (s : State) (i : SlotIx) (n : Nat) : TokensIssued s (s.expireLease i n) :=
  ite (fun _ => .of_same rfl rfl rfl rfl) fun _ => refl s

theorem expireWait (s : State) (c : ClaimIx) (w : BitVec 16) (n : Nat) :
    TokensIssued s (s.expireWait c w n) := by
  have hcount : TokensIssued s s.countWaitExpiry := .of_same rfl rfl rfl rfl
  refine ite (fun _ => ite (fun _ => ?_) fun _ => ?_) fun _ => refl s
  · exact hcount.trans ((dropClaim _ c _).trans (grantPass _ _))
  · have hclear := hcount.trans (clearUpgrade _ (s.claim c).entry c)
    exact (ite (fun _ => hclear.trans (raiseNotice _ c _)) fun _ => hclear).trans (grantPass _ _)

/-! ### Sweeps -/

theorem takeBack (s : State) (c : ClaimIx) : TokensIssued s (s.takeBack c) := by
  unfold State.takeBack
  split
  · exact freeThenPass s c _
  · exact freeThenPass s c _
  · exact freeClaim s c
  · exact refl s

theorem endingStep (s : State) (i : SlotIx) (c : ClaimIx) : TokensIssued s (s.endingStep i c) :=
  ((updSession s i (fun x => { x with endingSweep := .running })).trans (takeBack _ c)).trans
    (foldl _ (fun v d => clearThenPass v _ d) _ _)

theorem settleClose (s : State) (i : SlotIx) : TokensIssued s (s.settleClose i) :=
  ite (fun _ => .of_same rfl rfl rfl rfl) fun _ => refl s

theorem leaveEnding (s : State) (i : SlotIx) : TokensIssued s (s.leaveEnding i) := by
  have hoff := updSession s i (fun x => { x with endingSweep := .inactive })
  refine hoff.trans (ite (fun _ => ?_) fun _ => ite (fun _ => ?_) fun _ => ?_)
  · exact (settleClose _ i).trans (updSession _ i _)
  · exact (updSession _ i _).trans (updLine _ _ _)
  · exact updSession _ i _

theorem completeRestart (s : State) (l : LineIx) : TokensIssued s (s.completeRestart l) :=
  ite (fun _ => (updLine s l _).trans (complete _ _ _)) fun _ => refl s

theorem endingFinal (s : State) (i : SlotIx) : TokensIssued s (s.endingFinal i) := by
  have hevict : ∀ v : State, TokensIssued v (v.completeEvict i) := fun v =>
    ite (fun _ => complete v _ _) fun _ => refl v
  exact ((leaveEnding s i).trans (hevict _)).trans (completeRestart _ _)

theorem revokeEntry (s : State) (e : EntryIx) (h w : List ClaimIx) :
    TokensIssued s (((s.revokeClaims h).revokeClaims w).retireEntry e) :=
  ((revokeClaims s h).trans (revokeClaims _ w)).trans (retireEntry _ e)

theorem revokeStep (s : State) (n : NsIx) (e : EntryIx) : TokensIssued s (s.revokeStep n e) :=
  (revokeEntry s e (s.entry e).holders (s.entry e).waiters).trans (.of_same rfl rfl rfl rfl)

theorem revokeFinal (s : State) (n : NsIx) : TokensIssued s (s.revokeFinal n) :=
  (updNs s n _).trans (complete _ _ _)

/-- A clear step frees claims and retires entries, and issues no token (R169). -/
theorem clearStep (s : State) (i : SlotIx) : TokensIssued s (s.clearStep i) := by
  have h : TokensIssued s (s.clearSession i) := by
    have hwrites := ClearWrites.clearSession s i
    exact .of_same (by rw [hwrites]) (by rw [hwrites]) (by rw [hwrites]) (by rw [hwrites])
  exact h.trans (.of_same rfl rfl rfl rfl)

/-! ### Commands of the host that leave the token counter (R103 to R107, R155, R158, R171 to R177) -/

theorem nsCommand {run : State → NsIx → State} (hrun : ∀ s n, TokensIssued s (run s n)) (s : State) :
    TokensIssued s (s.nsCommand run) := by
  unfold State.nsCommand
  split
  · exact complete s _ _
  · exact hrun s _

theorem slotCommand {run : State → SlotIx → State} (hrun : ∀ s i, TokensIssued s (run s i)) (s : State) :
    TokensIssued s (s.slotCommand run) := by
  unfold State.slotCommand
  split
  · exact complete s _ _
  · exact hrun s _

theorem lineCommand {run : State → LineIx → State} (hrun : ∀ s l, TokensIssued s (run s l)) (s : State) :
    TokensIssued s (s.lineCommand run) := by
  unfold State.lineCommand
  split
  · exact complete s _ _
  · exact hrun s _

theorem defineNs (s : State) (n : NsIx) : TokensIssued s (s.defineNs n) :=
  ite (fun _ => complete s _ _) fun _ =>
    ite (fun _ => (updNs s n _).trans (complete _ _ _)) fun _ => complete s _ _

theorem changeNs (s : State) (n : NsIx) : TokensIssued s (s.changeNs n) :=
  ite (fun _ => complete s _ _) fun _ => ite (fun _ =>
    ite (fun _ => (updNs s n _).trans (complete _ _ _)) fun _ => complete s _ _) fun _ => complete s _ _

theorem disableNs (s : State) (n : NsIx) : TokensIssued s (s.disableNs n) := by
  unfold State.disableNs
  split
  · exact complete s _ _
  · exact ite (fun _ => complete s _ _) fun _ => complete s _ _
  · refine ite (fun _ => ?_) fun _ => ite (fun _ => .of_same rfl rfl rfl rfl) fun _ => complete s _ _
    exact ((updNs s n (fun x => { x with state := .draining })).trans
      (of_table (.completeDrain _ n))).trans (complete _ _ _)

theorem evict (s : State) (i : SlotIx) : TokensIssued s (s.evict i) := by
  unfold State.evict
  split
  · exact complete s _ _
  · exact complete s _ _
  · exact complete s _ _
  · exact (enterEnding s i .evicted).trans (.of_same rfl rfl rfl rfl)

theorem revokeLock (s : State) : TokensIssued s s.revokeLock := by
  unfold State.revokeLock
  split
  · exact complete s _ _
  refine ite (fun _ => ?_) fun _ => ite (fun _ => ?_) fun _ => complete s _ _
  · split
    · exact complete s _ _
    · exact ((revokeClaims s _).trans (grantPass _ _)).trans (complete _ _ _)
  · split
    · exact complete s _ _
    · exact (revokeEntry s _ _ _).trans (complete _ _ _)

theorem inspectLock (s : State) : TokensIssued s s.inspectLock := by
  unfold State.inspectLock
  split
  · exact complete s _ _
  refine ite (fun _ => ?_) fun _ => complete s _ _
  split <;> exact complete s _ _

theorem configureLine (s : State) (l : LineIx) : TokensIssued s (s.configureLine l) := by
  refine ite (fun _ => complete s _ _) fun _ => ?_
  split
  · exact (updLine s l _).trans (complete _ _ _)
  · exact complete s _ _

theorem enableLine (s : State) (l : LineIx) : TokensIssued s (s.enableLine l) := by
  unfold State.enableLine
  split
  · exact (updLine s l _).trans (complete _ _ _)
  · exact complete s _ _
  · exact complete s _ _

theorem beginRestart (s : State) (l : LineIx) (fin : RestartEnd) :
    TokensIssued s (s.beginRestart l fin) := by
  have hlong : ∀ v : State, TokensIssued v { v with longCommand := some (.restartLine l) } := fun _ =>
    .of_same rfl rfl rfl rfl
  exact (((((updLine s l Line.stopped).trans (emptyNotices _ l)).trans (restartSessions _ l _ _)).trans
    (updLine _ l _)).trans (hlong _)).trans (completeRestart _ l)

theorem restartLine (s : State) (l : LineIx) : TokensIssued s (s.restartLine l) := by
  unfold State.restartLine
  split
  · exact beginRestart s l _
  · exact complete s _ _
  · exact complete s _ _

theorem disableLine (s : State) (l : LineIx) : TokensIssued s (s.disableLine l) := by
  unfold State.disableLine
  split
  · exact beginRestart s l _
  · exact complete s _ _
  · exact complete s _ _

theorem setLeaseBounds (s : State) : TokensIssued s s.setLeaseBounds :=
  ite (fun _ => .of_same rfl rfl rfl rfl) fun _ => complete s _ _

theorem setPoolThreshold (s : State) : TokensIssued s s.setPoolThreshold := by
  refine ite (fun _ => ?_) fun _ => complete s _ _
  have hset : TokensIssued s { s with poolThreshold := s.param 0 2 } := .of_same rfl rfl rfl rfl
  exact (hset.trans (ite (fun _ => raise _ _) fun _ => refl _)).trans (complete _ _ _)

theorem readCounters (s : State) : TokensIssued s s.readCounters := by
  unfold State.readCounters
  split
  · exact (updLine s _ _).trans (complete _ _ _)
  · exact ite (fun _ => .of_same rfl rfl rfl rfl) fun _ => complete s _ _

/-! ### The host's writes (R164) -/

theorem writeCommandCode (s : State) (data : Byte) : TokensIssued s (s.writeCommandCode data) := by
  unfold State.writeCommandCode
  split
  · exact ite (fun _ => raise s _) fun _ => .of_same rfl rfl rfl rfl
  · exact raise s _
  · exact ite (fun _ => .of_same rfl rfl rfl rfl) fun _ => raise s _

theorem writeWindow (s : State) (a : Nat) (data : Byte) : TokensIssued s (s.writeWindow a data) := by
  unfold State.writeWindow
  split
  · exact writeCommandCode s data
  split
  · exact .of_same rfl rfl rfl rfl
  split
  · exact .of_same rfl rfl rfl rfl
  split
  · exact updLine s _ _
  split
  · exact .of_same rfl rfl rfl rfl
  · exact refl s

theorem spiByte {p : SpiPlace} {a : Nat} {write : State → State} (hw : TokensIssued s (write s)) :
    TokensIssued s (s.spiByte p a write) :=
  ite (fun _ => hw.trans (.of_same rfl rfl rfl rfl)) fun _ => refl s

end TokensIssued

/-! ### The commands that load the counter or change the service state (R55, R167, R168, R170) -/

/-- A base is accepted in HALTED if it is not 0, and above the counter elsewhere. -/
theorem State.acceptsBase_iff {v : Nat} :
    s.acceptsBase v = true ↔ if s.service = .halted then v ≠ 0 else s.tokenCounter < v := by
  unfold State.acceptsBase
  split <;> simp [*]

/-- What every command but device reset does: it keeps the law of the token counter, and in service it neither
lowers the counter nor returns the part to HALTED. -/
structure TokenStep (s t : State) : Prop where
  law : TokenCounterLaw s → TokenCounterLaw t
  grows : s.service ≠ .halted → s.tokenCounter ≤ t.tokenCounter
  service : s.service ≠ .halted → t.service ≠ .halted

namespace TokenStep

theorem of_issued (h : TokensIssued s t) : TokenStep s t where
  law := fun ⟨hbound, hloaded, hne, hsweep⟩ => by
    refine ⟨h.bounded hbound, fun hs => ?_, fun hl => ?_, fun hw => ?_⟩
    · rw [h.loaded]; exact hloaded (h.service ▸ hs)
    · have := hne (h.loaded ▸ hl)
      have := h.grows
      omega
    · rw [h.service]; exact hsweep (h.clearSweep ▸ hw)
  grows _ := h.grows
  service hs := h.service ▸ hs

theorem after (g : TokenStep t u) (h : TokensIssued s t) : TokenStep s u where
  law := g.law ∘ (of_issued h).law
  grows hs := h.grows.trans (g.grows ((of_issued h).service hs))
  service hs := g.service ((of_issued h).service hs)

theorem before (h : TokenStep s t) (g : TokensIssued t u) : TokenStep s u where
  law := (of_issued g).law ∘ h.law
  grows hs := (h.grows hs).trans g.grows
  service hs := (of_issued g).service (h.service hs)

theorem loadTokenBase {v : Nat} (hv : v ≤ Config.tokenExhausted) (ha : s.acceptsBase v = true) :
    TokenStep s (s.loadTokenBase v) := by
  rw [State.acceptsBase_iff] at ha
  have hloaded : TokenStep s { s with tokenCounter := v, tokenLoaded := true } := by
    refine ⟨fun ⟨_, _, _, hsweep⟩ => ⟨hv, fun _ => rfl, fun _ => ?_, hsweep⟩, fun hs => ?_, id⟩
    · show v ≠ 0
      split at ha
      · exact ha
      · exact Nat.ne_of_gt (Nat.zero_lt_of_lt ha)
    · rw [if_neg hs] at ha
      exact ha.le
  exact hloaded.before (.ite (fun _ => .raise _ _) fun _ => .refl _)

theorem setTokenBase (s : State) : TokenStep s s.setTokenBase := by
  unfold State.setTokenBase
  dsimp only
  split
  · exact (loadTokenBase (Nat.le_of_lt_succ (s.param_lt 0 6)) ‹_›).before (.complete _ _ _)
  · exact of_issued (.complete s _ _)

/-- Service goes on in another state: from a state other than CLEARING, to one other than HALTED, and out of
HALTED with the counter loaded. -/
theorem setService {v : ServiceState} (hs : s.service ≠ .clearing) (hv : v ≠ .halted)
    (hl : s.service = .halted → s.tokenLoaded = true) : TokenStep s { s with service := v } where
  law := fun ⟨hbound, hloaded, hne, hsweep⟩ => by
    refine ⟨hbound, fun _ => ?_, hne, fun hw => absurd (hsweep hw) hs⟩
    by_cases hh : s.service = .halted
    · exact hl hh
    · exact hloaded hh
  grows _ := le_refl _
  service _ := hv

theorem startService (s : State) : TokenStep s s.startService := by
  unfold State.startService
  split
  · split
    · exact (setService (v := .running) (by simp [*]) (by simp) (by simp [*])).before (.complete _ _ _)
    · exact of_issued (.complete s _ _)
  · exact of_issued (.complete s _ _)
  · exact (setService (v := .running) (by simp [*]) (by simp) (by simp [*])).before (.complete _ _ _)
  · exact of_issued (.complete s _ _)

theorem suspendService (s : State) : TokenStep s s.suspendService := by
  unfold State.suspendService
  split
  · exact of_issued (.complete s _ _)
  · exact (setService (v := .suspended) (by simp [*]) (by simp) (by simp [*])).before (.complete _ _ _)
  · exact of_issued (.complete s _ _)
  · exact of_issued (.complete s _ _)

/-- The clear sweep begins together with CLEARING. -/
theorem clearService (s : State) : TokenStep s s.clearService := by
  unfold State.clearService
  split
  · rename_i hs
    exact ⟨fun ⟨hbound, hloaded, hne, _⟩ => ⟨hbound, fun _ => hloaded (by simp [hs]), hne, fun _ => rfl⟩,
      fun _ => le_refl _, fun _ => by simp⟩
  · exact of_issued (.complete s _ _)
  · exact of_issued (.complete s _ _)
  · exact of_issued (.complete s _ _)

/-- The sweep's end starts the service again; an active sweep tells that the counter is loaded. -/
theorem clearFinal (hw : s.clearSweep = true) : TokenStep s s.clearFinal where
  law := fun ⟨hbound, hloaded, hne, hsweep⟩ =>
    ⟨hbound, fun _ => hloaded (by rw [hsweep hw]; simp), hne, fun h => (by cases h)⟩
  grows _ := le_refl _
  service _ h := by cases h

/-! ### The dispatch -/

theorem commandStep {mine : Nat → Bool} {run : State → State} (hrun : ∀ v, TokenStep v (run v)) :
    Answers (TokenStep s) (.next (s.commandStep mine run)) := by
  have htake : TokensIssued s s.takeCommand := .of_same rfl rfl rfl rfl
  unfold State.commandStep
  split
  · exact .ite (fun _ => (hrun _).after htake) (of_issued (.refl s))
  · exact .next (of_issued (.refl s))

/-- Every command but device reset makes such a step. -/
theorem exec (s : State) {c : Instr} (hc : c ≠ .deviceReset) : Answers (TokenStep s) (Machine.exec c s) := by
  have issued : ∀ {r : Result}, Answers (TokensIssued s) r → Answers (TokenStep s) r :=
    fun ⟨t, ht, h⟩ => ⟨t, ht, of_issued h⟩
  have one : ∀ {t : State}, TokensIssued s t → Answers (TokenStep s) (.next t) := fun h => issued (.next h)
  have same : TokensIssued s s := .refl s
  have request : ∀ {l c}, RequestRow l c → Answers (TokenStep s) (Machine.exec c s) :=
    fun hr => issued (hr.issues s)
  have line : ∀ {l c}, LineAction l c → Answers (TokenStep s) (Machine.exec c s) := fun ha =>
    let ⟨t, ht, f, _, hf⟩ := ha.touches s
    ⟨t, ht, by rw [hf]; exact of_issued (.updLine s _ f)⟩
  have command : ∀ {mine : Nat → Bool} {run : State → State}, (∀ v, TokensIssued v (run v)) →
      Answers (TokenStep s) (.next (s.commandStep mine run)) :=
    fun hrun => commandStep fun v => of_issued (hrun v)
  have arbiter : ∀ p, TokensIssued s (s.served p) := fun p => .of_same rfl rfl rfl rfl
  have source : ∀ p, TokensIssued s (s.servedSweep p) := fun p => .of_same rfl rfl rfl rfl
  have expiry : TokensIssued s s.takeExpiry := .of_same rfl rfl rfl rfl
  cases c with
  | deviceReset => exact absurd rfl hc
  | reqOpen l => exact request (l := l) .opens
  | reqClose l => exact request (l := l) .closes
  | reqRenew l => exact request (l := l) .renews
  | reqAcquire l => exact request (l := l) .acquires
  | reqRelease l => exact request (l := l) .releases
  | reqConvert l => exact request (l := l) .converts
  | reqCancel l => exact request (l := l) .cancels
  | reqQuery l => exact request (l := l) .queries
  | reqGroup l => exact request (l := l) .groups
  | reqUnknownKind l => exact request (l := l) .others
  | setTokenBase => exact commandStep setTokenBase
  | startService => exact commandStep startService
  | suspendService => exact commandStep suspendService
  | clearService => exact commandStep clearService
  | defineNamespace => exact command (.nsCommand .defineNs)
  | changeNamespace => exact command (.nsCommand .changeNs)
  | disableNamespaceDrain => exact command (.nsCommand .disableNs)
  | disableNamespaceRevoke => exact command (.nsCommand .disableNs)
  | evictSession => exact command (.slotCommand .evict)
  | inspectSession => exact command (.slotCommand fun v _ => .complete v _ _)
  | revokeLockHolders => exact command .revokeLock
  | revokeLockAll => exact command .revokeLock
  | inspectLock => exact command .inspectLock
  | lineConfig => exact command (.lineCommand .configureLine)
  | lineEnable => exact command (.lineCommand .enableLine)
  | lineDisable => exact command (.lineCommand .disableLine)
  | lineRestart => exact command (.lineCommand .restartLine)
  | setLeaseBounds => exact command .setLeaseBounds
  | setPoolThreshold => exact command .setPoolThreshold
  | readCounters => exact command .readCounters
  | unknownCommand => exact command fun v => .complete v _ _
  | mailboxAck p => exact one (.spiByte (.writeCommandCode s _))
  | registerWrite addr data p => exact one (.spiByte (.writeWindow s _ data))
  | causeClear target data p =>
    cases target with
    | device => exact one (.spiByte (.of_same rfl rfl rfl rfl))
    | line l => exact one (.spiByte (.updLine s l _))
  | maskWrite target data p =>
    cases target with
    | device => exact one (.spiByte (.of_same rfl rfl rfl rfl))
    | line l => exact one (.spiByte (.updLine s l _))
  | frameReceived l ch => exact line (.frame l ch)
  | lengthByte l ch => exact line (.length l ch)
  | gapLimitExpiry l idle => exact line (.gap l idle)
  | breakDetected l low => exact line (.brk l low)
  | requestSyncByte l ch => exact line (.hunt l ch)
  | bodyCharacter l ch => exact line (.body l ch)
  | replyFrameStart l idle => exact line (.reply l idle)
  | frameTransmissionEnd l => exact line (.sent l)
  | breakEnd l high => exact line (.brkEnd l high)
  | restartStep l => exact issued (.ite (fun _ => (arbiter _).trans (.restartStep _ l)) same)
  | noticeFrameStart l idle =>
    change Answers _ (execNoticeFrameStart l idle s)
    unfold execNoticeFrameStart
    split
    · split
      · exact one (.startNotice s l _ _)
      · exact one same
    · exact one same
    · exact one same
  | sessionEndedFrameStart l idle =>
    change Answers _ (execSessionEndedFrameStart l idle s)
    unfold execSessionEndedFrameStart
    split
    · exact one (.of_same rfl rfl rfl rfl)
    · exact one same
    · exact one same
  | timeCounterAdvance => exact one (.of_same rfl rfl rfl rfl)
  | posting =>
    change Answers _ (execPosting s)
    unfold execPosting
    split
    · exact issued (.ite (fun _ => .of_same rfl rfl rfl rfl) same)
    · exact one same
  | leaseExpiry =>
    change Answers _ (execLeaseExpiry s)
    unfold execLeaseExpiry
    split
    · exact one (expiry.trans (.expireLease _ _ _))
    · exact one same
    · exact one same
  | waitExpiry =>
    change Answers _ (execWaitExpiry s)
    unfold execWaitExpiry
    split
    · exact one (expiry.trans (.expireWait _ _ _ _))
    · exact one same
    · exact one same
  | endingSweepStep i =>
    refine issued (.ite (fun _ => ?_) same)
    split
    · exact (source _).trans (.endingStep _ _ _)
    · exact same
  | endingSweepFinalStep i => exact issued (.ite (fun _ => (source _).trans (.endingFinal _ i)) same)
  | revokeSweepStep n =>
    refine issued (.ite (fun _ => ?_) same)
    split
    · exact (source _).trans (.revokeStep _ _ _)
    · exact same
  | revokeSweepFinalStep n => exact issued (.ite (fun _ => (source _).trans (.revokeFinal _ n)) same)
  | clearStep =>
    refine issued (.ite (fun _ => ?_) same)
    split
    · exact (source _).trans (.clearStep _ _)
    · exact same
  | clearSweepFinalStep =>
    refine .ite (fun ht => ?_) (of_issued same)
    have hactive : (s.servedSweep sweepClear).clearSweep = true := by
      simpa using State.sweepActive_of_turn ht.1
    exact (clearFinal hactive).after (source _)

end TokenStep

end Sys2Proof.Machine

open Sys2Proof Sys2Proof.Machine

/-- Settles O58: every command but device reset keeps the law by `TokenStep.exec`, and device reset meets it. -/
theorem everyStepKeepsTheTokenCounterLaw : Obligations.EveryStepKeepsTheTokenCounterLaw := by
  intro s t
  refine step_keeps (fun _ _ h => h) fun s c h => ?_
  by_cases hc : c = .deviceReset
  · obtain ⟨-, -, -, hreset, -⟩ := resetMeetsTheInvariants
    subst hc
    exact .next hreset
  · obtain ⟨v, hv, hstep⟩ := TokenStep.exec s hc
    exact ⟨v, hv, hstep.law h⟩

/-- Settles O59, by the step that every command but device reset makes. -/
theorem tokensNeverDecreaseInService : Obligations.TokensNeverDecreaseInService := by
  intro c s t hc h hs
  obtain ⟨v, hv, hstep⟩ := TokenStep.exec s hc
  cases hv.symm.trans h
  exact ⟨hstep.grows hs, hstep.service hs⟩
end

section
/-!
SET TOKEN BASE, START SERVICE, SUSPEND SERVICE and CLEAR SERVICE, by the service state in which each is taken (R55,
R58, R167, R168, R189).
-/

-- One theorem at a time: side by side they would need more memory than the check gives.
set_option Elab.async false

namespace Sys2Proof.Machine

variable {s : State}

/-- A command that is offered runs on the state in which it is taken. -/
theorem commandStep_runs {code : Byte} {mine : Nat → Bool} (run : State → State)
    (h : CommandOffered s code) (hmine : mine code.toNat = true) :
    s.commandStep mine run = run (taken s) := by
  obtain ⟨hchoice, hcode⟩ := h
  rw [State.commandStep_offered hchoice, hcode, if_pos hmine]

/-- A command whose work completes it is completed. -/
theorem exec_completes {c : Instr} {run : State → State} {v : State} {code : ResultCode}
    {bytes : List Byte} (hexec : exec c s = .next (run (taken s)))
    (hrun : run (taken s) = v.complete code bytes) :
    ∃ t, exec c s = .next t ∧ Completed v t code bytes :=
  ⟨_, hexec, by rw [hrun]; exact State.complete_spec _ _ _⟩

/-! ### SET TOKEN BASE (R55, R58) -/

/-- An accepted base is in the counter, which is loaded; TOKENS_LOW is raised at or above the mark. -/
theorem State.loadTokenBase_eq (s : State) (v : Nat) : s.loadTokenBase v =
    { s with tokenCounter := v, tokenLoaded := true,
             deviceCauses := s.deviceCauses |||
               (if Config.tokensLowMark ≤ v then 0x40#7 else 0#7) } := by
  unfold State.loadTokenBase
  dsimp only
  split
  · rfl
  · rw [BitVec.or_zero]

theorem State.setTokenBase_of_accepted (h : s.acceptsBase (s.param 0 6) = true) :
    s.setTokenBase = (s.loadTokenBase (s.param 0 6)).complete .ok
      (beBytes 6 (s.param 0 6) ++ [1#8]) := by
  unfold State.setTokenBase
  rw [if_pos h, State.loadTokenBase_eq]
  rfl

theorem State.setTokenBase_of_refused (h : ¬ s.acceptsBase (s.param 0 6) = true) :
    s.setTokenBase = s.complete .badValue
      (beBytes 6 s.tokenCounter ++ [if s.tokenLoaded then 1#8 else 0#8]) := if_neg h

/-! ### The service commands (R167, R168) -/

theorem State.setService_same {v : ServiceState} (h : s.service = v) :
    ({ s with service := v } : State) = s := by subst h; rfl

theorem State.startService_of_unloaded (hs : s.service = .halted) (hl : s.tokenLoaded = false) :
    s.startService = s.complete .noTokenBase [0#8] := by
  unfold State.startService State.completeService
  rw [hs, hl]
  rfl

theorem State.startService_of_ready (h : (s.service = .halted ∧ s.tokenLoaded = true) ∨
    s.service = .running ∨ s.service = .suspended) :
    s.startService = ({ s with service := .running } : State).complete .ok [1#8] := by
  obtain ⟨hs, hl⟩ | hs | hs := h
  · unfold State.startService
    rw [hs, hl]
    rfl
  · unfold State.startService State.completeService
    rw [State.setService_same hs, hs]
    rfl
  · unfold State.startService
    rw [hs]
    rfl

theorem State.suspendService_of_halted (hs : s.service = .halted) :
    s.suspendService = s.complete .badState [0#8] := by
  unfold State.suspendService State.completeService
  rw [hs]
  rfl

theorem State.suspendService_of_in_service (h : s.service = .running ∨ s.service = .suspended) :
    s.suspendService = ({ s with service := .suspended } : State).complete .ok [2#8] := by
  obtain hs | hs := h
  · unfold State.suspendService
    rw [hs]
    rfl
  · unfold State.suspendService State.completeService
    rw [State.setService_same hs, hs]
    rfl

theorem State.clearService_of_suspended (hs : s.service = .suspended) : s.clearService =
    { s with service := .clearing, clearSweep := true, clearSessions := 0, clearClaims := 0,
             clearEntries := 0, longCommand := some .clearService } := by
  unfold State.clearService
  rw [hs]

theorem State.clearService_of_refused (h : s.service = .halted ∨ s.service = .running) :
    s.clearService = s.complete .badState [] := by
  unfold State.clearService
  obtain hs | hs := h
  · rw [hs]
  · rw [hs]

end Sys2Proof.Machine

open Sys2Proof Sys2Proof.Machine

/-- Settles O40, by the equations of the four commands, read on the state in which the command is taken. -/
theorem tokenBaseAndServiceCommands : Obligations.TokenBaseAndServiceCommands := by
  refine ⟨?_, fun s => ⟨fun h => ?_, fun h => ?_, fun h => ?_⟩⟩
  · intro s h v accepted
    have hexec : exec .setTokenBase s = .next (taken s).setTokenBase :=
      congrArg Host.Outcome.next (commandStep_runs _ h rfl)
    have haccept : (taken s).acceptsBase v = true ↔ accepted := State.acceptsBase_iff
    refine ⟨fun ha => exec_completes hexec ?_, fun ha => exec_completes hexec ?_⟩
    · rw [State.setTokenBase_of_accepted (haccept.2 ha), State.loadTokenBase_eq]
      rfl
    · exact State.setTokenBase_of_refused (fun hb => ha (haccept.1 hb))
  · have hexec : exec .startService s = .next (taken s).startService :=
      congrArg Host.Outcome.next (commandStep_runs _ h rfl)
    exact ⟨fun hs hl => exec_completes hexec (State.startService_of_unloaded hs hl),
      fun hready => exec_completes hexec (State.startService_of_ready hready)⟩
  · have hexec : exec .suspendService s = .next (taken s).suspendService :=
      congrArg Host.Outcome.next (commandStep_runs _ h rfl)
    exact ⟨fun hs => exec_completes hexec (State.suspendService_of_halted hs),
      fun hs => exec_completes hexec (State.suspendService_of_in_service hs)⟩
  · have hexec : exec .clearService s = .next (taken s).clearService :=
      congrArg Host.Outcome.next (commandStep_runs _ h rfl)
    exact ⟨fun hs => hexec.trans (congrArg Host.Outcome.next (State.clearService_of_suspended hs)),
      fun hs => exec_completes hexec (State.clearService_of_refused hs)⟩
end

section
/-!
CONVERT (R59 to R62, R100, R101): its refusals in their order, and what it writes on the claim that its session
holds.
-/

-- One theorem at a time: side by side they would need more memory than the check gives.
set_option Elab.async false

namespace Sys2Proof.Machine

variable {s : State} {l : LineIx} {i : SlotIx} {r : Request} {f : AcquireFields} {c : ClaimIx}

/-! ### Requests that are refused -/

theorem TableStep.withCauses (s : State) (causes : BitVec 7) : TableStep s (s.withCauses causes) :=
  { TableStep.refl s with host := rfl, causes := fun k hk => by simp [State.withCauses, hk] }

/-- An admitted request whose work refuses it is answered so; its work has raised some causes, or none. -/
theorem requestStep_refuses {isKind : Byte → Bool} {act : State → SlotIx → Request → State × Reply}
    {causes : BitVec 7} {reply : Reply} (h : RequestAdmitted s l r) (hk : isKind r.kind = true)
    (hw : act ((s.takeFrame l r).setLease (slotOf l r.station)) (slotOf l r.station) r =
      (((s.takeFrame l r).setLease (slotOf l r.station)).withCauses causes, reply)) :
    RequestAnswered s { (s.takeFrame l r).setLease (slotOf l r.station) with
      deviceCauses := s.deviceCauses ||| causes }
      (s.requestStep l isKind (State.serveRequest act)) l r reply :=
  requestStep_answers h hk hw (.withCauses _ causes)

/-! ### The work of a CONVERT, by its checks (R59) -/

theorem State.convert_of_bad_payload (h : acquirePayload r.payload = none) :
    s.convert i r = s.refuse .badRequest := by
  unfold State.convert; rw [h]

theorem State.convert_of_refusal {st : Status} (hp : acquirePayload r.payload = some f)
    (hr : s.convertRefusal i f.key f.mode = some st) : s.convert i r = s.refuse st := by
  unfold State.convert
  rw [hp]
  simp only [hr]

theorem State.convert_of_not_held (hp : acquirePayload r.payload = some f)
    (hr : s.convertRefusal i f.key f.mode = none)
    (ho : ∀ c, s.ownClaimOn f.key i ≠ .held c ∧ s.ownClaimOn f.key i ≠ .upgrading c) :
    s.convert i r = s.refuse .notHeld := by
  unfold State.convert
  rw [hp]
  simp only [hr]
  split
  case h_1 hc => exact absurd hc (ho _).1
  case h_2 hc => exact absurd hc (ho _).2
  case h_3 => rfl
  case h_4 => rfl

theorem State.convert_of_held (hp : acquirePayload r.payload = some f)
    (hr : s.convertRefusal i f.key f.mode = none)
    (ho : s.ownClaimOn f.key i = .held c ∨ s.ownClaimOn f.key i = .upgrading c) :
    s.convert i r = s.convertHeld c f := by
  unfold State.convert
  rw [hp]
  obtain ho | ho := ho
  · simp only [hr, ho]
  · simp only [hr, ho]

/-- Towards EXCLUSIVE the checks are those of a request that takes a lock (R100, R101). -/
theorem State.convertRefusal_exclusive (k : Key) :
    s.convertRefusal i k .exclusive = s.takingRefusal i k .exclusive := rfl

/-- The checks up to the own claim are passed. -/
theorem State.convertRefusal_none {k : Key} {m : Mode}
    (hx : m = .exclusive → (s.ns k.ns).state = .enabled ∧
      (s.session i).ring ≤ (s.ns k.ns).rules.exclusiveLimit)
    (hs : m = .shared → (s.ns k.ns).state ≠ .disabled) : s.convertRefusal i k m = none := by
  cases m with
  | shared => exact if_neg (hs rfl)
  | exclusive =>
    obtain ⟨hstate, hring⟩ := hx rfl
    exact (if_neg (not_not_intro hstate)).trans (if_neg (Nat.not_lt_of_le hring))

/-! ### Of the claim that its session holds (R60 to R62) -/

theorem State.convertHeld_of_same_mode (h : (s.claim c).mode = f.mode) :
    s.convertHeld c f = s.refuse .badRequest := if_pos h

/-- Claim and entry are SHARED, and the pass is still to run (R60). -/
def State.downgraded (s : State) (c : ClaimIx) : State :=
  (s.updClaim c (fun x => { x with mode := .shared })).updEntry (s.claim c).entry
    (fun x => { x with mode := .shared })

theorem State.convertHeld_of_down (hm : (s.claim c).mode = .exclusive) (hf : f.mode = .shared) :
    s.convertHeld c f =
      ((s.downgraded c).grantPass (s.claim c).entry, ⟨.ok, beBytes 6 (s.claim c).token⟩) := by
  unfold State.convertHeld
  rw [if_neg (by rw [hm, hf]; decide), hf]
  rfl

theorem TableStep.downgraded (s : State) (c : ClaimIx) : TableStep s (s.downgraded c) :=
  (TableStep.updClaim s c _).trans (.updEntry _ _ _)

theorem State.downgraded_claim (s : State) (c d : ClaimIx) : (s.downgraded c).claim d =
    if c = d then { s.claim c with mode := .shared } else s.claim d := by
  simp [State.downgraded, State.updClaim_claim]

theorem State.downgraded_entry (s : State) (c : ClaimIx) (e : EntryIx) : (s.downgraded c).entry e =
    if (s.claim c).entry = e then { s.entry (s.claim c).entry with mode := .shared } else s.entry e := by
  simp [State.downgraded, State.updEntry_entry]

theorem State.convertHeld_of_up (hm : (s.claim c).mode = .shared) (hf : f.mode = .exclusive) :
    s.convertHeld c f = s.convertUp c f.wait := by
  unfold State.convertHeld
  rw [if_neg (by rw [hm, hf]; decide), hf]

theorem State.convertUp_of_exhausted (hh : (s.entry (s.claim c).entry).holders = [c])
    (ht : s.canIssue = false) (wait : Nat) : s.convertUp c wait = s.refuseExhausted :=
  (if_pos hh).trans (if_neg (by rw [ht]; decide))

theorem State.convertUp_of_sole (hh : (s.entry (s.claim c).entry).holders = [c])
    (ht : s.canIssue = true) (wait : Nat) : s.convertUp c wait =
      (s.upgradeClaim (s.claim c).entry c, ⟨.ok, beBytes 6 s.tokenCounter⟩) :=
  (if_pos hh).trans (if_pos ht)

theorem State.convertUp_of_conflict (hh : (s.entry (s.claim c).entry).holders ≠ [c])
    (hu : (s.entry (s.claim c).entry).upgrade ≠ none) (wait : Nat) :
    s.convertUp c wait = s.refuse .upgradeConflict := (if_neg hh).trans (if_pos hu)

/-- Beside other holders and without a pending upgrade, the wait decides. -/
theorem State.convertUp_of_others (hh : (s.entry (s.claim c).entry).holders ≠ [c])
    (hu : (s.entry (s.claim c).entry).upgrade = none) (wait : Nat) : s.convertUp c wait =
      if wait = 0 then s.refuse .notAvailable
      else (s.makePending (s.claim c).entry c wait, ⟨.queued, [0#8]⟩) :=
  (if_neg hh).trans (if_neg (not_not_intro hu))

/-- The parts of the state that a new pending upgrade writes (R62). -/
theorem State.makePending_writes (s : State) (e : EntryIx) (c : ClaimIx) (w : Nat) :
    s.makePending e c w = { s with
      claims := (s.makePending e c w).claims, entries := (s.makePending e c w).entries,
      deadlines := if w = 65535 then s.deadlines else
        Machine.insertDeadline ⟨.wait c (s.claim c).useCount, min (s.time + w) 1099511627775⟩
          s.deadlines } := by
  apply State.eq_of_fields <;> simp [State.makePending_deadlines]

end Sys2Proof.Machine

open Sys2Proof Sys2Proof.Machine

/-- Settles O36, by the equations of the CONVERT's work, read on the state in which the request has begun. -/
theorem convertOfAHeldClaim : Obligations.ConvertOfAHeldClaim := by
  refine ⟨?_, ?_⟩
  · intro s l r h hk i refused
    obtain ⟨-, -, hown, -, -, -, -, -, -, hconv⟩ := State.begun_searches s l r i
    have work : ∀ {st}, ((s.takeFrame l r).setLease i).convert i r =
        ((s.takeFrame l r).setLease i).refuse st → refused st := fun hw =>
      ⟨_, _, rfl, State.begun_spec s l r, requestStep_answers h (by rw [hk]; rfl) hw (.refl _)⟩
    refine ⟨fun hp => work (State.convert_of_bad_payload hp), fun f hp => ?_⟩
    intro ns passes
    have checked : ∀ {st}, s.convertRefusal i f.key f.mode = some st → refused st := fun hr =>
      work (State.convert_of_refusal hp ((hconv _ _ _).trans hr))
    refine ⟨fun hf hs => checked ?_, fun hf hs hring => checked ?_, fun hf hs => checked ?_,
      fun hpass ho => ?_⟩
    · rw [hf, State.convertRefusal_exclusive]
      exact State.takingRefusal_of_state hs
    · rw [hf, State.convertRefusal_exclusive]
      exact State.takingRefusal_of_bracket (m := .exclusive) hs hring
    · rw [hf]; exact if_pos hs
    · have hnone : s.convertRefusal i f.key f.mode = none :=
        State.convertRefusal_none (fun hf => by simpa only [passes, hf] using hpass)
          fun hf => by simpa only [passes, hf] using hpass
      simp only [← hown] at ho
      exact work (State.convert_of_not_held hp ((hconv _ _ _).trans hnone) ho)
  · intro s l r f c i x e h hk hpass refused
    obtain ⟨-, -, hown, -, -, hissue, -, -, -, hconv⟩ := State.begun_searches s l r i
    obtain ⟨hp, hexclusive, hshared, ho⟩ := hpass
    have hkind : (fun k => k == 0x06#8) r.kind = true := by rw [hk]; rfl
    have hclaim : ((s.takeFrame l r).setLease i).claim c = x := by simp [x]
    have hentry : ((s.takeFrame l r).setLease i).entry e = s.entry e := by simp
    have hlock : ((s.takeFrame l r).setLease i).entry (((s.takeFrame l r).setLease i).claim c).entry =
        s.entry e := by rw [hclaim]; exact hentry
    have htokens : ((s.takeFrame l r).setLease i).tokenCounter = s.tokenCounter := by simp
    have hheld : ((s.takeFrame l r).setLease i).convert i r =
        ((s.takeFrame l r).setLease i).convertHeld c f :=
      State.convert_of_held hp ((hconv _ _ _).trans (State.convertRefusal_none hexclusive hshared))
        (by rwa [hown])
    have work : ∀ {st causes}, ((s.takeFrame l r).setLease i).convertHeld c f =
        (((s.takeFrame l r).setLease i).withCauses causes, ⟨st, []⟩) → refused st causes := fun hw =>
      ⟨_, _, rfl, State.begun_spec s l r, requestStep_refuses h hkind (hheld.trans hw)⟩
    refine ⟨fun hm => ?_, fun hm hf => ?_, fun hm hf hh => ?_, fun hm hf hh => ?_⟩
    · exact work ((State.convertHeld_of_same_mode (by rw [hclaim]; exact hm)).trans (State.refuse_eq _))
    · have hwork := hheld.trans (State.convertHeld_of_down (by rw [hclaim]; exact hm) hf)
      rw [hclaim] at hwork
      refine ⟨_, _, _, rfl, State.begun_spec s l r, rfl, ?_, fun d hd => ?_, ?_, fun y hy => ?_,
        requestStep_answers h hkind hwork ((TableStep.downgraded _ c).trans (.grantPass _ _))⟩
      · rw [State.downgraded_claim, if_pos rfl, hclaim]
      · rw [State.downgraded_claim, if_neg (List.ne_of_not_mem_cons hd).symm]
      · rw [State.downgraded_entry, hclaim, if_pos rfl, hentry]
      · rw [State.downgraded_entry, hclaim, if_neg (List.ne_of_not_mem_cons hy).symm]
    all_goals
      have hup : ((s.takeFrame l r).setLease i).convertHeld c f =
          ((s.takeFrame l r).setLease i).convertUp c f.wait :=
        State.convertHeld_of_up (by rw [hclaim]; exact hm) hf
    · rw [← hlock] at hh
      refine ⟨fun ht => ?_, fun ht => ?_⟩
      · have hcannot := hissue.trans (State.canIssue_false ht)
        exact work (hup.trans ((State.convertUp_of_exhausted hh hcannot _).trans State.refuseExhausted_eq))
      · have hwork := hheld.trans (hup.trans
          (State.convertUp_of_sole hh (hissue.trans (State.canIssue_iff.2 ht)) _))
        rw [hclaim, htokens] at hwork
        have hwrites := State.upgradeClaim_writes_either ((s.takeFrame l r).setLease i) e c
        rw [hentry, htokens] at hwrites
        refine ⟨_, _, _, rfl, State.begun_spec s l r, hwrites, ?_, fun d hd => ?_, ?_, fun y hy => ?_,
          requestStep_answers h hkind hwork (.upgradeClaim _ _ _)⟩
        · rw [State.upgradeClaim_claim, if_pos rfl, hclaim, hentry, htokens]
        · rw [State.upgradeClaim_claim, if_neg (List.ne_of_not_mem_cons hd).symm]
        · rw [State.upgradeClaim_entry, if_pos rfl, hentry, htokens]
        · rw [State.upgradeClaim_entry, if_neg (List.ne_of_not_mem_cons hy).symm]
    · rw [← hlock] at hh
      refine ⟨fun hu => ?_, fun hu hw => ?_, fun hu hw => ?_⟩
      all_goals rw [← hlock] at hu
      · exact work (hup.trans ((State.convertUp_of_conflict hh hu _).trans (State.refuse_eq _)))
      · exact work (hup.trans ((State.convertUp_of_others hh hu _).trans
          ((if_pos hw).trans (State.refuse_eq _))))
      · intro ends
        have hwork := hheld.trans (hup.trans ((State.convertUp_of_others hh hu _).trans (if_neg hw)))
        rw [hclaim] at hwork
        have htime : ((s.takeFrame l r).setLease i).time = s.time := by simp
        have hwrites := State.makePending_writes ((s.takeFrame l r).setLease i) e c f.wait
        rw [hclaim, htime] at hwrites
        refine ⟨_, _, _, rfl, State.begun_spec s l r, hwrites, ?_, fun d hd => ?_, ?_, fun y hy => ?_,
          requestStep_answers h hkind hwork (.makePending _ _ _ _)⟩
        · rw [State.makePending_claim, if_pos rfl, hclaim, htime]
        · rw [State.makePending_claim, if_neg (List.ne_of_not_mem_cons hd).symm]
        · rw [State.makePending_entry, if_pos rfl, hentry]
        · rw [State.makePending_entry, if_neg (List.ne_of_not_mem_cons hy).symm]
end

section
/-!
The payload of a GROUP (R67, R132, Table 11.3): its pieces, the elements they hold, and the keys that repeat an
earlier one.
-/

-- One theorem at a time: side by side they would need more memory than the check gives.
set_option Elab.async false

namespace Sys2Proof.Machine

variable {p : List Byte} {n k i : Nat} {el : GroupElement} {els : List GroupElement}

/-! ### Numbers as bytes -/

/-- Byte lists of one length that are read as one number, from whatever went before, are the same. -/
theorem foldl_bytes_injective {as bs : List Byte} (hl : as.length = bs.length) {a b : Nat}
    (h : as.foldl (fun acc x => acc * 256 + x.toNat) a = bs.foldl (fun acc x => acc * 256 + x.toNat) b) :
    a = b ∧ as = bs := by
  induction as generalizing bs a b with
  | nil =>
    cases bs with
    | nil => exact ⟨h, rfl⟩
    | cons y ys => cases hl
  | cons x xs ih =>
    cases bs with
    | nil => cases hl
    | cons y ys =>
      obtain ⟨hhead, rfl⟩ := ih (Nat.succ.inj hl) h
      dsimp only at hhead
      have hx := x.isLt
      have hy := y.isLt
      have hxy : x = y := BitVec.eq_of_toNat_eq (by omega)
      exact ⟨by omega, by rw [hxy]⟩

theorem beNat_injective {as bs : List Byte} (hl : as.length = bs.length) (h : beNat as = beNat bs) :
    as = bs := (foldl_bytes_injective hl h).2

/-- Four bytes are a name of their own. -/
theorem name_injective {as bs : List Byte} (ha : as.length = 4) (hb : bs.length = 4)
    (h : BitVec.ofNat 32 (beNat as) = BitVec.ofNat 32 (beNat bs)) : as = bs := by
  refine beNat_injective (ha.trans hb.symm) ?_
  have hlt : ∀ {cs : List Byte}, cs.length = 4 → beNat cs < 2 ^ 32 := fun hc => by
    have := beNat_lt ‹List Byte›
    rwa [hc] at this
  have hmod := congrArg BitVec.toNat h
  rwa [BitVec.toNat_ofNat, BitVec.toNat_ofNat, Nat.mod_eq_of_lt (hlt ha), Nat.mod_eq_of_lt (hlt hb)] at hmod

/-! ### The elements (R67 check 2) -/

/-- The six bytes of element `k` of a GROUP payload. -/
def groupPiece (p : List Byte) (k : Nat) : List Byte := (p.drop (1 + 6 * k)).take 6

theorem groupPieces_eq (n : Nat) (bs : List Byte) :
    groupPieces n bs = (List.range n).map (fun k => (bs.drop (6 * k)).take 6) := by
  induction n generalizing bs with
  | zero => rfl
  | succ n ih =>
    rw [groupPieces, ih, List.range_succ_eq_map, List.map_cons, List.map_map]
    congr 1
    refine List.map_congr_left fun k _ => ?_
    rw [List.drop_drop, Function.comp_apply, Nat.succ_eq_add_one, Nat.mul_succ, Nat.add_comm]

theorem groupPieces_drop (n : Nat) (p : List Byte) :
    groupPieces n (p.drop 1) = (List.range n).map (groupPiece p) := by
  rw [groupPieces_eq]
  refine List.map_congr_left fun k _ => ?_
  rw [List.drop_drop]
  rfl

theorem keyOfBytes_eq_some {bs : List Byte} {key : Key} : keyOfBytes bs = some key ↔
    key.ns.val = (bs.getD 0 0).toNat ∧ key.name = BitVec.ofNat 32 (beNat ((bs.drop 1).take 4)) := by
  obtain ⟨ns, name⟩ := key
  have hns := ns.isLt
  unfold keyOfBytes
  dsimp only
  split
  · rw [Option.some.injEq, Key.mk.injEq, Fin.ext_iff, eq_comm, and_congr_right_iff]
    exact fun _ => eq_comm
  · rename_i h
    constructor
    · intro hsome; cases hsome
    · rintro ⟨hval, -⟩; exact absurd (hval ▸ hns) h

theorem modeOfByte_eq_some {b : Byte} {m : Mode} : modeOfByte b = some m ↔ b = modeCode m := by
  unfold modeOfByte modeCode
  split_ifs with h1 h2
  · subst h1; cases m <;> simp
  · subst h2; cases m <;> simp
  · cases m <;> simp [h1, h2]

theorem groupElement_eq_some {bs : List Byte} : groupElement bs = some el ↔
    keyOfBytes bs = some el.key ∧ modeOfByte (bs.getD 5 0) = some el.mode := by
  obtain ⟨key, mode⟩ := el
  unfold groupElement
  cases keyOfBytes bs <;> cases modeOfByte (bs.getD 5 0) <;> simp

/-- Six bytes hold the element that the payload has there. -/
theorem groupElement_groupPiece : groupElement (groupPiece p k) = some el ↔ ElementAt p k el := by
  have h0 : (groupPiece p k).getD 0 0 = p.getD (1 + 6 * k) 0#8 := by
    simp [groupPiece, List.getD_eq_getElem?_getD]
  have h5 : (groupPiece p k).getD 5 0 = p.getD (6 + 6 * k) 0#8 := by
    have hplace : 1 + 6 * k + 5 = 6 + 6 * k := by omega
    simp [groupPiece, List.getD_eq_getElem?_getD, hplace]
  have hname : ((groupPiece p k).drop 1).take 4 = (p.drop (2 + 6 * k)).take 4 := by
    have hplace : 1 + 6 * k + 1 = 2 + 6 * k := by omega
    rw [groupPiece, List.drop_take, List.take_take, List.drop_drop, hplace]
    rfl
  rw [groupElement_eq_some, keyOfBytes_eq_some, modeOfByte_eq_some, h0, h5, hname, and_assoc]
  rfl

/-- An element in range is one that can be read. -/
theorem elementInRange_iff : ElementInRange p k ↔ ∃ el, ElementAt p k el := by
  constructor
  · rintro ⟨hns, hmode⟩
    obtain ⟨m, hm⟩ : ∃ m, p.getD (6 + 6 * k) 0#8 = modeCode m :=
      hmode.elim (fun h => ⟨.shared, h⟩) fun h => ⟨.exclusive, h⟩
    exact ⟨⟨⟨⟨_, hns⟩, _⟩, m⟩, rfl, rfl, hm⟩
  · rintro ⟨⟨⟨ns, name⟩, mode⟩, hns, -, hm⟩
    refine ⟨hns ▸ ns.isLt, ?_⟩
    cases mode with
    | shared => exact .inl hm
    | exclusive => exact .inr hm

/-- The elements of a payload, each at its place. -/
def ElementsAt (p : List Byte) (els : List GroupElement) : Prop :=
  ∀ k el, els[k]? = some el → ElementAt p k el

/-- A payload whose elements are in range has them. -/
theorem exists_elementsAt (h : ∀ k, k < n → ElementInRange p k) :
    ∃ els, els.length = n ∧ ElementsAt p els := by
  choose el hel using fun k : Fin n => elementInRange_iff.1 (h k k.isLt)
  refine ⟨List.ofFn el, List.length_ofFn, fun k x hx => ?_⟩
  obtain ⟨hk, rfl⟩ := List.getElem?_eq_some_iff.1 hx
  rw [List.length_ofFn] at hk
  rw [List.getElem_ofFn]
  exact hel ⟨k, hk⟩

theorem groupElements_of_all {pieces : List (List Byte)}
    (h : List.Forall₂ (fun bs el => groupElement bs = some el) pieces els) (i : Nat) :
    groupElements i pieces = .ok els := by
  induction h generalizing i with
  | nil => rfl
  | cons hel _ ih => simp only [groupElements, hel, ih]

/-- The first piece that holds no element gives the position. -/
theorem groupElements_of_first {pieces : List (List Byte)} {bs : List Byte}
    (hn : pieces[n]? = some bs) (hb : ∀ m b, m < n → pieces[m]? = some b → ∃ el, groupElement b = some el)
    (he : groupElement bs = none) : groupElements i pieces = .error (i + n) := by
  induction pieces generalizing n i with
  | nil => cases hn
  | cons x xs ih =>
    cases n with
    | zero =>
      cases hn
      simp only [groupElements, he]
      rfl
    | succ n =>
      obtain ⟨el, hel⟩ := hb 0 x (Nat.succ_pos n) rfl
      have hrest := ih (i := i + 1) hn fun m b hm hg => hb (m + 1) b (Nat.succ_lt_succ hm) hg
      simp only [groupElements, hel, hrest]
      rw [Nat.add_right_comm]
      rfl

/-! ### Keys that repeat an earlier one (R67 check 3) -/

theorem groupRepeat_append (earlier : List Key) (xs ys : List GroupElement) :
    groupRepeat i earlier (xs ++ ys) = (groupRepeat i earlier xs).or
      (groupRepeat (i + xs.length) ((xs.map (fun el => el.key)).reverse ++ earlier) ys) := by
  induction xs generalizing i earlier with
  | nil => rfl
  | cons x xs ih =>
    rw [List.cons_append, groupRepeat, groupRepeat]
    split
    · rfl
    · rw [ih]
      simp [Nat.add_assoc, Nat.add_comm 1]

theorem groupRepeat_of_distinct {earlier : List Key} (hd : (els.map (fun el => el.key)).Nodup)
    (he : ∀ el ∈ els, el.key ∉ earlier) : groupRepeat i earlier els = none := by
  induction els generalizing i earlier with
  | nil => rfl
  | cons x xs ih =>
    rw [List.map_cons, List.nodup_cons] at hd
    obtain ⟨hx, hxs⟩ := hd
    rw [groupRepeat, if_neg (by simpa using he x List.mem_cons_self)]
    refine ih hxs fun el hel hmem => ?_
    rcases List.mem_cons.1 hmem with heq | hmem
    · exact hx (heq ▸ List.mem_map_of_mem hel)
    · exact he el (List.mem_cons_of_mem _ hel) hmem

/-- The first element whose key repeats one before it gives the position. -/
theorem groupRepeat_of_first (hk : els[k]? = some el)
    (hd : ((els.take k).map (fun x => x.key)).Nodup)
    (hr : el.key ∈ (els.take k).map (fun x => x.key)) : groupRepeat i [] els = some (i + k) := by
  obtain ⟨hlt, rfl⟩ := List.getElem?_eq_some_iff.1 hk
  have hsplit : els = els.take k ++ els[k] :: els.drop (k + 1) := by
    rw [← List.drop_eq_getElem_cons hlt, List.take_append_drop]
  rw [hsplit, groupRepeat_append, groupRepeat_of_distinct hd (by simp), groupRepeat, if_pos]
  · simp [Nat.min_eq_left hlt.le]
  · simpa using hr

/-- The namespace and name bytes of an element are as its key says. -/
theorem sameKeyAt_iff {j : Nat} {x y : GroupElement} (hj : 6 + 6 * j < p.length)
    (hk : 6 + 6 * k < p.length) (hx : ElementAt p j x) (hy : ElementAt p k y) :
    SameKeyAt p j k ↔ x.key = y.key := by
  have hbytes : ∀ {m}, 6 + 6 * m < p.length → (p.drop (1 + 6 * m)).take 5 =
      p.getD (1 + 6 * m) 0#8 :: (p.drop (2 + 6 * m)).take 4 := fun {m} hm => by
    have hlt : 1 + 6 * m < p.length := by omega
    rw [List.drop_eq_getElem_cons hlt, List.take_succ_cons, List.getD_eq_getElem _ _ hlt,
      Nat.add_right_comm]
  have hfour : ∀ {m}, 6 + 6 * m < p.length → ((p.drop (2 + 6 * m)).take 4).length = 4 := fun hm => by
    rw [List.length_take, List.length_drop]
    omega
  obtain ⟨⟨xns, xname⟩, xmode⟩ := x
  obtain ⟨⟨yns, yname⟩, ymode⟩ := y
  obtain ⟨hxns, hxname, -⟩ := hx
  obtain ⟨hyns, hyname, -⟩ := hy
  dsimp only at hxns hxname hyns hyname ⊢
  rw [SameKeyAt, hbytes hj, hbytes hk, List.cons.injEq, Key.mk.injEq, Fin.ext_iff, hxns, hyns, hxname,
    hyname, BitVec.toNat_inj]
  exact and_congr_right fun _ => ⟨congrArg (fun bs => BitVec.ofNat 32 (beNat bs)),
    name_injective (hfour hj) (hfour hk)⟩

/-! ### The payload -/

/-- The number of elements that a GROUP payload announces. -/
def groupCount (p : List Byte) : Nat := (p.getD 0 0).toNat

/-- Size and count of a GROUP payload are right (R67 check 1). -/
def GroupSized (p : List Byte) : Prop :=
  p.length = 1 + 6 * groupCount p ∧ 2 ≤ groupCount p ∧ groupCount p ≤ 4

theorem groupPayload_of_unsized (h : ¬ GroupSized p) : groupPayload p = .error 0 := if_neg h

section
variable (h : GroupSized p)
include h

theorem groupPayload_of_error (he : groupElements 1 ((List.range (groupCount p)).map (groupPiece p)) =
    .error i) : groupPayload p = .error i := by
  rw [← groupPieces_drop] at he
  refine (if_pos h).trans ?_
  rw [groupCount] at he
  rw [he]

theorem groupPayload_of_ok (he : groupElements 1 ((List.range (groupCount p)).map (groupPiece p)) =
    .ok els) : groupPayload p = ((groupRepeat 1 [] els).map Except.error).getD (.ok els) := by
  rw [← groupPieces_drop] at he
  refine (if_pos h).trans ?_
  rw [groupCount] at he
  rw [he]
  dsimp only
  cases groupRepeat 1 [] els <;> rfl

/-- The first element out of range gives the failing index. -/
theorem groupPayload_of_out_of_range (hk : k < groupCount p) (hr : ¬ ElementInRange p k)
    (hb : ∀ j, j < k → ElementInRange p j) : groupPayload p = .error (k + 1) := by
  have hpiece : ∀ {m}, m < groupCount p →
      ((List.range (groupCount p)).map (groupPiece p))[m]? = some (groupPiece p m) := fun hm => by
    rw [List.getElem?_map, List.getElem?_range hm]
    rfl
  have hnone : groupElement (groupPiece p k) = none :=
    Option.eq_none_iff_forall_ne_some.2 fun el hel =>
      hr (elementInRange_iff.2 ⟨el, groupElement_groupPiece.1 hel⟩)
  rw [Nat.add_comm]
  refine groupPayload_of_error h (groupElements_of_first (hpiece hk) (fun m b hm hg => ?_) hnone)
  rw [hpiece (hm.trans hk)] at hg
  cases hg
  obtain ⟨el, hel⟩ := elementInRange_iff.1 (hb m hm)
  exact ⟨el, groupElement_groupPiece.2 hel⟩

variable (hlen : els.length = groupCount p) (hat : ElementsAt p els)
include hlen hat

/-- With every element in range, the check of repeats decides. -/
theorem groupPayload_of_elements :
    groupPayload p = ((groupRepeat 1 [] els).map Except.error).getD (.ok els) := by
  refine groupPayload_of_ok h (groupElements_of_all (List.forall₂_iff_get.2 ⟨by simp [hlen], ?_⟩) 1)
  intro k hk hk'
  rw [List.get_eq_getElem, List.get_eq_getElem, List.getElem_map, List.getElem_range]
  exact groupElement_groupPiece.2 (hat k _ (List.getElem?_eq_getElem hk'))

theorem sameKeyAt_iff_keys {j : Nat} {x y : GroupElement} (hj : els[j]? = some x) (hk : els[k]? = some y) :
    SameKeyAt p j k ↔ x.key = y.key := by
  have hplace : ∀ {m z}, els[m]? = some z → 6 + 6 * m < p.length := fun hm => by
    obtain ⟨hlt, -⟩ := List.getElem?_eq_some_iff.1 hm
    obtain ⟨hlength, -⟩ := h
    omega
  exact sameKeyAt_iff (hplace hj) (hplace hk) (hat _ _ hj) (hat _ _ hk)

/-- No two of the first `k` elements have one key. -/
theorem keys_nodup (hk : k ≤ groupCount p) (hd : ∀ m, m < k → ∀ j, j < m → ¬ SameKeyAt p j m) :
    ((els.take k).map (fun x => x.key)).Nodup := by
  rw [List.nodup_iff_getElem?_ne_getElem?]
  intro j m hjm hm heq
  rw [List.length_map, List.length_take, hlen, Nat.min_eq_left hk] at hm
  have hget : ∀ {n}, n < k → ∃ x, els[n]? = some x := fun hn =>
    ⟨_, List.getElem?_eq_getElem (hlen.symm ▸ hn.trans_le hk)⟩
  obtain ⟨x, hx⟩ := hget (hjm.trans hm)
  obtain ⟨y, hy⟩ := hget hm
  rw [List.getElem?_map, List.getElem?_map, List.getElem?_take_of_lt (hjm.trans hm),
    List.getElem?_take_of_lt hm, hx, hy] at heq
  exact hd m hm j hjm ((sameKeyAt_iff_keys h hlen hat hx hy).2 (Option.some.inj heq))

theorem groupPayload_of_distinct
    (hd : ∀ m, m < groupCount p → ∀ j, j < m → ¬ SameKeyAt p j m) : groupPayload p = .ok els := by
  have hkeys := keys_nodup h hlen hat (le_refl _) hd
  rw [← hlen, List.take_length] at hkeys
  rw [groupPayload_of_elements h hlen hat, groupRepeat_of_distinct hkeys (by simp)]
  rfl

/-- The first element whose key repeats an earlier one gives the failing index. -/
theorem groupPayload_of_repeat (hk : k < groupCount p) {j : Nat} (hj : j < k) (hs : SameKeyAt p j k)
    (hd : ∀ m, m < k → ∀ j, j < m → ¬ SameKeyAt p j m) : groupPayload p = .error (k + 1) := by
  have hget : ∀ {m}, m < groupCount p → ∃ x, els[m]? = some x := fun hm =>
    ⟨_, List.getElem?_eq_getElem (hlen.symm ▸ hm)⟩
  obtain ⟨y, hy⟩ := hget hk
  obtain ⟨x, hx⟩ := hget (hj.trans hk)
  have hkey := (sameKeyAt_iff_keys h hlen hat hx hy).1 hs
  have hmem : y.key ∈ (els.take k).map (fun x => x.key) :=
    List.mem_map.2 ⟨x, List.mem_of_getElem? (i := j) (by rw [List.getElem?_take_of_lt hj]; exact hx), hkey⟩
  rw [groupPayload_of_elements h hlen hat,
    groupRepeat_of_first hy (keys_nodup h hlen hat hk.le hd) hmem, Nat.add_comm]
  rfl

end

end Sys2Proof.Machine
end

section
/-!
GROUP (R67 to R70, R140): the checks of its elements and of its resources, and the work of a group by the first
check that fails.
-/

-- One theorem at a time: side by side they would need more memory than the check gives.
set_option Elab.async false

namespace Sys2Proof.Machine

variable {s : State} {i : SlotIx} {r : Request} {el : GroupElement} {els : List GroupElement}
  {st : Status} {absent : List Key} {n : Nat}

/-! ### The checks of one element (R68) -/

theorem State.elementRefusal_of_taking (h : s.takingRefusal i el.key el.mode = some st) :
    s.elementRefusal i el = some st := by
  unfold State.elementRefusal; rw [h]

theorem State.elementRefusal_of_absent (h : s.takingRefusal i el.key el.mode = none)
    (hl : s.lookup el.key = none) : s.elementRefusal i el = none := by
  unfold State.elementRefusal
  rw [h, hl]

theorem State.elementRefusal_of_present {e : EntryIx} (h : s.takingRefusal i el.key el.mode = none)
    (hl : s.lookup el.key = some e) : s.elementRefusal i el =
      if s.ownClaim e i = .none then
        if s.grantableNow e el.mode then none else some .notAvailable
      else some .alreadyClaimed := by
  unfold State.elementRefusal
  rw [h, hl]

/-- An element that may be taken fails on the lock it finds alone. -/
theorem State.elementRefusal_of_taken (h : s.takingRefusal i el.key el.mode = none) :
    s.elementRefusal i el = some st ↔ ∃ e, s.lookup el.key = some e ∧
      ((s.ownClaim e i ≠ .none ∧ st = .alreadyClaimed) ∨
        (s.ownClaim e i = .none ∧ NotGrantableNow s e el.mode ∧ st = .notAvailable)) := by
  cases hl : s.lookup el.key with
  | none =>
    rw [State.elementRefusal_of_absent h hl]
    constructor
    · rintro ⟨⟩
    · rintro ⟨e, ⟨⟩, -⟩
  | some e =>
    rw [State.elementRefusal_of_present h hl]
    by_cases ho : s.ownClaim e i = .none
    · cases hg : s.grantableNow e el.mode with
      | false =>
        rw [if_pos ho, if_neg Bool.false_ne_true]
        constructor
        · rintro ⟨⟩
          exact ⟨e, rfl, .inr ⟨ho, State.grantableNow_iff.1 hg, rfl⟩⟩
        · rintro ⟨f, ⟨⟩, ⟨hne, -⟩ | ⟨-, -, rfl⟩⟩
          · exact absurd ho hne
          · rfl
      | true =>
        rw [if_pos ho, if_pos rfl]
        constructor
        · rintro ⟨⟩
        · rintro ⟨f, ⟨⟩, ⟨hne, -⟩ | ⟨-, hn, -⟩⟩
          · exact absurd ho hne
          · rw [State.grantableNow_iff.2 hn] at hg
            cases hg
    · rw [if_neg ho]
      constructor
      · rintro ⟨⟩
        exact ⟨e, rfl, .inl ⟨ho, rfl⟩⟩
      · rintro ⟨f, ⟨⟩, ⟨-, rfl⟩ | ⟨hown, -⟩⟩
        · rfl
        · exact absurd hown ho

/-- A namespace's ring limit for a mode (Table 5.1). -/
def NsRules.limit (x : NsRules) (m : Mode) : Nat :=
  match m with
  | .shared => x.sharedLimit
  | .exclusive => x.exclusiveLimit

theorem State.takingRefusal_eq (s : State) (i : SlotIx) (k : Key) (m : Mode) : s.takingRefusal i k m =
    if (s.ns k.ns).state ≠ .enabled then some .nsDisabled
    else if (s.ns k.ns).rules.limit m < (s.session i).ring then some .accessDenied else none := by
  cases m <;> rfl

theorem elementFails_iff : ElementFails s i el st ↔
    ((s.ns el.key.ns).state ≠ .enabled ∧ st = .nsDisabled) ∨
    ((s.ns el.key.ns).state = .enabled ∧
      (s.ns el.key.ns).rules.limit el.mode < (s.session i).ring ∧ st = .accessDenied) ∨
    ((s.ns el.key.ns).state = .enabled ∧ (s.session i).ring ≤ (s.ns el.key.ns).rules.limit el.mode ∧
      ∃ e, s.lookup el.key = some e ∧
        ((s.ownClaim e i ≠ .none ∧ st = .alreadyClaimed) ∨
          (s.ownClaim e i = .none ∧ NotGrantableNow s e el.mode ∧ st = .notAvailable))) := Iff.rfl

theorem State.elementRefusal_iff : s.elementRefusal i el = some st ↔ ElementFails s i el st := by
  have htaking := s.takingRefusal_eq i el.key el.mode
  rw [elementFails_iff]
  by_cases hs : (s.ns el.key.ns).state = .enabled
  · rw [if_neg (not_not_intro hs)] at htaking
    by_cases hl : (s.ns el.key.ns).rules.limit el.mode < (s.session i).ring
    · rw [if_pos hl] at htaking
      rw [State.elementRefusal_of_taking htaking]
      simp [hs, hl, Nat.not_le_of_lt hl, eq_comm (a := Status.accessDenied)]
    · rw [if_neg hl] at htaking
      rw [State.elementRefusal_of_taken htaking]
      simp only [hs, hl, Nat.not_lt.1 hl, ne_eq, not_true_eq_false, false_and, and_false, true_and,
        false_or]
  · rw [if_pos hs] at htaking
    rw [State.elementRefusal_of_taking htaking]
    simp [hs, eq_comm (a := Status.nsDisabled)]

/-- No element fails. -/
theorem State.elementRefusal_eq_none : s.elementRefusal i el = none ↔ ∀ st, ¬ ElementFails s i el st := by
  rw [Option.eq_none_iff_forall_ne_some]
  exact forall_congr' fun st => not_congr State.elementRefusal_iff

theorem State.firstRefused_of_no_failure (hf : ∀ el ∈ els, ∀ st, ¬ ElementFails s i el st) (n : Nat) :
    s.firstRefused i n els = none :=
  State.firstRefused_none.2 fun el hel => State.elementRefusal_eq_none.2 (hf el hel)

/-! ### The resource counts (R9, R69) -/

/-- The absent keys of a namespace would go past its quota. -/
def State.PastQuota (s : State) (absent : List Key) : Prop := ∃ k ∈ absent, (s.ns k.ns).rules.quota <
  (s.ns k.ns).occupied + absent.countP (fun j => j.ns == k.ns)

/-- The absent keys of a bucket would make its chain too long. -/
def State.PastChain (s : State) (absent : List Key) : Prop := ∃ k ∈ absent, 8 <
  (s.chain (bucketOf k)).length + absent.countP (fun j => bucketOf j == bucketOf k)

theorem State.groupResourceRefusal_of_quota (h : s.PastQuota absent) :
    s.groupResourceRefusal absent n = some .quotaFull :=
  if_pos (by simpa [State.PastQuota] using h)

theorem State.groupResourceRefusal_within_quota (h : ¬ s.PastQuota absent) :
    s.groupResourceRefusal absent n =
      if absent.any (fun k => Config.chainLimit < (s.chain (bucketOf k)).length +
        absent.countP (fun j => bucketOf j == bucketOf k)) then some .tableFull
      else if s.freeEntries < absent.length then some .tableFull
      else if s.freeList.length < n then some .poolEmpty else none :=
  if_neg (by simpa [State.PastQuota] using h)

theorem State.groupResourceRefusal_of_no_room (hq : ¬ s.PastQuota absent)
    (h : s.PastChain absent ∨ s.freeEntries < absent.length) :
    s.groupResourceRefusal absent n = some .tableFull := by
  rw [State.groupResourceRefusal_within_quota hq]
  by_cases hc : s.PastChain absent
  · exact if_pos (by simpa [State.PastChain] using hc)
  · exact (if_neg (by simpa [State.PastChain] using hc)).trans (if_pos (h.resolve_left hc))

/-- With quota, chain room and free entries, the records decide. -/
theorem State.groupResourceRefusal_of_room (hq : ¬ s.PastQuota absent) (hc : ¬ s.PastChain absent)
    (he : ¬ s.freeEntries < absent.length) : s.groupResourceRefusal absent n =
      if s.freeList.length < n then some .poolEmpty else none := by
  rw [State.groupResourceRefusal_within_quota hq]
  exact (if_neg (by simpa [State.PastChain] using hc)).trans (if_neg he)

/-! ### The work of a GROUP, by its checks -/

/-- The work refuses the group with this failing index and status, and has raised some causes, or none. -/
def State.RefusesGroup (s : State) (i : SlotIx) (r : Request) (index : Nat) (st : Status)
    (causes : BitVec 7) : Prop :=
  s.group i r = (s.withCauses causes, ⟨st, [byteOf index, statusCode st]⟩)

theorem State.withCauses_zero (s : State) : s.withCauses 0#7 = s := by
  show { s with deviceCauses := s.deviceCauses ||| 0#7 } = s
  rw [BitVec.or_zero]

theorem State.group_of_bad_payload (h : groupPayload r.payload = .error n) :
    s.RefusesGroup i r n .badRequest 0#7 := by
  unfold State.RefusesGroup State.group
  rw [h, State.withCauses_zero]
  rfl

section
variable (hp : groupPayload r.payload = .ok els)
include hp

/-- The first element that fails gives failing index and status. -/
theorem State.group_of_element {k : Nat} (hk : els[k]? = some el) (hf : ElementFails s i el st)
    (hb : ∀ j before, j < k → els[j]? = some before → ∀ st', ¬ ElementFails s i before st') :
    s.RefusesGroup i r (k + 1) st 0#7 := by
  have hfirst : s.firstRefused i 1 els = some (1 + k, st) := State.firstRefused_some hk
    (fun m before hm hg => State.elementRefusal_eq_none.2 (hb m before hm hg)) (State.elementRefusal_iff.2 hf)
  unfold State.RefusesGroup State.group
  rw [hp]
  simp only [hfirst, State.withCauses_zero, Nat.add_comm 1 k]
  rfl

variable (hf : ∀ el ∈ els, ∀ st, ¬ ElementFails s i el st)
include hf

theorem State.group_of_pressure (hr : s.groupResourceRefusal (s.absentKeys els) els.length = some st) :
    s.RefusesGroup i r 0 st 0x10#7 := by
  unfold State.RefusesGroup State.group
  rw [hp]
  simp only [State.firstRefused_of_no_failure hf, hr]
  rfl

variable (hr : s.groupResourceRefusal (s.absentKeys els) els.length = none)
include hr

theorem State.group_of_exhausted (ht : 281474976710655 < s.tokenCounter + els.length) :
    s.RefusesGroup i r 0 .tokensExhausted 0x40#7 := by
  unfold State.RefusesGroup State.group
  rw [hp]
  simp only [State.firstRefused_of_no_failure hf, hr, if_neg (Nat.not_le_of_lt ht)]
  rfl

theorem State.group_of_granted (ht : s.tokenCounter + els.length ≤ 281474976710655) :
    s.group i r = (els.foldl (fun acc el => acc.grantElement i el) s,
      ⟨.ok, (List.range els.length).flatMap (fun n => beBytes 6 (s.tokenCounter + n))⟩) := by
  unfold State.group
  rw [hp]
  simp only [State.firstRefused_of_no_failure hf, hr, if_pos ht, groupTokens_eq]

end

/-! ### What a group reads when its request has begun -/

theorem begun_elementFails {l : LineIx} {j : SlotIx} :
    ElementFails ((s.takeFrame l r).setLease j) i el st ↔ ElementFails s i el st := by
  obtain ⟨hlookup, hown, -, -, -, -, hnow, -, htake, -⟩ := State.begun_searches s l r j
  rw [← State.elementRefusal_iff, ← State.elementRefusal_iff]
  unfold State.elementRefusal
  simp only [hlookup, hown, hnow, htake]

theorem State.begun_absentKeys (s : State) (l : LineIx) (r : Request) (j : SlotIx)
    (els : List GroupElement) : ((s.takeFrame l r).setLease j).absentKeys els = s.absentKeys els := by
  obtain ⟨hlookup, -⟩ := State.begun_searches s l r j
  simp only [State.absentKeys, hlookup]

theorem State.begun_groupResourceRefusal (s : State) (l : LineIx) (r : Request) (j : SlotIx)
    (absent : List Key) (n : Nat) : ((s.takeFrame l r).setLease j).groupResourceRefusal absent n =
      s.groupResourceRefusal absent n := by
  simp [State.groupResourceRefusal]

end Sys2Proof.Machine

open Sys2Proof Sys2Proof.Machine

/-- Settles O38: each check's failure is one equation of the payload or of the GROUP's work, read on the state in
which the request has begun. -/
theorem groupIsAllOrNothing : Obligations.GroupIsAllOrNothing := by
  refine ⟨?_, fun s i el c free hfree => ⟨fun e hl he => ?_, fun e hl hm => ?_⟩⟩
  · intro s l r h hk i refused count sized inRange same
    have hkind : (fun k => k == 0x09#8) r.kind = true := by rw [hk]; rfl
    have work : ∀ {index st causes},
        ((s.takeFrame l r).setLease i).RefusesGroup i r index st causes → refused index st causes :=
      fun hw => ⟨_, _, rfl, State.begun_spec s l r, requestStep_refuses h hkind hw⟩
    have malformed : ∀ {n}, groupPayload r.payload = .error n → refused n .badRequest 0#7 := fun hp =>
      work (State.group_of_bad_payload hp)
    refine ⟨fun hs => malformed (groupPayload_of_unsized hs),
      fun hs k hk hr hb => malformed (groupPayload_of_out_of_range hs hk hr hb),
      fun hs hr k hk ⟨j, hj, hsame⟩ hd => ?_, fun hs hr hd els hlen hat => ?_⟩
    · obtain ⟨els, hlen, hat⟩ := exists_elementsAt hr
      exact malformed (groupPayload_of_repeat hs hlen hat hk hj hsame hd)
    have hp : groupPayload r.payload = .ok els := groupPayload_of_distinct hs hlen hat hd
    refine ⟨fun k el st hk hf hb => ?_, fun hf => ?_⟩
    · exact work (State.group_of_element hp hk (begun_elementFails.2 hf) fun j before hj hg st' hb' =>
        hb j before hj hg st' (begun_elementFails.1 hb'))
    intro absent pastQuota pastChain pastEntries
    have hfine : ∀ el ∈ els, ∀ st, ¬ ElementFails ((s.takeFrame l r).setLease i) i el st :=
      fun el hel st hfails => hf el hel st (begun_elementFails.1 hfails)
    have hcounts : ((s.takeFrame l r).setLease i).groupResourceRefusal
        (((s.takeFrame l r).setLease i).absentKeys els) els.length =
        s.groupResourceRefusal absent els.length := by
      rw [State.begun_absentKeys, State.begun_groupResourceRefusal]
      rfl
    have pressed : ∀ {st}, s.groupResourceRefusal absent els.length = some st → refused 0 st 0x10#7 :=
      fun hr => work (State.group_of_pressure hp hfine (hcounts.trans hr))
    refine ⟨fun hq => pressed (State.groupResourceRefusal_of_quota hq),
      fun hq hroom => pressed (State.groupResourceRefusal_of_no_room hq hroom), fun hq hc he => ?_⟩
    have hroom := State.groupResourceRefusal_of_room (n := els.length) hq hc he
    refine ⟨fun hpool => pressed (hroom.trans (if_pos hpool)), fun hpool => ?_⟩
    have hnone := hcounts.trans (hroom.trans (if_neg (Nat.not_lt_of_le hpool)))
    have htokens : ((s.takeFrame l r).setLease i).tokenCounter = s.tokenCounter := by simp
    refine ⟨fun ht => work (State.group_of_exhausted hp hfine hnone (by rwa [htokens])), fun ht => ?_⟩
    have hwork := State.group_of_granted hp hfine hnone (by rwa [htokens])
    rw [htokens] at hwork
    exact ⟨_, _, rfl, State.begun_spec s l r, requestStep_answers h hkind hwork
      (TableStep.foldl _ (fun s el => .grantElement s i el) _ _)⟩
  · have hgrant : s.grantElement i el = s.grantNew i el.key el.mode e c := by
      unfold State.grantElement
      rw [hfree, hl, he]
    rw [hgrant]
    exact State.grantNew_spec s i el.key el.mode e c
  · have hgrant : s.grantElement i el = s.grantJoin i el.key e c := by
      unfold State.grantElement
      rw [hfree, hl]
    rw [hgrant]
    exact State.grantJoin_spec s i el.key e c
end

section
/-!
OPEN, CLOSE, RENEW, a request of unknown kind and a duplicate (R75 to R83, R86, R87, R130, R133): what becomes of the
session that sent the request.
-/

-- One theorem at a time: side by side they would need more memory than the check gives.
set_option Elab.async false

namespace Sys2Proof.Machine

variable {s : State} {l : LineIx} {i : SlotIx} {r : Request} {reply : Reply}

/-- What an answer to a frame just taken leaves. -/
theorem State.taken_answered (s : State) (l : LineIx) (r : Request) (reply : Reply) :
    ReplyPlaced s (s.takeFrame l r) ((s.takeFrame l r).answer (slotOf l r.station) reply) l r reply :=
  State.answer_spec (by rw [State.takeFrame_line, if_pos rfl]) reply

/-- A request whose serving only answers it leaves the frame taken and the reply placed. -/
theorem exec_refuses {c : Instr} {serve : State → SlotIx → Request → State}
    (hexec : exec c s = .next (serve (s.takeFrame l r) (slotOf l r.station) r))
    (hserve : serve (s.takeFrame l r) (slotOf l r.station) r =
      (s.takeFrame l r).answer (slotOf l r.station) reply) :
    ∃ u t, exec c s = .next t ∧ FrameTaken s u l r ∧ ReplyPlaced s u t l r reply :=
  ⟨_, _, hexec, s.takeFrame_spec l r, by rw [hserve]; exact s.taken_answered l r reply⟩

/-- The session of an offered frame is as it was when the frame is taken. -/
theorem State.takeFrame_session (s : State) (l : LineIx) (r : Request) (j : SlotIx) :
    (s.takeFrame l r).session j = s.session j := by simp

/-! ### Duplicates (R77) -/

theorem isDuplicate_iff {x : Session} : isDuplicate x r = true ↔
    x.cache.valid = true ∧ x.cache.tag = r.tag ∧ x.cache.kind = r.kind := by
  simp [isDuplicate, and_assoc]

/-- The duplicate of an answered frame is answered as that frame was, with the lease restarted. -/
theorem State.taken_answeredFromCache (s : State) (l : LineIx) (r : Request) :
    SlotFilled s ((s.takeFrame l r).setLease (slotOf l r.station))
      ((s.takeFrame l r).answerFromCache (slotOf l r.station)) l r
      (s.session (slotOf l r.station)).cache.reply := by
  unfold State.answerFromCache
  rw [State.takeFrame_session]
  exact State.fillReply_spec (State.begun_replies s l r) _

/-- The common checks answer a duplicate. -/
theorem State.commonChecks_of_duplicate (hs : serviceRefusal s.service r = none)
    (ho : (s.session i).state = .opened) (hi : r.incarnation = (s.session i).incarnation)
    (hd : isDuplicate (s.session i) r = true) : s.commonChecks i r = some (s.answerFromCache i) := by
  have hsession : sessionRefusal (s.session i) r = none := by simp [sessionRefusal, ho, hi]
  unfold State.commonChecks
  simp only [hs, hsession, hd, if_true]

/-! ### OPEN by the state of its session (R78) -/

theorem State.serveOpen_of_opened (hs : serviceRefusal s.service r = none)
    (ho : (s.session i).state = .opened) : s.serveOpen i r =
      if isDuplicate (s.session i) r then s.answerFromCache i
      else s.answer i ⟨.sessionExists, [(s.session i).incarnation]⟩ := by
  unfold State.serveOpen
  simp only [hs, ho]

theorem State.serveOpen_of_ending (hs : serviceRefusal s.service r = none)
    (ho : (s.session i).state = .ending) : s.serveOpen i r = s.answer i ⟨.sessionEnding, []⟩ := by
  unfold State.serveOpen
  simp only [hs, ho]

theorem State.serveOpen_of_closed (hs : serviceRefusal s.service r = none)
    (ho : (s.session i).state = .idle ∨ (s.session i).state = .ended) :
    s.serveOpen i r = s.openClosed i r := by
  unfold State.serveOpen
  obtain ho | ho := ho <;> simp only [hs, ho]

theorem State.openClosed_of_bad_length (h : r.payload.length ≠ 3) :
    s.openClosed i r = s.answer i ⟨.badRequest, []⟩ := if_pos h

theorem State.openClosed_of_bad_ring (h : r.payload.length = 3)
    (hr : (r.payload.getD 0 0).toNat = 0 ∨ 7 < (r.payload.getD 0 0).toNat) :
    s.openClosed i r = s.answer i ⟨.badRing, []⟩ := by
  unfold State.openClosed
  rw [if_neg (not_not_intro h), if_pos hr]

theorem State.openClosed_of_accepted (h : r.payload.length = 3)
    (hr : 1 ≤ (r.payload.getD 0 0).toNat) (hr' : (r.payload.getD 0 0).toNat ≤ 7) :
    s.openClosed i r = s.acceptOpen i r := by
  unfold State.openClosed
  rw [if_neg (not_not_intro h), if_neg (by omega)]

/-! ### An accepted OPEN (R79 to R82) -/

/-- The granted lease is the requested one, clamped between the bounds (R80). -/
theorem State.clampLease_eq (h : s.leaseMin ≤ s.leaseMax) (requested : Nat) :
    s.clampLease requested = max (min requested s.leaseMax) s.leaseMin := by
  unfold State.clampLease
  split
  · omega
  · split <;> omega

/-- The session is opened with a ring and a lease, and its lease runs. -/
def State.openSession (s : State) (i : SlotIx) (ring lease : Nat) : State :=
  ((if (s.session i).state = .ended then s.withdrawSessionEnded i else s).updSession i
    (fun x => openedSession x ring lease)).setLease i

theorem State.openSession_session (s : State) (i : SlotIx) (ring lease : Nat) (j : SlotIx) :
    (s.openSession i ring lease).session j = if i = j then
      { openedSession (s.session i) ring lease with
        leaseDeadline := some (min (s.time + lease) Config.maxTime) } else s.session j := by
  have hread : ∀ j, (if (s.session i).state = .ended then s.withdrawSessionEnded i else s).session j =
      s.session j := fun j => by split <;> simp
  have htime : (if (s.session i).state = .ended then s.withdrawSessionEnded i else s).time = s.time := by
    split <;> simp
  unfold State.openSession
  rw [State.setLease_session, State.updSession_session_same, State.updSession_session]
  split
  · rw [hread, leaseEnd, State.updSession_session_same, State.updSession_time, htime]
    rfl
  · exact hread j

theorem State.openSession_line (s : State) (i : SlotIx) (ring lease : Nat) (m : LineIx) :
    (s.openSession i ring lease).line m = if lineOf i = m then
      { s.line m with
        notices := if (s.session i).state = .ended then
          (s.line m).notices.filter (fun it => it != .sessionEnded i) else (s.line m).notices }
      else s.line m := by
  have hline : (s.openSession i ring lease).line m =
      (if (s.session i).state = .ended then s.withdrawSessionEnded i else s).line m := by
    simp [State.openSession]
  rw [hline]
  by_cases he : (s.session i).state = .ended
  · rw [if_pos he, if_pos he, State.withdrawSessionEnded, State.updLine_line]
    by_cases hm : lineOf i = m
    · subst hm; rfl
    · rw [if_neg hm, if_neg hm]
  · rw [if_neg he, if_neg he, ite_self]

theorem State.openSession_writes (s : State) (i : SlotIx) (ring lease : Nat) :
    s.openSession i ring lease =
      { s with
        sessions := (s.openSession i ring lease).sessions, lines := (s.openSession i ring lease).lines,
        deadlines := Machine.insertDeadline ⟨.lease i, min (s.time + lease) Config.maxTime⟩
          (s.deadlines.filter (fun d => !refersToLease i d.ref)) } := by
  have hopen : ∀ v : State, (v.updSession i (fun x => openedSession x ring lease)).setLease i =
      { v with
        sessions := ((v.updSession i (fun x => openedSession x ring lease)).setLease i).sessions,
        deadlines := Machine.insertDeadline ⟨.lease i, min (v.time + lease) Config.maxTime⟩
          (v.deadlines.filter (fun d => !refersToLease i d.ref)) } := fun v => by
    apply State.eq_of_fields <;> simp [State.setLease_deadlines, leaseEnd, openedSession]
  unfold State.openSession
  rw [hopen]
  split <;> rfl

theorem State.acceptOpen_eq (s : State) (i : SlotIx) (r : Request) : s.acceptOpen i r =
    let v := s.openSession i
      (max (r.payload.getD 0 0).toNat (s.line (lineOf i)).config.ringFloor)
      (s.clampLease (beNat (r.payload.drop 1)))
    v.finish i r (openReply (v.session i)) := rfl

/-- What an accepted OPEN leaves of the state in which its frame was offered. -/
theorem State.taken_acceptOpen (s : State) (l : LineIx) (r : Request)
    (hb : s.leaseMin ≤ s.leaseMax) :
    let i := slotOf l r.station
    let x := s.session i
    let t := (s.takeFrame l r).acceptOpen i r
    let ring := max (r.payload.getD 0 0).toNat (s.line l).config.ringFloor
    let lease := max (min (beNat (r.payload.drop 1)) s.leaseMax) s.leaseMin
    let inc := nextIncarnation x.incarnation
    let ends := min (s.time + lease) Config.maxTime
    let reply : Reply := ⟨.ok, [byteOf ring] ++ beBytes 2 lease ++ [inc]⟩
    t = { s with arbiterLast := srcLine l, lines := t.lines, sessions := t.sessions,
                 deadlines := Machine.insertDeadline ⟨.lease i, ends⟩
                   (s.deadlines.filter (fun d => !refersToLease i d.ref)) } ∧
    t.session i = { openedSession x ring lease with
      leaseDeadline := some ends, cache := ⟨r.tag, r.kind, reply, true⟩ } ∧
    SessionsSameBut [i] s t ∧
    t.line l = { s.line l with
      requests := (s.line l).requests.tail,
      replies := (s.line l).replies ++ [slotFor r (some ⟨inc, .ok, 0#8, reply.payload⟩)],
      notices := if x.state = .ended then
        (s.line l).notices.filter (fun it => it != .sessionEnded i) else (s.line l).notices } ∧
    LinesSameBut [l] s t := by
  intro i x t ring lease inc ends reply
  have hlease : (s.takeFrame l r).clampLease (beNat (r.payload.drop 1)) = lease :=
    State.clampLease_eq hb _
  have hring : max (r.payload.getD 0 0).toNat
      ((s.takeFrame l r).line (lineOf i)).config.ringFloor = ring := by
    rw [lineOf_slotOf, State.takeFrame_line, if_pos rfl]
  have hsession := State.openSession_session (s.takeFrame l r) i ring lease
  have hline := State.openSession_line (s.takeFrame l r) i ring lease
  have hwrites := State.openSession_writes (s.takeFrame l r) i ring lease
  have ht : t = ((s.takeFrame l r).openSession i ring lease).finish i r
      (openReply (((s.takeFrame l r).openSession i ring lease).session i)) := by
    rw [← hlease, ← hring]; exact State.acceptOpen_eq _ _ _
  generalize (s.takeFrame l r).openSession i ring lease = v at hsession hline hwrites ht
  clear_value t
  have hi : v.session i = { openedSession x ring lease with leaseDeadline := some ends } := by
    rw [hsession, if_pos rfl]; rfl
  have hl : v.line l = { s.line l with
      requests := (s.line l).requests.tail, replies := (s.line l).replies ++ [slotFor r none],
      notices := if x.state = .ended then
        (s.line l).notices.filter (fun it => it != .sessionEnded i) else (s.line l).notices } := by
    rw [hline, if_pos (lineOf_slotOf _ _), State.takeFrame_line, if_pos rfl]; rfl
  obtain ⟨htaken, -, hother⟩ := s.takeFrame_spec l r
  have hanswer := State.finish_spec (s := s) (v := v) (l := l) (r := r) (by rw [hl])
    (openReply (v.session i))
  rw [← ht] at hanswer
  obtain ⟨hfin, hfinLine, hfinLines, hfinSession, hfinSessions⟩ := hanswer
  refine ⟨?_, ?_, fun j hj => ?_, ?_, fun m hm => ?_⟩
  · rw [hfin, hwrites, htaken]; rfl
  · rw [hfinSession, hi]; rfl
  · rw [hfinSessions j hj, hsession, if_neg (List.ne_of_not_mem_cons hj).symm]; rfl
  · rw [hfinLine, contentOf, hi, hl]; rfl
  · rw [hfinLines m hm, hline, lineOf_slotOf, if_neg (List.ne_of_not_mem_cons hm).symm, hother m hm]

/-! ### CLOSE (R87) -/

/-- An admitted frame passes the common checks when it is taken. -/
theorem State.commonChecks_of_admitted (h : RequestAdmitted s l r) :
    (s.takeFrame l r).commonChecks (slotOf l r.station) r = none := by
  obtain ⟨-, hs, ho, hi, hd⟩ := h
  have hsession : sessionRefusal (s.session (slotOf l r.station)) r = none := by
    simp [sessionRefusal, ho, hi]
  unfold State.commonChecks
  simp [hs, hsession, hd]

/-- The session enters ENDING with its close reply pending. -/
def State.closeAccepted (s : State) (i : SlotIx) : State :=
  (s.enterEnding i .closed).updSession i (fun x => { x with closeReply := true })

theorem State.enterEnding_session (s : State) (i : SlotIx) (cause : EndCause) (j : SlotIx) :
    (s.enterEnding i cause).session j = if i = j then
      { s.session i with
        state := .ending, endCause := cause, leaseDeadline := none,
        cache := { (s.session i).cache with valid := false }, endingSweep := .starting }
      else s.session j := State.updSession_session _ i _ j

theorem State.closeAccepted_session (s : State) (i j : SlotIx) : (s.closeAccepted i).session j =
    if i = j then
      { s.session i with
        state := .ending, endCause := .closed, leaseDeadline := none, closeReply := true,
        cache := { (s.session i).cache with valid := false }, endingSweep := .starting }
      else s.session j := by
  unfold State.closeAccepted
  rw [State.updSession_session, State.enterEnding_session, State.enterEnding_session, if_pos rfl]
  split <;> rfl

theorem State.serveClose_of_empty (hc : s.commonChecks i r = none) (hp : r.payload = []) :
    s.serveClose i r = s.closeAccepted i := by
  unfold State.serveClose
  simp only [hc]
  exact if_pos hp

theorem State.serveClose_of_payload (hc : s.commonChecks i r = none) (hp : r.payload ≠ []) :
    s.serveClose i r = (s.setLease i).finish i r ⟨.badRequest, []⟩ := by
  unfold State.serveClose
  simp only [hc]
  exact if_neg hp

/-! ### RENEW and unknown kinds (R83, R133) -/

theorem State.renew_eq (s : State) (i : SlotIx) (r : Request) :
    s.renew i r = (s, if r.payload = [] then ⟨.ok, []⟩ else ⟨.badRequest, []⟩) := by
  unfold State.renew State.refuse
  split <;> rfl

theorem isKnownKind_of_outside {kind : Byte} (h : kind.toNat = 0 ∨ 9 < kind.toNat) :
    isKnownKind kind = false := by
  simp only [isKnownKind, Bool.and_eq_false_iff, decide_eq_false_iff_not]
  omega

end Sys2Proof.Machine

open Sys2Proof Sys2Proof.Machine

/-- Settles O27: an OPEN meets its duplicate check itself, every other kind in the common checks. -/
theorem duplicateIsAnsweredFromTheCache : Obligations.DuplicateIsAnsweredFromTheCache := by
  intro s l r h x hs ho hi hv ht hk
  obtain ⟨isKind, serve, hkind, hexec, hother, hopen⟩ := exec_requestCommand r.kind l s
  rw [State.requestStep_offered h, hkind r rfl, if_pos rfl] at hexec
  have hs' : serviceRefusal (s.takeFrame l r).service r = none := by simpa using hs
  have hsession := s.takeFrame_session l r (slotOf l r.station)
  have hd : isDuplicate ((s.takeFrame l r).session (slotOf l r.station)) r = true := by
    rw [hsession]; exact isDuplicate_iff.2 ⟨hv, ht, hk⟩
  have hserve : serve (s.takeFrame l r) (slotOf l r.station) r =
      (s.takeFrame l r).answerFromCache (slotOf l r.station) := by
    by_cases h1 : r.kind = 0x01#8
    · rw [hopen h1, State.serveOpen_of_opened hs' (by rw [hsession]; exact ho), if_pos hd]
    · exact hother h1 _ _ _ _ (State.commonChecks_of_duplicate hs' (by rw [hsession]; exact ho)
        (by rw [hsession]; exact hi h1) hd)
  refine ⟨_, _, hexec, s.begun_spec l r, ?_⟩
  rw [hserve]
  exact s.taken_answeredFromCache l r

/-- Settles O28: the refusals are answers to the frame taken, and an accepted OPEN finishes on the opened session. -/
theorem openIsDecidedByItsSession : Obligations.OpenIsDecidedByItsSession := by
  intro s l r h hk hservice i x asked refused
  have hexec : exec (.reqOpen l) s = .next ((s.takeFrame l r).serveOpen i r) := by
    refine congrArg Host.Outcome.next ?_
    rw [State.requestStep_offered h, hk]
    rfl
  have hs : serviceRefusal (s.takeFrame l r).service r = none := by
    show serviceRefusal s.service r = none
    rw [hservice]; rfl
  have hsession : (s.takeFrame l r).session i = x := s.takeFrame_session l r i
  have hclosed (hx : x.state = .idle ∨ x.state = .ended) :=
    State.serveOpen_of_closed hs (by rw [hsession]; exact hx)
  refine ⟨fun ho hd => exec_refuses hexec ?_, fun ho => exec_refuses hexec ?_,
    fun hx hp => exec_refuses hexec ?_, fun hx hp ha => exec_refuses hexec ?_,
    fun hx hp h1 h7 hb => ?_⟩
  · rw [State.serveOpen_of_opened hs (by rw [hsession]; exact ho), hsession, hd]
    rfl
  · exact State.serveOpen_of_ending hs (by rw [hsession]; exact ho)
  · rw [hclosed hx, State.openClosed_of_bad_length hp]
  · rw [hclosed hx, State.openClosed_of_bad_ring hp ha]
  · rw [hclosed hx, State.openClosed_of_accepted hp h1 h7] at hexec
    exact ⟨_, hexec, s.taken_acceptOpen l r hb⟩

/-- Settles O29: an empty CLOSE ends its session, and one with a payload is answered like any refused request. -/
theorem closeEndsItsSession : Obligations.CloseEndsItsSession := by
  intro s l r h hk i
  have hchecks := State.commonChecks_of_admitted h
  have hexec : exec (.reqClose l) s = .next ((s.takeFrame l r).serveClose i r) := by
    refine congrArg Host.Outcome.next ?_
    rw [State.requestStep_offered h.1, hk]
    rfl
  refine ⟨fun hp => ?_, fun hp => ?_⟩
  · rw [State.serveClose_of_empty hchecks hp] at hexec
    refine ⟨_, _, hexec, s.takeFrame_spec l r, ?_, ?_, fun j hj => ?_⟩
    · rfl
    · rw [State.closeAccepted_session, if_pos rfl, State.takeFrame_session]
    · rw [State.closeAccepted_session, if_neg (List.ne_of_not_mem_cons hj).symm, State.takeFrame_session]
  · rw [State.serveClose_of_payload hchecks hp] at hexec
    exact ⟨_, _, hexec, s.begun_spec l r, State.finish_spec (s.begun_replies l r) _⟩

/-- Settles O30: neither kind has work of its own. -/
theorem renewAndUnknownKindsOnlyRestartTheLease :
    Obligations.RenewAndUnknownKindsOnlyRestartTheLease := by
  intro s l r h
  refine ⟨fun hk => ?_, fun hk => ?_⟩
  · exact ⟨_, _, rfl, s.begun_spec l r, requestStep_answers h (by rw [hk]; rfl) (State.renew_eq _ _ r)
      (.refl _)⟩
  · have hkind := isKnownKind_of_outside hk
    refine ⟨_, _, rfl, s.begun_spec l r, requestStep_answers h (by rw [hkind]; rfl) rfl (.refl _), ?_⟩
    rw [replyKind, hkind]
    rfl
end

section
/-!
Device reset outside the lock table and the claim pool (R97, R113, R126, R160, R178, R185), and the window that it
leaves (R188).
-/

-- One theorem at a time: side by side they would need more memory than the check gives.
set_option Elab.async false

namespace Sys2Proof.Machine

theorem State.reset_lines : State.reset.lines.toList = List.replicate 6 Line.reset :=
  Vector.toList_replicate

/-- No cause is set, so no summary bit is (R182). -/
theorem State.reset_attnAsserted : State.reset.attnAsserted = false := by
  unfold State.attnAsserted
  rw [State.reset_lines]
  rfl

/-- The window after device reset, block by block (Table 11.4): identification, status and device bytes, line bytes,
settings and counts, parameter and result bytes. -/
theorem State.reset_window : State.reset.window =
    [0x71, 0x00, 0x00, 0x7F] ++ List.replicate 6 0x70 ++ [0x00, 0xC8] ++ [0x75, 0x30] ++ [0x01, 0x00] ++
      [0x10, 0x00] ++ [0x08, 0x00] ++ List.replicate 20 0 ++ List.replicate 24 0 := by
  have hparams : State.reset.params.toList = List.replicate 20 0 := Vector.toList_replicate
  have hresult : State.reset.result.toList = List.replicate 24 0 := Vector.toList_replicate
  unfold State.window
  rw [State.reset_lines, hparams, hresult]
  rfl

end Sys2Proof.Machine

open Sys2Proof Sys2Proof.Machine

/-- Settles O4: the waiting commands apart, the state is `State.reset`. -/
theorem deviceResetValuesOfTheOtherBlocks : Obligations.DeviceResetValuesOfTheOtherBlocks := by
  intro s
  refine ⟨{ State.reset with pending := s.pending }, rfl, State.reset_session, State.reset_ns, rfl, rfl,
    rfl, rfl, State.reset_line, rfl, rfl, rfl, rfl, fun k => ?_, fun k => ?_, rfl, rfl, rfl, rfl, rfl,
    rfl, rfl, rfl, State.reset_attnAsserted, State.reset_window⟩
  · exact Vector.getElem_replicate _
  · exact Vector.getElem_replicate _
end

section
/-!
EVICT SESSION (R88, R171), and the ending sweep that takes back the claims of a session and ends it (R89 to R91, R157).
-/

-- One theorem at a time: side by side they would need more memory than the check gives.
set_option Elab.async false

namespace Sys2Proof.Machine

variable {s : State} {i : SlotIx} {c : ClaimIx} {l : LineIx}

/-! ### EVICT SESSION -/

theorem State.slotCommand_of_none {run : State → SlotIx → State} (h : s.paramSlot = none) :
    s.slotCommand run = s.complete .badValue [] := by
  unfold State.slotCommand
  rw [h]

theorem State.slotCommand_of_some {run : State → SlotIx → State} (h : s.paramSlot = some i) :
    s.slotCommand run = run s i := by
  unfold State.slotCommand
  rw [h]

theorem State.evict_of_idle (h : (s.session i).state = .idle) :
    s.evict i = s.complete .noSession (s.evictResult i) := by
  unfold State.evict
  rw [h]

theorem State.evict_of_ending (h : (s.session i).state = .ending ∨ (s.session i).state = .ended) :
    s.evict i = s.complete .alreadyEnding (s.evictResult i) := by
  unfold State.evict
  obtain h | h := h <;> rw [h]

theorem State.evict_of_opened (h : (s.session i).state = .opened) :
    s.evict i = { s.enterEnding i .evicted with longCommand := some (.evict i) } := by
  unfold State.evict
  rw [h]

/-! ### A claim step (R89, R90) -/

theorem State.firstIn_of_first {before after : List ClaimIx}
    (hl : (s.session i).claimList = before ++ c :: after)
    (hb : ∀ d ∈ before, (s.claim d).state ≠ (s.claim c).state) :
    s.firstIn i (s.claim c).state = some c := by
  unfold State.firstIn
  rw [List.find?_eq_some_iff_append]
  exact ⟨beq_self_eq_true _, before, after, hl, fun d hd => by simpa using hb d hd⟩

theorem State.firstIn_eq_none {st : ClaimState}
    (h : ∀ d ∈ (s.session i).claimList, (s.claim d).state ≠ st) : s.firstIn i st = none := by
  unfold State.firstIn
  rw [List.find?_eq_none]
  exact fun d hd => by simpa using h d hd

/-- The first claim of its state is the step's if no claim of the list has a state that goes before (R89). -/
theorem State.endingTarget_eq (hfirst : s.firstIn i (s.claim c).state = some c)
    (hst : (s.claim c).state = .waiting ∨
      ((s.claim c).state = .detached ∧ ∀ d ∈ (s.session i).claimList, (s.claim d).state ≠ .waiting) ∨
      ((s.claim c).state = .held ∧ ∀ d ∈ (s.session i).claimList,
        (s.claim d).state ≠ .waiting ∧ (s.claim d).state ≠ .detached)) :
    s.endingTarget i = some c := by
  unfold State.endingTarget
  obtain hst | ⟨hst, hw⟩ | ⟨hst, ho⟩ := hst
  · rw [hst] at hfirst
    rw [hfirst]
  · rw [hst] at hfirst
    rw [State.firstIn_eq_none hw, hfirst]
  · rw [hst] at hfirst
    rw [State.firstIn_eq_none fun d hd => (ho d hd).1, State.firstIn_eq_none fun d hd => (ho d hd).2, hfirst]

/-- The ending sweep of the session is past its first step. -/
def State.sweepRunning (s : State) (i : SlotIx) : State :=
  s.updSession i (fun x => { x with endingSweep := .running })

theorem State.takeBack_eq (h : (s.claim c).state ≠ .free) : s.takeBack c =
    if (s.claim c).state = .detached then s.freeClaim c
    else (s.freeClaim c).grantPass (s.claim c).entry := by
  unfold State.takeBack
  cases hst : (s.claim c).state with
  | free => exact absurd hst h
  | held => rfl
  | waiting => rfl
  | detached => rfl

theorem State.endingStep_eq (s : State) (i : SlotIx) (c : ClaimIx) : s.endingStep i c =
    (if (s.session i).endingSweep = .starting then
      (s.session i).claimList.filter (fun d => decide (d ≠ c ∧ (s.claim d).state = .held ∧
        (s.entry (s.claim d).entry).upgrade = some d)) else []).foldl
      (fun acc d => acc.dropUpgrade d) ((s.sweepRunning i).takeBack c) := by
  have hothers : (s.pendingUpgrades i).filter (fun d => d != c) =
      (s.session i).claimList.filter (fun d => decide (d ≠ c ∧ (s.claim d).state = .held ∧
        (s.entry (s.claim d).entry).upgrade = some d)) := by
    unfold State.pendingUpgrades
    rw [List.filter_filter]
    refine List.filter_congr fun d _ => ?_
    rw [Bool.eq_iff_iff]
    simp
  unfold State.endingStep
  rw [hothers]
  cases hsweep : (s.session i).endingSweep <;> rfl

theorem exec_endingSweepStep (h : SweepOffered s (sweepEnding i)) (hc : s.endingTarget i = some c) :
    exec (.endingSweepStep i) s = .next ((swept s (sweepEnding i)).endingStep i c) := by
  show execEndingSweepStep i s = _
  unfold execEndingSweepStep
  rw [if_pos (State.sweepTurn_of_offered h), hc]
  rfl

/-! ### The session leaves ENDING (R91) -/

theorem State.endsWithNotice_iff (h : (s.session i).endCause ≠ .none) : s.endsWithNotice i = true ↔
    ((s.session i).endCause = .leaseExpired ∨ (s.session i).endCause = .evicted ∨
      (s.session i).endCause = .lineBreak) ∧
      (s.session i).noticeSuppressed = false ∧ (s.line (lineOf i)).state = .active := by
  unfold State.endsWithNotice
  cases hc : (s.session i).endCause <;> simp_all

theorem State.endsWithNotice_of_closed (h : (s.session i).endCause = .closed) :
    s.endsWithNotice i = false := by
  unfold State.endsWithNotice
  rw [h]

/-- The session's ending sweep is over. -/
def State.sweepOver (s : State) (i : SlotIx) : State :=
  s.updSession i (fun x => { x with endingSweep := .inactive })

theorem State.sweepOver_session (s : State) (i : SlotIx) :
    (s.sweepOver i).session i = { s.session i with endingSweep := .inactive } :=
  State.updSession_session_same _ _ _

theorem State.sweepOver_endsWithNotice (s : State) (i : SlotIx) :
    (s.sweepOver i).endsWithNotice i = s.endsWithNotice i := by
  unfold State.endsWithNotice
  rw [State.sweepOver_session]
  rfl

theorem State.leaveEnding_of_closed (h : (s.session i).endCause = .closed) : s.leaveEnding i =
    ((s.sweepOver i).settleClose i).updSession i (fun x => { x with state := .idle }) :=
  if_pos (show ((s.sweepOver i).session i).endCause = .closed by rw [State.sweepOver_session]; exact h)

theorem State.leaveEnding_of_other (h : (s.session i).endCause ≠ .closed) : s.leaveEnding i =
    if s.endsWithNotice i then
      ((s.sweepOver i).updSession i (fun x => { x with state := .ended })).updLine (lineOf i)
        (fun ln => { ln with notices := ln.notices ++ [.sessionEnded i] })
    else (s.sweepOver i).updSession i (fun x => { x with state := .idle }) := by
  rw [← State.sweepOver_endsWithNotice]
  exact if_neg (show ¬ ((s.sweepOver i).session i).endCause = .closed by
    rw [State.sweepOver_session]; exact h)

theorem State.leaveEnding_writes (s : State) (i : SlotIx) : s.leaveEnding i =
    { s with sessions := (s.leaveEnding i).sessions, lines := (s.leaveEnding i).lines } := by
  by_cases hc : (s.session i).endCause = .closed
  · rw [State.leaveEnding_of_closed hc]
    unfold State.settleClose
    split <;> rfl
  · rw [State.leaveEnding_of_other hc]
    split <;> rfl

theorem State.leaveEnding_session (s : State) (i : SlotIx) : (s.leaveEnding i).session i =
    { s.session i with
      endingSweep := .inactive, state := if s.endsWithNotice i then .ended else .idle,
      closeReply := if (s.session i).endCause = .closed then false else (s.session i).closeReply } := by
  by_cases hc : (s.session i).endCause = .closed
  · rw [State.leaveEnding_of_closed hc, State.updSession_session_same, State.settleClose_session,
      if_pos rfl, State.sweepOver_session, State.endsWithNotice_of_closed hc, if_pos hc]
    rfl
  · rw [State.leaveEnding_of_other hc, if_neg hc]
    split
    · rw [State.updLine_session, State.updSession_session_same, State.sweepOver_session]
    · rw [State.updSession_session_same, State.sweepOver_session]

theorem State.leaveEnding_session_other {j : SlotIx} (hj : i ≠ j) :
    (s.leaveEnding i).session j = s.session j := by
  have hover : (s.sweepOver i).session j = s.session j := State.updSession_session_other _ _ _ _ hj
  by_cases hc : (s.session i).endCause = .closed
  · rw [State.leaveEnding_of_closed hc, State.updSession_session_other _ _ _ _ hj,
      State.settleClose_session, if_neg hj, hover]
  · rw [State.leaveEnding_of_other hc]
    split
    · rw [State.updLine_session, State.updSession_session_other _ _ _ _ hj, hover]
    · rw [State.updSession_session_other _ _ _ _ hj, hover]

theorem State.leaveEnding_line_of_closed (h : (s.session i).endCause = .closed) :
    (s.leaveEnding i).line (lineOf i) = { s.line (lineOf i) with
      replies := if (s.session i).closeReply = true then
          fillReserved (stationOf i) (contentOf s i ⟨.ok, []⟩) (s.line (lineOf i)).replies
        else (s.line (lineOf i)).replies } := by
  rw [State.leaveEnding_of_closed h, State.updSession_line, State.settleClose_line, contentOf,
    State.sweepOver_session]
  by_cases hr : (s.session i).closeReply = true
  · rw [if_pos ⟨hr, rfl⟩, if_pos hr]
    rfl
  · rw [if_neg (fun hx => hr hx.1), if_neg hr]
    rfl

theorem State.leaveEnding_line_of_other (h : (s.session i).endCause ≠ .closed) :
    (s.leaveEnding i).line (lineOf i) = { s.line (lineOf i) with
      notices := if s.endsWithNotice i then (s.line (lineOf i)).notices ++ [.sessionEnded i]
        else (s.line (lineOf i)).notices } := by
  rw [State.leaveEnding_of_other h]
  split
  · exact State.updLine_line_same _ _ _
  · rfl

theorem State.leaveEnding_line_other (hl : lineOf i ≠ l) : (s.leaveEnding i).line l = s.line l := by
  by_cases hc : (s.session i).endCause = .closed
  · rw [State.leaveEnding_of_closed hc, State.updSession_line, State.settleClose_line,
      if_neg (fun hx => hl hx.2)]
    rfl
  · rw [State.leaveEnding_of_other hc]
    split
    · exact State.updLine_line_other _ _ _ _ hl
    · rfl

/-! ### What waited for the session (R88, R157) -/

theorem State.complete_longCommand (s : State) (code : ResultCode) (bytes : List Byte) :
    (s.complete code bytes).longCommand = none := rfl

theorem State.completeEvict_of_waiting (hc : (s.session i).endCause = .evicted)
    (hw : s.longCommand = some (.evict i)) :
    s.completeEvict i = s.complete .ok [byteOf i.val, (s.session i).incarnation, 3#8] := by
  unfold State.completeEvict State.evictResult
  rw [if_pos ⟨hc, hw⟩, hc]
  rfl

theorem State.completeEvict_of_other
    (h : ¬ ((s.session i).endCause = .evicted ∧ s.longCommand = some (.evict i))) :
    s.completeEvict i = s := if_neg h

/-- The line takes the state that its restart was begun for (R146). -/
def State.restartEnded (s : State) (l : LineIx) : State :=
  s.updLine l (fun ln => { ln with state := match ln.restartEnd with
                                            | .active => .active
                                            | .disabled => .disabled })

theorem State.restartEnded_line (s : State) (l : LineIx) : OnlyLine s (s.restartEnded l) l
    { s.line l with state := match (s.line l).restartEnd with
                             | .active => .active
                             | .disabled => .disabled } :=
  ⟨rfl, State.updLine_line_same _ _ _,
    fun _ hm => State.updLine_line_other _ _ _ _ (List.ne_of_not_mem_cons hm).symm⟩

theorem State.completeRestart_of_idle (hw : s.longCommand = some (.restartLine l))
    (hi : ∀ j, lineOf j = l → (s.session j).state = .idle) :
    s.completeRestart l = (s.restartEnded l).complete .ok [match (s.line l).restartEnd with
      | .active => 1#8
      | .disabled => 0#8] := by
  have hcode : lineStateCode ((s.restartEnded l).line l).state = match (s.line l).restartEnd with
      | .active => 1#8
      | .disabled => 0#8 := by
    obtain ⟨-, hline, -⟩ := s.restartEnded_line l
    rw [hline]
    cases (s.line l).restartEnd <;> rfl
  rw [← hcode]
  exact if_pos ⟨hw, State.lineIdle_iff.2 hi⟩

theorem State.completeRestart_of_other (h : ¬ (s.longCommand = some (.restartLine l) ∧
    ∀ j, lineOf j = l → (s.session j).state = .idle)) : s.completeRestart l = s :=
  if_neg fun ⟨hw, hi⟩ => h ⟨hw, State.lineIdle_iff.1 hi⟩

theorem exec_endingSweepFinalStep (h : SweepOffered s (sweepEnding i))
    (hc : (s.session i).claimList = []) : exec (.endingSweepFinalStep i) s =
      .next ((swept s (sweepEnding i)).endingFinal i) :=
  congrArg Host.Outcome.next (if_pos ⟨State.sweepTurn_of_offered h, hc⟩)

end Sys2Proof.Machine

open Sys2Proof Sys2Proof.Machine

/-- Settles O43: the command is refused by the state of its session, or begins with the session's end. -/
theorem evictionByTheSessionState : Obligations.EvictionByTheSessionState := by
  intro s h
  have hexec : exec .evictSession s = .next ((taken s).slotCommand State.evict) :=
    congrArg Host.Outcome.next (commandStep_runs _ h rfl)
  refine ⟨fun hp => exec_completes (run := fun t => t.slotCommand State.evict) hexec
    (State.slotCommand_of_none (s := taken s) hp), fun i hp => ?_⟩
  have hrun : (taken s).slotCommand State.evict = (taken s).evict i :=
    State.slotCommand_of_some (s := taken s) hp
  rw [hrun] at hexec
  refine ⟨fun hx => exec_completes (run := fun t => t.evict i) hexec (State.evict_of_idle hx),
    fun hx => exec_completes (run := fun t => t.evict i) hexec (State.evict_of_ending hx), fun hx => ?_⟩
  rw [State.evict_of_opened (s := taken s) hx] at hexec
  refine ⟨_, hexec, rfl, ?_, fun j hj => ?_⟩
  · exact (State.enterEnding_session (taken s) i .evicted i).trans (if_pos rfl)
  · exact (State.enterEnding_session (taken s) i .evicted j).trans
      (if_neg (List.ne_of_not_mem_cons hj).symm)

/-- Settles O50, by the claim that the sweep finds and what its step does with it. -/
theorem endingSweepTakesBackOneClaim : Obligations.EndingSweepTakesBackOneClaim := by
  intro s i before after c h list st hl hb hst upgrades
  have htarget := State.endingTarget_eq (State.firstIn_of_first hl hb) hst
  have hused : (((swept s (sweepEnding i)).sweepRunning i).claim c).state ≠ .free := by
    show st ≠ .free
    obtain hst | ⟨hst, -⟩ | ⟨hst, -⟩ := hst <;> rw [hst] <;> decide
  refine ⟨(swept s (sweepEnding i)).sweepRunning i, rfl, State.updSession_session_same _ _ _,
    fun j hj => State.updSession_session_other _ _ _ _ (List.ne_of_not_mem_cons hj).symm, ?_⟩
  rw [exec_endingSweepStep h htarget, State.endingStep_eq, State.takeBack_eq hused]
  rfl

/-- Settles O51: the session leaves ENDING, and at most one of the two long commands waited for it. -/
theorem endingSweepFinalStepEndsTheSession : Obligations.EndingSweepFinalStepEndsTheSession := by
  intro s i h hlist x l ln told hcause
  have hexec := exec_endingSweepFinalStep h hlist
  have htold : (swept s (sweepEnding i)).endsWithNotice i = true ↔ told :=
    State.endsWithNotice_iff (s := swept s (sweepEnding i)) hcause
  have hwrites := (swept s (sweepEnding i)).leaveEnding_writes i
  have hsession := (swept s (sweepEnding i)).leaveEnding_session i
  have hclosed := State.leaveEnding_line_of_closed (s := swept s (sweepEnding i)) (i := i)
  have hother := State.leaveEnding_line_of_other (s := swept s (sweepEnding i)) (i := i)
  have hsessions (j) (hj : i ≠ j) :=
    State.leaveEnding_session_other (s := swept s (sweepEnding i)) hj
  have hlines (m) (hm : lineOf i ≠ m) := State.leaveEnding_line_other (s := swept s (sweepEnding i)) hm
  unfold State.endingFinal at hexec
  generalize (swept s (sweepEnding i)).leaveEnding i = w at *
  have hlong : w.longCommand = s.longCommand := by rw [hwrites]; rfl
  have hend : (w.session i).endCause = x.endCause := by rw [hsession]; rfl
  have hincarnation : (w.session i).incarnation = x.incarnation := by rw [hsession]; rfl
  have hrestart : (w.line l).restartEnd = ln.restartEnd := by
    by_cases hc : x.endCause = .closed
    · rw [hclosed hc]; rfl
    · rw [hother hc]; rfl
  refine ⟨w, _, hexec, hwrites, ?_, fun j hj => hsessions j (List.ne_of_not_mem_cons hj).symm,
    fun m hm => hlines m (List.ne_of_not_mem_cons hm).symm, fun hc => ⟨?_, hclosed hc⟩,
    fun ht => ?_, fun hc ht => ?_, fun hc hw => ?_, fun hw hi => ?_, fun he hr => ?_⟩
  · rw [hsession]; rfl
  · rw [hsession, State.endsWithNotice_of_closed (s := swept s (sweepEnding i)) hc]; rfl
  · have hc : x.endCause ≠ .closed := by
      obtain ⟨hc | hc | hc, -⟩ := ht <;> rw [hc] <;> decide
    rw [hsession, hother hc, htold.2 ht]
    exact ⟨rfl, rfl⟩
  · rw [hsession, hother hc, if_neg (fun hx => ht (htold.1 hx)), if_neg (fun hx => ht (htold.1 hx))]
    exact ⟨rfl, rfl⟩
  · rw [State.completeEvict_of_waiting (hend.trans hc) (hlong.trans hw), hincarnation,
      State.completeRestart_of_other (fun hx => by
        rw [State.complete_longCommand] at hx; exact nomatch hx.1)]
    exact State.complete_spec _ _ _
  · have hevict : ¬ ((w.session i).endCause = .evicted ∧ w.longCommand = some (.evict i)) := fun hx => by
      rw [hlong, hw] at hx; exact nomatch hx.2
    rw [State.completeEvict_of_other hevict, State.completeRestart_of_idle (hlong.trans hw) hi,
      ← hrestart]
    exact ⟨_, w.restartEnded_line l, State.complete_spec _ _ _⟩
  · rw [State.completeEvict_of_other (by rwa [hend, hlong]),
      State.completeRestart_of_other (by rwa [hlong])]
end

section
/-!
The restart of a line (R86, R93, R95, R119, R155 steps 4 and 5, R156): what the emptying of its notice list does to the
claims and sessions of the items, and what the restart does to the sessions of the line.
-/

-- One theorem at a time: side by side they would need more memory than the check gives.
set_option Elab.async false

namespace Sys2Proof.Machine

variable {s t u v : State} {i : SlotIx} {c : ClaimIx} {l : LineIx} {items : List NoticeItem}

/-! ### The parts that a restart writes -/

/-- From `s` to `t` no lock, namespace, counter or cause changes, and the host's side is as before. -/
def RestartWrites (s t : State) : Prop :=
  t = { s with claims := t.claims, freeList := t.freeList, freeClaimCount := t.freeClaimCount,
               sessions := t.sessions, deadlines := t.deadlines, lines := t.lines }

namespace RestartWrites

theorem refl (s : State) : RestartWrites s s := rfl

theorem trans (h : RestartWrites s t) (g : RestartWrites t u) : RestartWrites s u := by
  have h1 : t = _ := h
  have g1 : u = _ := g
  show u = _
  rw [g1, h1]

theorem foldl {α : Type} {f : State → α → State} (hf : ∀ s a, RestartWrites s (f s a)) (as : List α)
    (s : State) : RestartWrites s (as.foldl f s) := by
  induction as generalizing s with
  | nil => exact refl s
  | cons a as ih => exact (hf s a).trans (ih _)

/-- A DETACHED claim stands on no lock, so its freeing changes none. -/
theorem freeClaim_of_detached (h : (s.claim c).state = .detached) : RestartWrites s (s.freeClaim c) := by
  have hentries : (s.freeClaim c).entries = s.entries := State.entries_ext fun e => by
    rw [State.freeClaim_entry, h, entryWithout, ite_self]
  unfold RestartWrites
  rw [State.freeClaim_writes, hentries]

theorem discardItem (s : State) (it : NoticeItem) : RestartWrites s (s.discardItem it) := by
  cases it with
  | claim c =>
    simp only [State.discardItem]
    split
    · exact .trans (t := s.updClaim c (fun x => { x with notice := none })) rfl
        (freeClaim_of_detached ‹_›)
    · rfl
  | sessionEnded i => simp only [State.discardItem]; split <;> rfl

theorem emptyNotices (s : State) (l : LineIx) : RestartWrites s (s.emptyNotices l) :=
  .trans (t := s.updLine l (fun ln => { ln with notices := [] })) rfl (foldl discardItem _ _)

theorem restartSession (s : State) (cause : EndCause) (suppress : Bool) (i : SlotIx) :
    RestartWrites s (s.restartSession cause suppress i) := by
  unfold State.restartSession
  split <;> rfl

theorem restartSessions (s : State) (l : LineIx) (cause : EndCause) (suppress : Bool) :
    RestartWrites s (s.restartSessions l cause suppress) :=
  foldl (fun s i => restartSession s cause suppress i) _ _

end RestartWrites

theorem State.emptyNotices_line (s : State) (l m : LineIx) : (s.emptyNotices l).line m =
    if l = m then { s.line l with notices := [] } else s.line m := by
  have hfold : ∀ (items : List NoticeItem) (v : State),
      (items.foldl (fun acc it => acc.discardItem it) v).lines = v.lines := fun items => by
    induction items with
    | nil => exact fun _ => rfl
    | cons it items ih => exact fun v => (ih _).trans (State.discardItem_lines v it)
  rw [← State.updLine_line s l (fun ln => { ln with notices := [] })]
  exact State.line_congr (hfold _ _) m

theorem State.restartSession_lines (s : State) (cause : EndCause) (suppress : Bool) (i : SlotIx) :
    (s.restartSession cause suppress i).lines = s.lines := by
  unfold State.restartSession
  split <;> rfl

theorem State.restartSessions_lines (s : State) (l : LineIx) (cause : EndCause) (suppress : Bool) :
    (s.restartSessions l cause suppress).lines = s.lines := by
  unfold State.restartSessions
  generalize slotsOf l = slots
  induction slots generalizing s with
  | nil => rfl
  | cons i slots ih => exact (ih _).trans (s.restartSession_lines cause suppress i)

/-! ### The items that are let go (R155 step 4) -/

/-- The DETACHED claim of an item, if it is one's. -/
def detachedOf (s : State) (it : NoticeItem) : Option ClaimIx :=
  match it with
  | .claim c => if (s.claim c).state = .detached then some c else none
  | .sessionEnded _ => none

/-- The DETACHED claims of a list of items. -/
def detachedAmong (s : State) (items : List NoticeItem) : List ClaimIx := items.filterMap (detachedOf s)

theorem detachedOn_eq (s : State) (l : LineIx) :
    detachedOn s l = detachedAmong s (s.line l).notices := rfl

theorem mem_detachedAmong :
    c ∈ detachedAmong s items ↔ .claim c ∈ items ∧ (s.claim c).state = .detached := by
  unfold detachedAmong
  rw [List.mem_filterMap]
  constructor
  · rintro ⟨it, hit, hd⟩
    cases it with
    | claim d =>
      simp only [detachedOf, Option.ite_none_right_eq_some, Option.some.injEq] at hd
      obtain ⟨hd, rfl⟩ := hd
      exact ⟨hit, hd⟩
    | sessionEnded j => cases hd
  · exact fun ⟨hit, hd⟩ => ⟨_, hit, if_pos hd⟩

theorem detachedAmong_snoc (s : State) (items : List NoticeItem) (it : NoticeItem) :
    detachedAmong s (items ++ [it]) = detachedAmong s items ++ (detachedOf s it).toList := by
  unfold detachedAmong
  rw [List.filterMap_append]
  cases h : detachedOf s it <;> simp [h]

/-- The claim list of a session without its claims among those freed. -/
def claimListWithout (s : State) (gone : List ClaimIx) (j : SlotIx) : List ClaimIx :=
  (s.session j).claimList.filter (fun c => !(gone.contains c && (s.claim c).session == j))

/-- The deadlines without the waits of the claims freed. -/
def deadlinesWithout (gone : List ClaimIx) (ds : List Deadline) : List Deadline :=
  ds.filter (fun d => match d.ref with
    | .lease _ => true
    | .wait c _ => !gone.contains c)

theorem claimListWithout_congr {gone gone' : List ClaimIx} (h : ∀ c, c ∈ gone ↔ c ∈ gone') (s : State)
    (j : SlotIx) : claimListWithout s gone j = claimListWithout s gone' j :=
  List.filter_congr fun c _ => by rw [Bool.eq_iff_iff]; simp [h]

theorem deadlinesWithout_congr {gone gone' : List ClaimIx} (h : ∀ c, c ∈ gone ↔ c ∈ gone')
    (ds : List Deadline) : deadlinesWithout gone ds = deadlinesWithout gone' ds := by
  refine List.filter_congr fun d _ => ?_
  cases d.ref with
  | lease j => rfl
  | wait c n => rw [Bool.eq_iff_iff]; simp [h]

theorem claimListWithout_snoc (s : State) (gone : List ClaimIx) (c : ClaimIx) (j : SlotIx) :
    claimListWithout s (gone ++ [c]) j = if (s.claim c).session = j then
      (claimListWithout s gone j).filter (fun d => d != c) else claimListWithout s gone j := by
  unfold claimListWithout
  split
  · rename_i hj
    rw [List.filter_filter]
    refine List.filter_congr fun d _ => ?_
    by_cases hd : d = c <;> simp [hd, hj]
  · rename_i hj
    refine List.filter_congr fun d _ => ?_
    by_cases hd : d = c <;> simp [hd, hj]

theorem deadlinesWithout_snoc (gone : List ClaimIx) (c : ClaimIx) (ds : List Deadline) :
    deadlinesWithout (gone ++ [c]) ds =
      (deadlinesWithout gone ds).filter (fun d => !refersToWait c d.ref) := by
  unfold deadlinesWithout
  rw [List.filter_filter]
  refine List.filter_congr fun d _ => ?_
  cases d.ref with
  | lease j => rfl
  | wait x n => rw [Bool.eq_iff_iff]; simp [and_comm]

/-- From `s` to `v` the items of a list have been let go, in every claim, session, deadline and free record. -/
structure ItemsDiscarded (s v : State) (items : List NoticeItem) : Prop where
  claim : ∀ c, v.claim c =
    if c ∈ detachedAmong s items then { Claim.reset with useCount := (s.claim c).useCount }
    else if .claim c ∈ items then { s.claim c with notice := none }
    else s.claim c
  session : ∀ j, v.session j = { s.session j with
    state := if (s.session j).state = .ended ∧ .sessionEnded j ∈ items then .idle
      else (s.session j).state,
    claimList := claimListWithout s (detachedAmong s items) j }
  deadlines : v.deadlines = deadlinesWithout (detachedAmong s items) s.deadlines
  free : items.Nodup → v.freeList = s.freeList ++ detachedAmong s items ∧
    v.freeClaimCount = s.freeClaimCount + (detachedAmong s items).length

/-- The notice of a claim is let go. -/
def State.forgetNotice (s : State) (c : ClaimIx) : State := s.updClaim c (fun x => { x with notice := none })

theorem State.forgetNotice_claim (s : State) (c d : ClaimIx) : (s.forgetNotice c).claim d =
    if c = d then { s.claim c with notice := none } else s.claim d := State.updClaim_claim s c _ d

theorem State.discardItem_claim (s : State) (c : ClaimIx) : s.discardItem (.claim c) =
    if (s.claim c).state = .detached then (s.forgetNotice c).freeClaim c else s.forgetNotice c := by
  have hstate : ((s.forgetNotice c).claim c).state = (s.claim c).state := by
    rw [State.forgetNotice_claim, if_pos rfl]
  rw [← hstate]
  rfl

namespace ItemsDiscarded

theorem nil (s : State) : ItemsDiscarded s s [] where
  claim c := rfl
  session j := by simp [claimListWithout, detachedAmong]
  deadlines := by
    unfold deadlinesWithout
    refine (List.filter_eq_self.2 fun d _ => ?_).symm
    cases d.ref <;> rfl
  free _ := by simp [detachedAmong]

/-- A claim whose item is let go was freed before, or is as it was up to its notice. -/
theorem claim_state (h : ItemsDiscarded s v items) (hc : c ∉ detachedAmong s items) :
    (v.claim c).state = (s.claim c).state ∧ (v.claim c).session = (s.claim c).session ∧
    (v.claim c).useCount = (s.claim c).useCount := by
  rw [h.claim, if_neg hc]
  split <;> exact ⟨rfl, rfl, rfl⟩

/-- The item of a claim that is freed already, or that is not DETACHED. -/
theorem snoc_kept (h : ItemsDiscarded s v items)
    (hc : (s.claim c).state = .detached → c ∈ detachedAmong s items) :
    ItemsDiscarded s (v.forgetNotice c) (items ++ [.claim c]) := by
  have hgone : ∀ d, d ∈ detachedAmong s (items ++ [.claim c]) ↔ d ∈ detachedAmong s items := fun d => by
    simp only [mem_detachedAmong, List.mem_append, List.mem_singleton, NoticeItem.claim.injEq] at hc ⊢
    refine ⟨fun ⟨hd, hst⟩ => ⟨hd.elim id ?_, hst⟩, fun ⟨hd, hst⟩ => ⟨.inl hd, hst⟩⟩
    rintro rfl
    exact (hc hst).1
  refine ⟨fun d => ?_, fun j => ?_, ?_, fun hn => ?_⟩
  · rw [State.forgetNotice_claim, if_congr (hgone d) rfl rfl]
    by_cases hcd : c = d
    · subst hcd
      rw [if_pos rfl, h.claim]
      by_cases hin : c ∈ detachedAmong s items
      · rw [if_pos hin, if_pos hin]; rfl
      · rw [if_neg hin, if_neg hin, if_pos (List.mem_append_right _ (List.mem_singleton_self _))]
        split <;> rfl
    · have hmem : NoticeItem.claim d ∈ items ++ [.claim c] ↔ .claim d ∈ items := by
        simp [Ne.symm hcd]
      rw [if_neg hcd, if_congr hmem rfl rfl, h.claim]
  · have hmem : NoticeItem.sessionEnded j ∈ items ++ [.claim c] ↔ .sessionEnded j ∈ items := by simp
    rw [claimListWithout_congr hgone, if_congr (and_congr_right fun _ => hmem) rfl rfl, ← h.session]
    rfl
  · exact h.deadlines.trans (deadlinesWithout_congr (fun d => (hgone d).symm) _)
  · have hnew : NoticeItem.claim c ∉ items := fun hm => by
      simpa using (List.nodup_append.1 hn).2.2 _ hm _ (List.mem_singleton_self _)
    have hkept : detachedOf s (.claim c) = none :=
      if_neg fun hst => hnew (mem_detachedAmong.1 (hc hst)).1
    rw [detachedAmong_snoc, hkept, Option.toList_none, List.append_nil]
    exact h.free (List.nodup_append.1 hn).1

/-- The item of a DETACHED claim that is not freed yet. -/
theorem snoc_freed (h : ItemsDiscarded s v items) (hc : (s.claim c).state = .detached)
    (hnew : c ∉ detachedAmong s items) :
    ItemsDiscarded s ((v.forgetNotice c).freeClaim c) (items ++ [.claim c]) := by
  have hgone : detachedAmong s (items ++ [.claim c]) = detachedAmong s items ++ [c] := by
    rw [detachedAmong_snoc, detachedOf, if_pos hc]
    rfl
  obtain ⟨hstate, hsession, hcount⟩ := h.claim_state hnew
  refine ⟨fun d => ?_, fun j => ?_, ?_, fun hn => ?_⟩
  · rw [State.freeClaim_claim, State.forgetNotice_claim, State.forgetNotice_claim, hgone]
    by_cases hcd : c = d
    · subst hcd
      rw [if_pos rfl, if_pos rfl, if_pos (List.mem_append_right _ (List.mem_singleton_self _)), hcount]
    · have hmem : d ∈ detachedAmong s items ++ [c] ↔ d ∈ detachedAmong s items := by
        simp [Ne.symm hcd]
      have hitem : NoticeItem.claim d ∈ items ++ [.claim c] ↔ .claim d ∈ items := by
        simp [Ne.symm hcd]
      rw [if_neg hcd, if_neg hcd, if_congr hmem rfl rfl, if_congr hitem rfl rfl, h.claim]
  · have hmem : NoticeItem.sessionEnded j ∈ items ++ [.claim c] ↔ .sessionEnded j ∈ items := by simp
    have hread : (v.forgetNotice c).session j = v.session j := rfl
    rw [State.freeClaim_session, State.forgetNotice_claim, if_pos rfl, hsession, hstate, hc, hread,
      h.session, hgone, claimListWithout_snoc, if_congr (and_congr_right fun _ => hmem) rfl rfl]
    split <;> rfl
  · rw [hgone, deadlinesWithout_snoc, ← h.deadlines, State.freeClaim_writes]
    rfl
  · obtain ⟨hlist, hlen⟩ := h.free (List.nodup_append.1 hn).1
    rw [hgone, List.length_append, ← List.append_assoc, ← hlist, ← Nat.add_assoc, ← hlen,
      State.freeClaim_writes]
    exact ⟨rfl, rfl⟩

/-- The item of a session. -/
theorem snoc_session (h : ItemsDiscarded s v items) (i : SlotIx) :
    ItemsDiscarded s (v.discardItem (.sessionEnded i)) (items ++ [.sessionEnded i]) := by
  have hgone : detachedAmong s (items ++ [.sessionEnded i]) = detachedAmong s items := by
    rw [detachedAmong_snoc]
    exact List.append_nil _
  have hkeeps : (v.discardItem (.sessionEnded i)).claims = v.claims ∧
      (v.discardItem (.sessionEnded i)).deadlines = v.deadlines ∧
      (v.discardItem (.sessionEnded i)).freeList = v.freeList ∧
      (v.discardItem (.sessionEnded i)).freeClaimCount = v.freeClaimCount := by
    simp only [State.discardItem]
    split <;> exact ⟨rfl, rfl, rfl, rfl⟩
  have hsession : ∀ j, (v.discardItem (.sessionEnded i)).session j =
      if i = j ∧ (v.session j).state = .ended then { v.session j with state := .idle }
      else v.session j := fun j => by
    simp only [State.discardItem]
    by_cases hij : i = j
    · subst hij
      split
      · rw [if_pos ⟨rfl, ‹_›⟩]; exact State.updSession_session_same _ _ _
      · rw [if_neg (fun hx => absurd hx.2 ‹_›)]
    · rw [if_neg (show ¬ (i = j ∧ (v.session j).state = .ended) from fun hx => hij hx.1)]
      split
      · exact State.updSession_session_other _ _ _ _ hij
      · rfl
  obtain ⟨hclaims, hdeadlines, hlist, hcount⟩ := hkeeps
  refine ⟨fun d => ?_, fun j => ?_, ?_, fun hn => ?_⟩
  · have hmem : NoticeItem.claim d ∈ items ++ [.sessionEnded i] ↔ .claim d ∈ items := by simp
    rw [State.claim_congr hclaims, hgone, if_congr hmem rfl rfl, h.claim]
  · rw [hsession, h.session, hgone]
    by_cases hij : i = j
    · subst hij
      have hmem : NoticeItem.sessionEnded i ∈ items ++ [.sessionEnded i] := by simp
      by_cases hst : (s.session i).state = .ended <;> by_cases hin : .sessionEnded i ∈ items <;>
        simp [hst, hin]
    · have hmem : NoticeItem.sessionEnded j ∈ items ++ [.sessionEnded i] ↔
          .sessionEnded j ∈ items := by simp [Ne.symm hij]
      rw [if_neg (fun hx => hij hx.1), if_congr (and_congr_right fun _ => hmem) rfl rfl]
  · rw [hdeadlines, hgone, h.deadlines]
  · rw [hlist, hcount, hgone]
    exact h.free (List.nodup_append.1 hn).1

theorem snoc (h : ItemsDiscarded s v items) (it : NoticeItem) :
    ItemsDiscarded s (v.discardItem it) (items ++ [it]) := by
  cases it with
  | sessionEnded i => exact h.snoc_session i
  | claim c =>
    rw [State.discardItem_claim]
    by_cases hin : c ∈ detachedAmong s items
    · have hfree : (v.claim c).state = .free := by rw [h.claim, if_pos hin]; rfl
      rw [hfree, if_neg (by decide)]
      exact h.snoc_kept fun _ => hin
    · rw [(h.claim_state hin).1]
      split
      · exact h.snoc_freed ‹_› hin
      · exact h.snoc_kept fun hd => absurd hd ‹_›

theorem foldl (s : State) (items : List NoticeItem) :
    ItemsDiscarded s (items.foldl (fun acc it => acc.discardItem it) s) items := by
  induction items using List.reverseRecOn with
  | nil => exact nil s
  | append_singleton items it ih =>
    rw [List.foldl_append]
    exact ih.snoc it

/-- A line's list is emptied: its items are let go. -/
theorem emptyNotices (s : State) (l : LineIx) :
    ItemsDiscarded s (s.emptyNotices l) (s.line l).notices :=
  let h := foldl (s.updLine l (fun ln => { ln with notices := [] })) (s.line l).notices
  ⟨h.claim, h.session, h.deadlines, h.free⟩

theorem session_of_not_ended (h : ItemsDiscarded s v items) {j : SlotIx}
    (hj : (s.session j).state ≠ .ended) : v.session j =
      { s.session j with claimList := claimListWithout s (detachedAmong s items) j } := by
  rw [h.session, if_neg (fun hx => hj hx.1)]

theorem session_of_ended (h : ItemsDiscarded s v items) {j : SlotIx}
    (hj : (s.session j).state = .ended) : v.session j = { s.session j with
      state := if .sessionEnded j ∈ items then .idle else .ended,
      claimList := claimListWithout s (detachedAmong s items) j } := by
  rw [h.session, hj]
  simp only [true_and]

/-- No session is opened or leaves OPEN by the letting go of items. -/
theorem opened_iff (h : ItemsDiscarded s v items) (j : SlotIx) :
    (v.session j).state = .opened ↔ (s.session j).state = .opened := by
  by_cases hj : (s.session j).state = .ended
  · rw [h.session_of_ended hj, hj]
    dsimp only
    split <;> decide
  · rw [h.session_of_not_ended hj]

end ItemsDiscarded

/-! ### The sessions that are restarted (R86, R93, R95) -/

/-- A session record after the restart of its line. -/
def restartedSession (cause : EndCause) (suppress : Bool) (x : Session) : Session :=
  match x.state with
  | .opened => { x with
      state := .ending, endCause := cause, leaseDeadline := none, cache := { x.cache with valid := false },
      endingSweep := .starting, noticeSuppressed := suppress || x.noticeSuppressed }
  | .ending => { x with noticeSuppressed := true, closeReply := false }
  | .idle => x
  | .ended => x

theorem restartedSession_of_closed {x : Session} (h : x.state = .idle ∨ x.state = .ended)
    (cause : EndCause) (suppress : Bool) : restartedSession cause suppress x = x := by
  unfold restartedSession
  obtain h | h := h <;> rw [h]

section
variable (s : State) (cause : EndCause) (suppress : Bool)

theorem State.restartSession_session (i j : SlotIx) : (s.restartSession cause suppress i).session j =
    if i = j then restartedSession cause suppress (s.session j) else s.session j := by
  unfold State.restartSession restartedSession
  by_cases hij : i = j
  · subst hij
    rw [if_pos rfl]
    cases hst : (s.session i).state with
    | opened =>
      dsimp only
      rw [State.updSession_session_same, State.enterEnding_session, if_pos rfl]
    | ending =>
      dsimp only
      rw [State.updSession_session_same, hst]
    | idle => rfl
    | ended => rfl
  · rw [if_neg hij]
    cases hst : (s.session i).state with
    | opened =>
      dsimp only
      rw [State.updSession_session_other _ _ _ _ hij, State.enterEnding_session, if_neg hij]
    | ending => exact State.updSession_session_other _ _ _ _ hij
    | idle => rfl
    | ended => rfl

theorem State.restartSession_deadlines (i : SlotIx) : (s.restartSession cause suppress i).deadlines =
    s.deadlines.filter (fun d => !((s.session i).state == .opened && refersToLease i d.ref)) := by
  unfold State.restartSession
  cases hst : (s.session i).state with
  | opened => rfl
  | ending => exact (List.filter_eq_self.2 fun _ _ => rfl).symm
  | idle => exact (List.filter_eq_self.2 fun _ _ => rfl).symm
  | ended => exact (List.filter_eq_self.2 fun _ _ => rfl).symm

theorem State.restartSession_rest (i : SlotIx) :
    (s.restartSession cause suppress i).claims = s.claims ∧
    (s.restartSession cause suppress i).freeList = s.freeList ∧
    (s.restartSession cause suppress i).freeClaimCount = s.freeClaimCount := by
  unfold State.restartSession
  split <;> exact ⟨rfl, rfl, rfl⟩

end

/-- From `s` to `v` the sessions of some slots are restarted. -/
structure SessionsRestarted (s v : State) (slots : List SlotIx) (cause : EndCause) (suppress : Bool) :
    Prop where
  claims : v.claims = s.claims
  freeList : v.freeList = s.freeList
  freeClaimCount : v.freeClaimCount = s.freeClaimCount
  session : ∀ j, v.session j = if j ∈ slots then restartedSession cause suppress (s.session j)
    else s.session j
  deadlines : v.deadlines = s.deadlines.filter (fun d => match d.ref with
    | .lease j => !(slots.contains j && (s.session j).state == .opened)
    | .wait _ _ => true)

namespace SessionsRestarted

variable {slots : List SlotIx} {cause : EndCause} {suppress : Bool}

theorem nil (s : State) (cause : EndCause) (suppress : Bool) : SessionsRestarted s s [] cause suppress :=
  ⟨rfl, rfl, rfl, fun _ => rfl, (List.filter_eq_self.2 fun d _ => by cases d.ref <;> rfl).symm⟩

/-- One session is restarted before others. -/
theorem cons (hi : i ∉ slots)
    (h : SessionsRestarted (s.restartSession cause suppress i) v slots cause suppress) :
    SessionsRestarted s v (i :: slots) cause suppress := by
  have hsession := s.restartSession_session cause suppress i
  obtain ⟨hclaims, hlist, hcount⟩ := s.restartSession_rest cause suppress i
  refine ⟨h.claims.trans hclaims, h.freeList.trans hlist, h.freeClaimCount.trans hcount, fun j => ?_, ?_⟩
  · rw [h.session, hsession]
    by_cases hij : i = j
    · subst hij
      rw [if_neg hi, if_pos rfl, if_pos List.mem_cons_self]
    · have hmem : j ∈ i :: slots ↔ j ∈ slots := by simp [Ne.symm hij]
      rw [if_neg hij, if_congr hmem rfl rfl]
  · rw [h.deadlines, s.restartSession_deadlines, List.filter_filter]
    refine List.filter_congr fun d _ => ?_
    cases d.ref with
    | wait c n => simp
    | lease j =>
      by_cases hij : i = j
      · subst hij; simp [hi]
      · simp [hsession, hij, Ne.symm hij]

theorem foldl (hn : slots.Nodup) (s : State) (cause : EndCause) (suppress : Bool) :
    SessionsRestarted s (slots.foldl (fun acc i => acc.restartSession cause suppress i) s) slots cause
      suppress := by
  induction slots generalizing s with
  | nil => exact nil s cause suppress
  | cons i slots ih =>
    obtain ⟨hi, hslots⟩ := List.nodup_cons.1 hn
    exact cons hi (ih hslots _)

end SessionsRestarted

theorem slotsOf_nodup (l : LineIx) : (slotsOf l).Nodup := by
  have hindices : (indicesFrom 16 16 0).Nodup := by decide
  refine hindices.map fun a b hab => ?_
  rw [← stationOf_slotOf l a, hab, stationOf_slotOf]

theorem SessionsRestarted.restartSessions (s : State) (l : LineIx) (cause : EndCause) (suppress : Bool) :
    SessionsRestarted s (s.restartSessions l cause suppress) (slotsOf l) cause suppress :=
  .foldl (slotsOf_nodup l) s cause suppress

/-! ### Both together -/

/-- Under the laws, with the items of a line its own sessions', no claim list of another line's session and none
of an IDLE one loses a claim. -/
theorem claimListWithout_of_other {j : SlotIx} (h : LockTableLaws s)
    (hown : ∀ c, .claim c ∈ (s.line l).notices → lineOf (s.claim c).session = l)
    (hj : lineOf j ≠ l ∨ (s.session j).state = .idle) :
    claimListWithout s (detachedAmong s (s.line l).notices) j = (s.session j).claimList := by
  refine List.filter_eq_self.2 fun c hc => ?_
  obtain hj | hj := hj
  · have hnot : c ∈ detachedAmong s (s.line l).notices → (s.claim c).session ≠ j :=
      fun hgone hsession => hj (hsession ▸ hown c (mem_detachedAmong.1 hgone).1)
    by_cases hgone : c ∈ detachedAmong s (s.line l).notices
    · simp [hnot hgone]
    · simp [hgone]
  · rw [h.noClaims j (.inl hj)] at hc
    exact absurd hc List.not_mem_nil

section
variable {cause : EndCause} {suppress : Bool} {j : SlotIx}

theorem SessionsRestarted.session_of_ended (hd : ItemsDiscarded s u items)
    (hr : SessionsRestarted u v (slotsOf l) cause suppress) (hj : (s.session j).state = .ended) :
    v.session j = { s.session j with
      state := if .sessionEnded j ∈ items then .idle else .ended,
      claimList := claimListWithout s (detachedAmong s items) j } := by
  have hu := hd.session_of_ended hj
  have hclosed : (u.session j).state = .idle ∨ (u.session j).state = .ended := by
    rw [hu]
    dsimp only
    split
    · exact .inl rfl
    · exact .inr rfl
  rw [hr.session, restartedSession_of_closed hclosed, ite_self, hu]

theorem SessionsRestarted.session_of_idle (hd : ItemsDiscarded s u items)
    (hr : SessionsRestarted u v (slotsOf l) cause suppress) (hj : (s.session j).state = .idle) :
    v.session j = { s.session j with claimList := claimListWithout s (detachedAmong s items) j } := by
  have hu := hd.session_of_not_ended (j := j) (by rw [hj]; decide)
  rw [hr.session, restartedSession_of_closed (.inl (by rw [hu]; exact hj)), ite_self, hu]

theorem SessionsRestarted.session_of_other_line (hd : ItemsDiscarded s u items)
    (hr : SessionsRestarted u v (slotsOf l) cause suppress) (hl : lineOf j ≠ l)
    (hj : (s.session j).state ≠ .ended) :
    v.session j = { s.session j with claimList := claimListWithout s (detachedAmong s items) j } := by
  rw [hr.session, if_neg (fun hx => hl (mem_slotsOf.1 hx)), hd.session_of_not_ended hj]

/-- The items of a line are let go, and then its sessions restarted. -/
theorem LineRestarted.of_steps (hd : ItemsDiscarded s u (s.line l).notices)
    (hr : SessionsRestarted u v (slotsOf l) cause suppress) : LineRestarted s v l cause suppress := by
  unfold LineRestarted
  rw [detachedOn_eq]
  refine ⟨fun c => ?_, fun j => ⟨fun hl hj => ?_, fun hl hj => ?_, hr.session_of_ended hd,
    hr.session_of_idle hd, hr.session_of_other_line hd⟩, ?_, fun hn => ?_, fun h hown j hj => ?_⟩
  · rw [State.claim_congr hr.claims, hd.claim]
  · rw [hr.session, if_pos (mem_slotsOf.2 hl), hd.session_of_not_ended (by rw [hj]; decide),
      restartedSession]
    dsimp only
    rw [hj]
    rfl
  · rw [hr.session, if_pos (mem_slotsOf.2 hl), hd.session_of_not_ended (by rw [hj]; decide),
      restartedSession]
    dsimp only
    rw [hj]
    rfl
  · rw [hr.deadlines, hd.deadlines, deadlinesWithout, List.filter_filter]
    refine List.filter_congr fun d _ => ?_
    cases d.ref with
    | lease j =>
      rw [Bool.eq_iff_iff]
      simp [mem_slotsOf, hd.opened_iff]
    | wait c n => rfl
  · rw [hr.freeList, hr.freeClaimCount]
    exact hd.free hn
  · have hlist := claimListWithout_of_other h hown hj
    by_cases hend : (s.session j).state = .ended
    · have hl : lineOf j ≠ l := hj.resolve_right (by rw [hend]; decide)
      have hitem : .sessionEnded j ∉ (s.line l).notices := fun hm =>
        hl ((h.endedItem l j).2 hm).1.symm
      rw [hr.session_of_ended hd hend, hlist, if_neg hitem, ← hend]
    · obtain hl | hj := hj
      · rw [hr.session_of_other_line hd hl hend, hlist]
      · rw [hr.session_of_idle hd hj, hlist]

end

/-! ### LINE RESTART and LINE DISABLE (R155, R158) -/

/-- The line is RESTARTING until its sessions are IDLE, and the command waits for them (R155 step 6, R157). -/
def State.awaitSessions (s : State) (l : LineIx) (fin : RestartEnd) : State :=
  { s.updLine l (fun ln => { ln with state := .restarting, restartEnd := fin }) with
    longCommand := some (.restartLine l) }

theorem State.awaitSessions_line (s : State) (l : LineIx) (fin : RestartEnd) (m : LineIx) :
    (s.awaitSessions l fin).line m =
      if l = m then { s.line l with state := .restarting, restartEnd := fin } else s.line m :=
  State.updLine_line s l (fun ln => { ln with state := .restarting, restartEnd := fin }) m

/-- A Line Unit is stopped, its items are let go, and its sessions are restarted (R155 steps 1 to 5). -/
def State.lineEmptied (s : State) (l : LineIx) : State :=
  ((s.updLine l Line.stopped).emptyNotices l).restartSessions l .lineRestart true

theorem State.lineEmptied_line (s : State) (l m : LineIx) : (s.lineEmptied l).line m =
    if l = m then { (s.line l).stopped with notices := [] } else s.line m := by
  have hlines : (s.lineEmptied l).lines = ((s.updLine l Line.stopped).emptyNotices l).lines :=
    State.restartSessions_lines _ l _ _
  rw [State.line_congr hlines, State.emptyNotices_line, State.updLine_line_same]
  split
  · rfl
  · exact State.updLine_line_other _ _ _ _ ‹_›

theorem RestartWrites.lineEmptied (s : State) (l : LineIx) : RestartWrites s (s.lineEmptied l) :=
  (RestartWrites.trans (t := s.updLine l Line.stopped) rfl (.emptyNotices _ l)).trans
    (.restartSessions _ l _ _)

theorem LineRestarted.lineEmptied (s : State) (l : LineIx) :
    LineRestarted s ((taken s).lineEmptied l) l .lineRestart true := by
  have hd := ItemsDiscarded.emptyNotices ((taken s).updLine l Line.stopped) l
  rw [State.updLine_line_same] at hd
  exact .of_steps ⟨hd.claim, hd.session, hd.deadlines, hd.free⟩ (.restartSessions _ l _ _)

/-- The state in which a restart begun for `fin` waits for the sessions of its line. -/
def State.restartBegun (s : State) (l : LineIx) (fin : RestartEnd) : State :=
  (s.lineEmptied l).awaitSessions l fin

theorem State.beginRestart_eq (s : State) (l : LineIx) (fin : RestartEnd) :
    s.beginRestart l fin = (s.restartBegun l fin).completeRestart l := rfl

theorem State.restartBegun_line (s : State) (l : LineIx) (fin : RestartEnd) (m : LineIx) :
    (s.restartBegun l fin).line m = if l = m then
      { s.line l with state := .restarting, restartEnd := fin, transmitting := none, requests := [],
                      assembler := .hunt, replies := [], notices := [] } else s.line m := by
  unfold State.restartBegun
  rw [State.awaitSessions_line, State.lineEmptied_line, State.lineEmptied_line, if_pos rfl]
  split <;> rfl

theorem State.restartBegun_writes (s : State) (l : LineIx) (fin : RestartEnd) : s.restartBegun l fin =
    { s with
      longCommand := some (.restartLine l), claims := (s.restartBegun l fin).claims,
      freeList := (s.restartBegun l fin).freeList,
      freeClaimCount := (s.restartBegun l fin).freeClaimCount,
      sessions := (s.restartBegun l fin).sessions, deadlines := (s.restartBegun l fin).deadlines,
      lines := (s.restartBegun l fin).lines } := by
  have hemptied := RestartWrites.lineEmptied s l
  unfold State.restartBegun
  generalize s.lineEmptied l = u at hemptied
  have hu : u = _ := hemptied
  rw [hu]
  rfl

theorem LineRestarted.restartBegun (s : State) (l : LineIx) (fin : RestartEnd) :
    LineRestarted s ((taken s).restartBegun l fin) l .lineRestart true := by
  have hemptied := LineRestarted.lineEmptied s l
  unfold State.restartBegun
  generalize (taken s).lineEmptied l = u at hemptied
  exact hemptied

theorem State.lineCommand_of_some {run : State → LineIx → State} (h : s.paramLine = some l) :
    s.lineCommand run = run s l := by
  unfold State.lineCommand
  rw [h]

theorem State.completeLine_eq {state : LineState} (h : (s.line l).state = state) (code : ResultCode) :
    s.completeLine l code = s.complete code [lineStateCode state] := by
  rw [← h]
  rfl

theorem State.restartLine_eq (s : State) (l : LineIx) : s.restartLine l =
    if (s.line l).state = .active then s.beginRestart l .active else s.completeLine l .badState := by
  unfold State.restartLine
  cases (s.line l).state <;> rfl

theorem State.disableLine_eq (s : State) (l : LineIx) : s.disableLine l =
    if (s.line l).state = .active then s.beginRestart l .disabled
    else s.completeLine l (if (s.line l).state = .disabled then .ok else .badState) := by
  unfold State.disableLine
  cases (s.line l).state <;> rfl

/-- LINE RESTART and LINE DISABLE begin a restart of an ACTIVE line, for the state that the line is to end in, and
complete at once on any other. -/
theorem exec_endLine {c : Instr} {fin : RestartEnd} (hp : s.paramLine = some l)
    (h : (CommandOffered s 0x43#8 ∧ c = .lineRestart ∧ fin = .active) ∨
      (CommandOffered s 0x42#8 ∧ c = .lineDisable ∧ fin = .disabled)) :
    exec c s = .next (if (s.line l).state = .active then (taken s).beginRestart l fin
      else (taken s).completeLine l
        (if (s.line l).state = .disabled ∧ fin = .disabled then .ok else .badState)) := by
  obtain ⟨h, rfl, rfl⟩ | ⟨h, rfl, rfl⟩ := h
  · have hcode : (if (s.line l).state = .disabled ∧ RestartEnd.active = .disabled then ResultCode.ok
        else .badState) = .badState := if_neg (fun hx => nomatch hx.2)
    rw [hcode]
    refine congrArg Host.Outcome.next ((commandStep_runs _ h rfl).trans ?_)
    rw [State.lineCommand_of_some (s := taken s) hp, State.restartLine_eq]
    rfl
  · refine congrArg Host.Outcome.next ((commandStep_runs _ h rfl).trans ?_)
    rw [State.lineCommand_of_some (s := taken s) hp, State.disableLine_eq]
    simp only [and_true]
    rfl

end Sys2Proof.Machine

open Sys2Proof Sys2Proof.Machine

/-- Settles O48, by the two steps of the restart and the completion that waits for the line's sessions. -/
theorem linesAreRestartedAndDisabled : Obligations.LinesAreRestartedAndDisabled := by
  intro s l c fin hp h ln
  have hexec := exec_endLine hp h
  refine ⟨fun hst => ?_, fun hst => ?_, fun hst => ?_⟩
  · rw [if_neg (by rw [hst]; decide), if_neg (fun hx => by rw [hst] at hx; exact nomatch hx.1),
      State.completeLine_eq (s := taken s) hst] at hexec
    exact ⟨_, hexec, State.complete_spec _ _ _⟩
  · have hcode : (if (s.line l).state = .disabled ∧ fin = .disabled then ResultCode.ok else .badState) =
        if fin = .active then .badState else .ok := by
      have hst : (s.line l).state = .disabled := hst
      cases fin <;> simp [hst]
    rw [if_neg (by rw [hst]; decide), hcode, State.completeLine_eq (s := taken s) hst] at hexec
    exact ⟨_, hexec, State.complete_spec _ _ _⟩
  · rw [if_pos hst, State.beginRestart_eq] at hexec
    have hline := (taken s).restartBegun_line l fin
    refine ⟨(taken s).restartBegun l fin, _, hexec, (hline l).trans (if_pos rfl), fun m hm => ?_,
      (taken s).restartBegun_writes l fin, .restartBegun s l fin, fun hi => ?_, fun hi => ?_⟩
    · exact (hline m).trans (if_neg (List.ne_of_not_mem_cons hm).symm)
    · have hend : (((taken s).restartBegun l fin).line l).restartEnd = fin := by rw [hline, if_pos rfl]
      have hdone := ((taken s).restartBegun l fin).restartEnded_line l
      rw [hend] at hdone
      rw [State.completeRestart_of_idle rfl hi, hend]
      exact ⟨_, hdone, State.complete_spec _ _ _⟩
    · exact State.completeRestart_of_other fun hx => hi hx.2
end

section
/-!
DEFINE NAMESPACE, CHANGE NAMESPACE and DISABLE NAMESPACE (R98, R103 to R108, R189): the equation of each outcome, and
the descriptor that a command writes.
-/

-- One theorem at a time: side by side they would need more memory than the check gives.
set_option Elab.async false

namespace Sys2Proof.Machine

variable {s v : State} {n : NsIx} {c : Instr}

/-! ### A namespace command and its completion (R103) -/

theorem State.nsCommand_of_none {run : State → NsIx → State} (h : s.paramNs = none) :
    s.nsCommand run = s.complete .badValue [] := by
  unfold State.nsCommand
  rw [h]

theorem State.nsCommand_of_some {run : State → NsIx → State} (h : s.paramNs = some n) :
    s.nsCommand run = run s n := by
  unfold State.nsCommand
  rw [h]

theorem State.updNs_namespaces (s : State) (n : NsIx) (f : Namespace → Namespace) :
    (s.updNs n f).namespaces = s.namespaces.set n (f (s.ns n)) := rfl

/-- Two changes of one descriptor are one change. -/
theorem State.updNs_updNs (s : State) (n : NsIx) (f g : Namespace → Namespace) :
    (s.updNs n f).updNs n g = s.updNs n (g ∘ f) := by
  have hns := State.updNs_ns_same (s := s) n f
  rw [State.updNs, hns, State.updNs_namespaces, Vector.set_set]
  rfl

theorem NamespacesSameBut.updNs (s : State) (n : NsIx) (f : Namespace → Namespace) :
    NamespacesSameBut [n] s (s.updNs n f) :=
  fun m hm => State.updNs_ns_other s n f m (List.ne_of_not_mem_cons hm).symm

/-- The result bytes of a namespace command are the descriptor after the step (R103). -/
theorem State.completeNs_spec (s : State) (n : NsIx) (code : ResultCode) :
    Completed s (s.completeNs n code) code (descriptorBytes (s.ns n)) := by
  rw [← State.nsResult_eq]
  exact State.complete_spec _ _ _

/-- A refused namespace command completes with the descriptor as it was. -/
theorem exec_refusesNs {code : ResultCode} (hexec : exec c s = .next v)
    (hrun : v = (taken s).completeNs n code) :
    ∃ t, exec c s = .next t ∧ Completed (taken s) t code (descriptorBytes (s.ns n)) :=
  ⟨v, hexec, by rw [hrun]; exact (taken s).completeNs_spec n code⟩

/-- A namespace command that writes its descriptor completes with the descriptor written; `w` is the state taken,
with the causes that the command raises. -/
theorem exec_writesNs {w : State} {code : ResultCode} {f : Namespace → Namespace}
    (hexec : exec c s = .next v) (hw : w.namespaces = s.namespaces)
    (hrun : v = (w.updNs n f).completeNs n code) :
    ∃ u t, exec c s = .next t ∧ u = { w with namespaces := u.namespaces } ∧
      u.ns n = f (s.ns n) ∧ NamespacesSameBut [n] s u ∧
      Completed u t code (descriptorBytes (f (s.ns n))) := by
  have hsame : ∀ m, w.ns m = s.ns m := State.ns_congr hw
  have hns : (w.updNs n f).ns n = f (s.ns n) := by rw [State.updNs_ns_same, hsame]
  refine ⟨w.updNs n f, v, hexec, rfl, hns, fun m hm => ?_, ?_⟩
  · rw [NamespacesSameBut.updNs w n f m hm, hsame]
  · rw [hrun, ← hns]
    exact State.completeNs_spec _ n code

/-! ### DEFINE NAMESPACE (R103, R104) -/

theorem exec_defineNamespace (h : CommandOffered s 0x10#8) :
    exec .defineNamespace s = .next ((taken s).nsCommand State.defineNs) :=
  congrArg Host.Outcome.next (commandStep_runs _ h rfl)

theorem State.defineNs_of_defined (h : (s.ns n).state ≠ .disabled) :
    s.defineNs n = s.completeNs n .badState := if_pos h

theorem State.defineNs_of_unfit (h : (s.ns n).state = .disabled) (hr : ¬ s.paramRules.inRange = true) :
    s.defineNs n = s.completeNs n .badValue :=
  (if_neg (not_not_intro h)).trans (if_neg hr)

theorem State.defineNs_of_fit (h : (s.ns n).state = .disabled) (hr : s.paramRules.inRange = true) :
    s.defineNs n =
      (s.updNs n (fun x => { x with rules := s.paramRules, state := .enabled })).completeNs n .ok :=
  (if_neg (not_not_intro h)).trans (if_pos hr)

/-! ### CHANGE NAMESPACE (R103, R105) -/

theorem exec_changeNamespace (h : CommandOffered s 0x11#8) :
    exec .changeNamespace s = .next ((taken s).nsCommand State.changeNs) :=
  congrArg Host.Outcome.next (commandStep_runs _ h rfl)

/-- The changes allowed on an empty namespace and on an occupied one, field by field (Table 5.5). -/
theorem changeAllowed_iff {old new : NsRules} {occupied : Nat} :
    changeAllowed old new occupied = true ↔ occupied = 0 ∨
      (old.sharerLimit ≤ new.sharerLimit ∧ old.queueLimit ≤ new.queueLimit ∧
        new.exclusiveLimit = old.exclusiveLimit ∧ new.sharedLimit = old.sharedLimit ∧
        new.queryLimit = old.queryLimit ∧ (old.quota ≤ new.quota ∨ occupied ≤ new.quota)) := by
  simp [changeAllowed, and_assoc]

theorem State.changeNs_of_disabled (h : (s.ns n).state = .disabled) :
    s.changeNs n = s.completeNs n .badState := if_pos h

theorem State.changeNs_of_unfit (h : (s.ns n).state ≠ .disabled) (hr : ¬ s.paramRules.inRange = true) :
    s.changeNs n = s.completeNs n .badValue :=
  (if_neg h).trans (if_neg hr)

theorem State.changeNs_of_barred (h : (s.ns n).state ≠ .disabled) (hr : s.paramRules.inRange = true)
    (ha : ¬ changeAllowed (s.ns n).rules s.paramRules (s.ns n).occupied = true) :
    s.changeNs n = s.completeNs n .inUse :=
  (if_neg h).trans ((if_pos hr).trans (if_neg ha))

theorem State.changeNs_of_allowed (h : (s.ns n).state ≠ .disabled) (hr : s.paramRules.inRange = true)
    (ha : changeAllowed (s.ns n).rules s.paramRules (s.ns n).occupied = true) :
    s.changeNs n = (s.updNs n (fun x => { x with rules := s.paramRules })).completeNs n .ok :=
  (if_neg h).trans ((if_pos hr).trans (if_pos ha))

/-! ### DISABLE NAMESPACE (R103, R107, R108) -/

/-- Each row of DISABLE NAMESPACE runs the command but for the other row's form byte (notes/assumptions/5.md). -/
theorem exec_disableNamespace (h : CommandOffered s 0x12#8)
    (hc : (c = .disableNamespaceDrain ∧ s.param 1 1 ≠ 2) ∨
      (c = .disableNamespaceRevoke ∧ s.param 1 1 ≠ 1)) :
    exec c s = .next ((taken s).nsCommand State.disableNs) := by
  obtain ⟨rfl, hform⟩ | ⟨rfl, hform⟩ := hc
  · exact congrArg Host.Outcome.next (commandStep_runs _ h (bne_iff_ne.2 hform))
  · exact congrArg Host.Outcome.next (commandStep_runs _ h (bne_iff_ne.2 hform))

theorem State.disableNs_of_draining (h : (s.ns n).state = .draining) :
    s.disableNs n = s.completeNs n .inUse := by
  unfold State.disableNs
  rw [h]

theorem State.disableNs_of_disabled (h : (s.ns n).state = .disabled)
    (hf : s.param 1 1 = 1 ∨ s.param 1 1 = 2) : s.disableNs n = s.completeNs n .ok := by
  unfold State.disableNs
  rw [h]
  exact if_pos hf

/-- The state is looked at before the form (R103, R107). -/
theorem State.disableNs_of_neither (h1 : s.param 1 1 ≠ 1) (h2 : s.param 1 1 ≠ 2) : s.disableNs n =
    s.completeNs n (if (s.ns n).state = .draining then .inUse else .badValue) := by
  unfold State.disableNs
  cases (s.ns n).state with
  | draining => rfl
  | disabled => exact if_neg (not_or.2 ⟨h1, h2⟩)
  | enabled => exact (if_neg h1).trans (if_neg h2)

theorem State.disableNs_drain (h : (s.ns n).state = .enabled) (hf : s.param 1 1 = 1) : s.disableNs n =
    ((s.updNs n (fun x => { x with state := .draining })).completeDrain n).completeNs n .ok := by
  unfold State.disableNs
  rw [h]
  exact if_pos hf

theorem State.disableNs_revoke (h : (s.ns n).state = .enabled) (hf : s.param 1 1 = 2) :
    s.disableNs n = s.revokeNs n := by
  unfold State.disableNs
  rw [h]
  exact (if_neg (by rw [hf]; decide)).trans (if_pos hf)

/-- A descriptor at the start of its namespace's revoke sweep (R107, R109). -/
def Namespace.sweepBegun (x : Namespace) : Namespace :=
  { x with state := .draining, revokeSweep := true, scanIndex := 0, sweepEntries := 0, sweepClaims := 0 }

theorem State.revokeNs_eq (s : State) (n : NsIx) : s.revokeNs n =
    { s.updNs n Namespace.sweepBegun with longCommand := some (.revokeNamespace n) } := rfl

/-- A namespace with an occupied entry stays DRAINING (R108). -/
theorem State.completeDrain_of_occupied (h : 0 < (s.ns n).occupied) : s.completeDrain n = s :=
  if_neg fun ⟨_, _, hempty⟩ => h.ne' hempty

/-- The drain of an empty namespace without a revoke sweep completes at once (R107, R108). -/
theorem State.drain_of_empty (hr : (s.ns n).revokeSweep = false) (he : (s.ns n).occupied = 0) :
    (s.updNs n (fun x => { x with state := .draining })).completeDrain n =
      (s.raise .nsDrained).updNs n (fun x => { x with state := .disabled }) := by
  refine (if_pos (by rw [State.updNs_ns_same]; exact ⟨rfl, hr, he⟩)).trans ?_
  rw [State.updNs_updNs]
  rfl

end Sys2Proof.Machine

open Sys2Proof Sys2Proof.Machine

/-- Settles O41, by the equations of the two commands, read on the state in which the command is taken. -/
theorem namespacesAreDefinedAndChanged : Obligations.NamespacesAreDefinedAndChanged := by
  intro s
  refine ⟨fun c hc hp => ?_, ?_⟩
  · obtain ⟨h, rfl⟩ | ⟨h, rfl⟩ := hc
    · exact exec_completes (run := (·.nsCommand State.defineNs)) (exec_defineNamespace h)
        (State.nsCommand_of_none (s := taken s) hp)
    · exact exec_completes (run := (·.nsCommand State.changeNs)) (exec_changeNamespace h)
        (State.nsCommand_of_none (s := taken s) hp)
  intro n hp x rules fits allowed becomes
  have hfits : (taken s).paramRules.inRange = true ↔ fits := NsRules.inRange_iff _
  have hallowed : changeAllowed x.rules (taken s).paramRules x.occupied = true ↔ allowed :=
    changeAllowed_iff
  have hrefuse {c : Instr} {v : State} {code : ResultCode} (hexec : exec c s = .next v)
      (hrun : v = (taken s).completeNs n code) : becomes c x code :=
    have ⟨t, ht, hdone⟩ := exec_refusesNs hexec hrun
    ⟨taken s, t, ht, rfl, rfl, fun _ _ => rfl, hdone⟩
  refine ⟨fun h => ?_, fun h => ?_⟩
  · have hexec := exec_defineNamespace h
    rw [State.nsCommand_of_some (s := taken s) hp] at hexec
    refine ⟨fun hx => hrefuse hexec (State.defineNs_of_defined hx), fun hx hr => ?_, fun hx hr => ?_⟩
    · exact hrefuse hexec (State.defineNs_of_unfit hx (mt hfits.1 hr))
    · exact exec_writesNs (w := taken s) hexec rfl (State.defineNs_of_fit hx (hfits.2 hr))
  · have hexec := exec_changeNamespace h
    rw [State.nsCommand_of_some (s := taken s) hp] at hexec
    refine ⟨fun hx => hrefuse hexec (State.changeNs_of_disabled hx), fun hx hr => ?_,
      fun hx hr ha => ?_, fun hx hr ha => ?_⟩
    · exact hrefuse hexec (State.changeNs_of_unfit hx (mt hfits.1 hr))
    · exact hrefuse hexec (State.changeNs_of_barred hx (hfits.2 hr) (mt hallowed.1 ha))
    · exact exec_writesNs (w := taken s) hexec rfl
        (State.changeNs_of_allowed hx (hfits.2 hr) (hallowed.2 ha))

/-- Settles O42, by the state of the namespace, then the form, then whether the namespace is empty. -/
theorem namespacesAreDisabled : Obligations.NamespacesAreDisabled := by
  refine ⟨fun s c n h hc hp h1 h2 => ?_, fun s c h hc => ?_⟩
  · have hexec := exec_disableNamespace h (hc.imp (⟨·, h2⟩) (⟨·, h1⟩))
    rw [State.nsCommand_of_some (s := taken s) hp] at hexec
    exact exec_refusesNs hexec (State.disableNs_of_neither (s := taken s) h1 h2)
  have hform : s.param 1 1 = 1 ∨ s.param 1 1 = 2 := hc.imp And.right And.right
  have hexec := exec_disableNamespace h
    (hc.imp (fun ⟨hrow, hf⟩ => ⟨hrow, by omega⟩) (fun ⟨hrow, hf⟩ => ⟨hrow, by omega⟩))
  refine ⟨fun hp => ?_, fun n hp => ?_⟩
  · exact exec_completes (run := (·.nsCommand State.disableNs)) hexec
      (State.nsCommand_of_none (s := taken s) hp)
  rw [State.nsCommand_of_some (s := taken s) hp] at hexec
  refine ⟨fun hx => ?_, fun hx => ?_, fun hx hrow hsweep => ?_, fun hx hrow => ?_⟩
  · exact exec_refusesNs hexec (State.disableNs_of_disabled (s := taken s) hx hform)
  · exact exec_refusesNs hexec (State.disableNs_of_draining (s := taken s) hx)
  · have hf : s.param 1 1 = 1 := by simpa [hrow] using hc
    have hdrain := State.disableNs_drain (s := taken s) hx hf
    refine ⟨fun hocc => ?_, fun hempty => ?_⟩
    · rw [State.completeDrain_of_occupied (by rw [State.updNs_ns_same]; exact hocc)] at hdrain
      exact exec_writesNs (w := taken s) hexec rfl hdrain
    · rw [State.drain_of_empty (s := taken s) hsweep hempty] at hdrain
      exact exec_writesNs (w := (taken s).raise .nsDrained) hexec rfl hdrain
  · have hf : s.param 1 1 = 2 := by simpa [hrow] using hc
    rw [State.disableNs_revoke (s := taken s) hx hf, State.revokeNs_eq] at hexec
    exact ⟨_, hexec, rfl, State.updNs_ns_same (s := taken s) n Namespace.sweepBegun,
      .updNs (taken s) n Namespace.sweepBegun⟩
end

section
/-!
What keeps the queues within their room and the deadline list in order: the operations of the table, the lines'
own changes, and the request path (R114, R117, R118, R121, R150, R151).
-/

-- One theorem at a time: side by side they would need more memory than the check gives.
set_option Elab.async false

namespace Sys2Proof.Machine

/-! ### Work that is done by table operations -/

namespace TableStep

theorem freeThenPass (s : State) (c : ClaimIx) (e : EntryIx) :
    TableStep s ((s.freeClaim c).grantPass e) := (freeClaim s c).trans (grantPass _ e)

theorem clearThenPass (s : State) (e : EntryIx) (c : ClaimIx) :
    TableStep s ((s.clearUpgrade e c).grantPass e) := (clearUpgrade s e c).trans (grantPass _ e)

theorem revokeEntry (s : State) (e : EntryIx) (h w : List ClaimIx) :
    TableStep s (((s.revokeClaims h).revokeClaims w).retireEntry e) :=
  ((revokeClaims s h).trans (revokeClaims _ w)).trans (retireEntry _ e)

theorem acquire (s : State) (i : SlotIx) (r : Request) : TableStep s (s.acquire i r).1 := by
  unfold State.acquire
  split
  · exact refl s
  split
  · exact refl s
  split
  · unfold State.acquireAbsent
    split
    · exact raise s _
    split
    · split
      · exact grantNew s i _ _ _ _
      · exact raise s _
    · exact raise s _
  split
  · split
    · unfold State.acquireJoin
      split
      · exact raise s _
      split
      · exact grantJoin s i _ _ _
      · exact raise s _
    · unfold State.acquireQueue
      split
      · exact refl s
      split
      · exact refl s
      split
      · exact raise s _
      · exact queueClaim s i _ _ _ _ _
  · exact refl s

theorem release (s : State) (i : SlotIx) (r : Request) : TableStep s (s.release i r).1 := by
  unfold State.release
  split
  · exact refl s
  split
  · exact freeThenPass s _ _
  · exact freeThenPass s _ _
  · exact refl s
  · exact refl s

theorem cancel (s : State) (i : SlotIx) (r : Request) : TableStep s (s.cancel i r).1 := by
  unfold State.cancel
  split
  · exact refl s
  split
  · exact freeThenPass s _ _
  · exact clearThenPass s _ _
  · exact refl s
  · exact refl s

theorem convertUp (s : State) (c : ClaimIx) (wait : Nat) :
    TableStep s (s.convertUp c wait).1 := by
  unfold State.convertUp
  dsimp only
  split
  · split
    · exact upgradeClaim s _ c
    · exact raise s _
  split
  · exact refl s
  split
  · exact refl s
  · exact makePending s _ c wait

theorem convertHeld (s : State) (c : ClaimIx) (f : AcquireFields) :
    TableStep s (s.convertHeld c f).1 := by
  unfold State.convertHeld
  split
  · exact refl s
  split
  · exact ((updClaim s c _).trans (updEntry _ _ _)).trans (grantPass _ _)
  · exact convertUp s c _

theorem convert (s : State) (i : SlotIx) (r : Request) : TableStep s (s.convert i r).1 := by
  unfold State.convert
  split
  · exact refl s
  split
  · exact refl s
  split
  · exact convertHeld s _ _
  · exact convertHeld s _ _
  · exact refl s
  · exact refl s

theorem group (s : State) (i : SlotIx) (r : Request) : TableStep s (s.group i r).1 := by
  unfold State.group
  split
  · exact refl s
  split
  · exact refl s
  split
  · exact raise s _
  split
  · exact foldl _ (fun v el => grantElement v i el) _ s
  · exact raise s _

/-- A claim's notice is let go, and the claim freed if it is DETACHED. -/
theorem forgetNotice (s : State) (c : ClaimIx) : TableStep s
    (if ((s.updClaim c (fun x => { x with notice := none })).claim c).state = .detached then
      (s.updClaim c (fun x => { x with notice := none })).freeClaim c
      else s.updClaim c (fun x => { x with notice := none })) :=
  ite (fun _ => (updClaim s c _).trans (freeClaim _ c)) fun _ => updClaim s c _

theorem takeBack (s : State) (c : ClaimIx) : TableStep s (s.takeBack c) := by
  unfold State.takeBack
  split
  · exact freeThenPass s c _
  · exact freeThenPass s c _
  · exact freeClaim s c
  · exact refl s

theorem expireWait (s : State) (c : ClaimIx) (use : BitVec 16) (time : Nat) :
    TableStep s (s.expireWait c use time) := by
  refine ite (fun _ => ite (fun _ => ?_) fun _ => ?_) fun _ => refl s
  · exact ((countWaitExpiry s).trans (dropClaim _ c _)).trans (grantPass _ _)
  · have hclear := (countWaitExpiry s).trans (clearUpgrade _ (s.claim c).entry c)
    exact (ite (fun _ => hclear.trans (raiseNotice _ c _)) fun _ => hclear).trans (grantPass _ _)

end TableStep

/-! ### What is kept -/

/-- A line's request queue and its occupied reply slots are within their room (R150, R151). -/
def Line.InRoom (ln : Line) : Prop := ln.requests.length ≤ 4 ∧ ln.replies.length ≤ 4

theorem queuesBounded_iff {s : State} :
    QueuesBounded s ↔ s.expiries.length ≤ 8 ∧ ∀ l, (s.line l).InRoom := Iff.rfl

/-- From `s` to `t` the bounds of the queues and the order of the deadlines are kept. -/
structure BoundsStep (s t : State) : Prop where
  queues : QueuesBounded s → QueuesBounded t
  ordered : DeadlinesOrdered s → DeadlinesOrdered t

namespace BoundsStep

variable {s t u : State} {i : SlotIx} {l : LineIx}

theorem trans (h : BoundsStep s t) (g : BoundsStep t u) : BoundsStep s u :=
  ⟨g.queues ∘ h.queues, g.ordered ∘ h.ordered⟩

/-- A change outside the lines and the Deadline Unit. -/
theorem of_same (ht : t.time = s.time) (hd : t.deadlines = s.deadlines) (he : t.expiries = s.expiries)
    (hl : t.lines = s.lines) : BoundsStep s t where
  queues h := by rw [QueuesBounded, he]; exact ⟨h.1, fun l => by rw [State.line_congr hl]; exact h.2 l⟩
  ordered h := by rw [DeadlinesOrdered, ht, hd, he]; exact h

theorem refl (s : State) : BoundsStep s s := ⟨id, id⟩

theorem ite {a b : State} {p : Prop} [Decidable p] (ha : p → BoundsStep s a)
    (hb : ¬ p → BoundsStep s b) : BoundsStep s (if p then a else b) := by
  split
  · exact ha ‹_›
  · exact hb ‹_›

theorem foldl {α : Type} (f : State → α → State) (hf : ∀ s a, BoundsStep s (f s a)) (as : List α)
    (s : State) : BoundsStep s (as.foldl f s) := by
  induction as generalizing s with
  | nil => exact refl s
  | cons a as ih => exact (hf s a).trans (ih _)

/-! ### Primitive updates -/

/-- The operations on claims and entries leave the lines' queues and the expiries, and keep the list's order
(R118, R119). -/
theorem of_table (h : TableStep s t) : BoundsStep s t where
  queues := fun ⟨hexp, hroom⟩ => by
    have he : t.expiries = s.expiries := by rw [h.host]
    exact ⟨by rw [he]; exact hexp, fun l => by rw [h.lines l]; exact hroom l⟩
  ordered := fun ⟨hsorted, htime, hlist, hexp⟩ => by
    have ht : t.time = s.time := by rw [h.host]
    have he : t.expiries = s.expiries := by rw [h.host]
    exact ⟨h.ordered hsorted, by rw [ht]; exact htime, fun d hd => (h.times d hd).elim (hlist d) id,
      by rw [he]; exact hexp⟩

theorem updSession (s : State) (i : SlotIx) (f : Session → Session) :
    BoundsStep s (s.updSession i f) := .of_same rfl rfl rfl rfl

theorem updNs (s : State) (n : NsIx) (f : Namespace → Namespace) : BoundsStep s (s.updNs n f) :=
  .of_same rfl rfl rfl rfl

theorem raise (s : State) (k : DeviceCause) : BoundsStep s (s.raise k) := .of_same rfl rfl rfl rfl

theorem complete (s : State) (r : ResultCode) (bs : List Byte) : BoundsStep s (s.complete r bs) :=
  .of_same rfl rfl rfl rfl

/-- A change of one Line Unit that keeps its queues within their room. -/
theorem updLine_of (s : State) (l : LineIx) (f : Line → Line)
    (hf : (s.line l).InRoom → (f (s.line l)).InRoom) : BoundsStep s (s.updLine l f) where
  queues h := by
    obtain ⟨hexp, hroom⟩ := queuesBounded_iff.1 h
    refine queuesBounded_iff.2 ⟨hexp, fun m => ?_⟩
    rw [State.updLine_line]
    split
    · exact hf (hroom l)
    · exact hroom m
  ordered := id

theorem updLine (s : State) (l : LineIx) (f : Line → Line)
    (hf : ∀ ln, ln.InRoom → (f ln).InRoom := by exact fun _ h => h) : BoundsStep s (s.updLine l f) :=
  updLine_of s l f (hf _)

theorem dropLease (s : State) (i : SlotIx) : BoundsStep s (s.dropLease i) where
  queues := id
  ordered := fun ⟨hsorted, htime, hlist, hexp⟩ =>
    ⟨hsorted.filter _, htime, fun d hd => hlist d (List.mem_of_mem_filter hd), hexp⟩

theorem insertDeadline (s : State) {d : Deadline} (h : d.time ≤ Config.maxTime) :
    BoundsStep s (s.insertDeadline d) where
  queues := id
  ordered := fun ⟨hsorted, htime, hlist, hexp⟩ => by
    refine ⟨insertDeadline_ordered hsorted, htime, fun x hx => ?_, hexp⟩
    obtain rfl | hx := mem_insertDeadline.1 hx
    · exact h
    · exact hlist x hx

theorem enterEnding (s : State) (i : SlotIx) (cause : EndCause) : BoundsStep s (s.enterEnding i cause) :=
  (dropLease s i).trans (updSession _ i _)

/-! ### The request path -/

/-- A lease ends at a time within the counter (R115). -/
theorem setLease (s : State) (i : SlotIx) : BoundsStep s (s.setLease i) :=
  ((updSession s i (fun x =>
    { x with leaseDeadline := some (deadlineAfter s.time (s.session i).lease) })).trans
    (dropLease _ i)).trans (insertDeadline _ (deadlineAfter_le _ _))

/-- A fill takes no slot more (R151). -/
theorem fillReply (s : State) (i : SlotIx) (reply : Reply) : BoundsStep s (s.fillReply i reply) :=
  updLine s _ _ fun _ ⟨hreq, hrep⟩ => ⟨hreq, (fillReserved_length _ _ _).trans_le hrep⟩

theorem answer (s : State) (i : SlotIx) (reply : Reply) : BoundsStep s (s.answer i reply) :=
  ite (fun _ => (fillReply s i reply).trans (.of_same rfl rfl rfl rfl)) fun _ => fillReply s i reply

theorem finish (s : State) (i : SlotIx) (r : Request) (reply : Reply) :
    BoundsStep s (s.finish i r reply) :=
  (answer s i reply).trans
    (updSession (s.answer i reply) i (fun x => { x with cache := ⟨r.tag, r.kind, reply, true⟩ }))

theorem answerFromCache (s : State) (i : SlotIx) : BoundsStep s (s.answerFromCache i) :=
  (setLease s i).trans (fillReply _ i _)

theorem suspendedLease (s : State) (i : SlotIx) (r : Request) : BoundsStep s (s.suspendedLease i r) :=
  ite (fun _ => setLease s i) fun _ => refl s

theorem commonChecks {r : Request} (h : s.commonChecks i r = some t) : BoundsStep s t := by
  unfold State.commonChecks at h
  split at h
  · cases h; exact (suspendedLease s i r).trans (answer _ i _)
  · cases h; exact answer s i _
  · split at h
    · cases h; exact answer s i _
    · split at h <;> cases h
      exact answerFromCache s i

theorem withdrawSessionEnded (s : State) (i : SlotIx) : BoundsStep s (s.withdrawSessionEnded i) :=
  updLine s _ _

theorem acceptOpen (s : State) (i : SlotIx) (r : Request) : BoundsStep s (s.acceptOpen i r) := by
  unfold State.acceptOpen
  refine BoundsStep.trans (t := if (s.session i).state = .ended then s.withdrawSessionEnded i else s)
    (ite (fun _ => withdrawSessionEnded s i) fun _ => refl s) ?_
  exact ((updSession _ i _).trans (setLease _ i)).trans (finish _ i r _)

theorem openClosed (s : State) (i : SlotIx) (r : Request) : BoundsStep s (s.openClosed i r) :=
  ite (fun _ => answer s i _) fun _ => ite (fun _ => answer s i _) fun _ => acceptOpen s i r

theorem serveOpen (s : State) (i : SlotIx) (r : Request) : BoundsStep s (s.serveOpen i r) := by
  unfold State.serveOpen
  split
  · exact answer s i _
  · split
    · exact ite (fun _ => answerFromCache s i) fun _ => answer s i _
    · exact answer s i _
    · exact openClosed s i r
    · exact openClosed s i r

theorem serveClose (s : State) (i : SlotIx) (r : Request) : BoundsStep s (s.serveClose i r) := by
  unfold State.serveClose
  split
  · exact commonChecks ‹_›
  · exact ite (fun _ => (enterEnding s i _).trans (updSession _ i _))
      fun _ => (setLease s i).trans (finish _ i r _)

theorem serveRequest {act : State → SlotIx → Request → State × Reply} {r : Request}
    (hact : ∀ u, TableStep u (act u i r).1) : BoundsStep s (State.serveRequest act s i r) := by
  unfold State.serveRequest
  split
  · exact commonChecks ‹_›
  · exact ((setLease s i).trans (of_table (hact _))).trans (finish _ i r _)

/-- The frame taken leaves its queue; the slot reserved for it is within the room that the arbiter asks for
(R18, R150, R151). -/
theorem takeFrame {r : Request} (h : s.offeredFrame l = some r) : BoundsStep s (s.takeFrame l r) := by
  unfold State.offeredFrame at h
  split at h
  · rename_i hoffer
    have hfree := State.replies_of_taken hoffer.1 hoffer.2
    refine (updLine_of s l (fun ln =>
      { ln with requests := ln.requests.tail,
                replies := ln.replies ++ [⟨r.station, r.tag, replyKind r.kind, none⟩] })
      fun ⟨hreq, _⟩ => ⟨?_, ?_⟩).trans (.of_same rfl rfl rfl rfl)
    · exact (List.tail_sublist _).length_le.trans hreq
    · simpa using hfree
  · cases h

theorem requestStep {isKind : Byte → Bool} {serve : State → SlotIx → Request → State}
    (hserve : ∀ u i r, BoundsStep u (serve u i r)) : BoundsStep s (s.requestStep l isKind serve) := by
  unfold State.requestStep
  split
  · exact ite (fun _ => (takeFrame ‹_›).trans (hserve _ _ _)) fun _ => refl s
  · exact refl s

end BoundsStep

theorem RequestRow.bounds {l : LineIx} {c : Instr} (h : RequestRow l c) (s : State) :
    Answers (BoundsStep s) (exec c s) := by
  cases h with
  | opens => exact .next (.requestStep fun u i r => .serveOpen u i r)
  | closes => exact .next (.requestStep fun u i r => .serveClose u i r)
  | renews =>
    exact .next (.requestStep fun _ i r => .serveRequest
      fun u => by rw [State.renew_state]; exact .refl u)
  | acquires => exact .next (.requestStep fun _ i r => .serveRequest fun u => .acquire u i r)
  | releases => exact .next (.requestStep fun _ i r => .serveRequest fun u => .release u i r)
  | converts => exact .next (.requestStep fun _ i r => .serveRequest fun u => .convert u i r)
  | cancels => exact .next (.requestStep fun _ i r => .serveRequest fun u => .cancel u i r)
  | queries =>
    exact .next (.requestStep fun _ i r => .serveRequest
      fun u => by rw [State.query_state]; exact .refl u)
  | groups => exact .next (.requestStep fun _ i r => .serveRequest fun u => .group u i r)
  | others => exact .next (.requestStep fun _ i r => .serveRequest fun u => .refl u)

end Sys2Proof.Machine
end

section
/-!
Every command keeps the queues within their room and the deadline list in order (R114, R117, R121, R150, R151).
-/

-- One theorem at a time: side by side they would need more memory than the check gives.
set_option Elab.async false

namespace Sys2Proof.Machine

variable {s t : State} {l : LineIx}

/-! ### The Line Units' own actions (R147 to R156) -/

namespace Line.InRoom

variable {ln : Line}

theorem stopped (ln : Line) : ln.stopped.InRoom := ⟨Nat.zero_le _, Nat.zero_le _⟩

theorem huntCharacter (h : ln.InRoom) (ch : RxChar) : (ln.huntCharacter ch).InRoom := by
  unfold Line.huntCharacter
  split <;> exact h

theorem lengthCharacter (h : ln.InRoom) (ch : RxChar) : (ln.lengthCharacter ch).InRoom := by
  unfold Line.lengthCharacter
  split
  · exact h
  · split <;> exact h

/-- A good frame is queued only where there is room (R149). -/
theorem judgeFrame (h : ln.InRoom) (n : Nat) (bytes : List Byte) (bad : Bool) :
    (ln.judgeFrame n bytes bad).InRoom := by
  unfold Line.judgeFrame
  dsimp only
  split
  · exact h
  split
  · exact h
  split
  · exact h
  split
  · exact h
  · rename_i hfree
    refine ⟨?_, h.2⟩
    have hlt : ln.requests.length < 4 := Nat.lt_of_not_le hfree
    simpa using hlt

/-- A break-begun restart empties both queues (R156). -/
theorem breakDetected (h : ln.InRoom) : ln.breakDetected.InRoom := by
  unfold Line.breakDetected
  dsimp only
  split
  · exact stopped { ln.drop .brk with breakHold := .low }
  · exact h

theorem breakEnded (h : ln.InRoom) (high : Nat) : (ln.breakEnded high).InRoom := by
  unfold Line.breakEnded
  split <;> exact h

end Line.InRoom

theorem withoutFirstFilled_sublist (slots : List ReplySlot) :
    (withoutFirstFilled slots).Sublist slots := by
  induction slots with
  | nil => exact .slnil
  | cons x rest ih =>
    rw [withoutFirstFilled]
    split
    · exact List.sublist_cons_self x rest
    · exact ih.cons_cons x

theorem LineAction.bounds {c : Instr} (h : LineAction l c) (s : State) :
    Answers (BoundsStep s) (exec c s) := by
  cases h with
  | hunt ch => exact .ite (fun _ => .updLine s l _ fun _ h => h.huntCharacter ch) (.refl s)
  | length ch => exact .ite (fun _ => .updLine s l _ fun _ h => h.lengthCharacter ch) (.refl s)
  | body ch =>
    change Answers _ (execBodyCharacter l ch s)
    unfold execBodyCharacter
    split
    · exact .ite (fun _ => .updLine s l _) (.refl s)
    · exact .next (.refl s)
    · exact .next (.refl s)
  | frame ch =>
    change Answers _ (execFrameReceived l ch s)
    unfold execFrameReceived
    split
    · exact .ite (fun _ => .updLine s l _ fun _ h => h.judgeFrame _ _ _) (.refl s)
    · exact .next (.refl s)
    · exact .next (.refl s)
  | gap idle => exact .ite (fun _ => .updLine s l _) (.refl s)
  | brk low => exact .ite (fun _ => .updLine s l _ fun _ h => h.breakDetected) (.refl s)
  | brkEnd high => exact .next (.updLine s l _ fun _ h => h.breakEnded high)
  | reply idle =>
    change Answers _ (execReplyFrameStart l idle s)
    unfold execReplyFrameStart
    split
    · exact .ite (fun _ => .updLine s l _ fun _ ⟨hreq, hrep⟩ =>
        ⟨hreq, (withoutFirstFilled_sublist _).length_le.trans hrep⟩) (.refl s)
    · exact .next (.refl s)
  | sent => exact .next (.updLine s l _)

namespace BoundsStep

/-! ### Restarts and notice frames -/

theorem emptyNotices (s : State) (l : LineIx) : BoundsStep s (s.emptyNotices l) := by
  refine (updLine s l _).trans (foldl _ (fun v it => ?_) _ _)
  cases it with
  | claim c => exact of_table (.forgetNotice v c)
  | sessionEnded i => exact ite (fun _ => updSession v i _) fun _ => refl v

theorem restartSessions (s : State) (l : LineIx) (cause : EndCause) (suppress : Bool) :
    BoundsStep s (s.restartSessions l cause suppress) := by
  refine foldl _ (fun v i => ?_) _ s
  unfold State.restartSession
  split
  · exact (enterEnding v i cause).trans (updSession _ i _)
  · exact updSession v i _
  · exact refl v
  · exact refl v

theorem restartStep (s : State) (l : LineIx) : BoundsStep s (s.restartStep l) :=
  ((emptyNotices s l).trans (restartSessions _ l .lineBreak false)).trans
    (updLine _ l (fun ln => { ln with restartStepPending := false, state := .active }))

theorem sendNotice (s : State) (l : LineIx) (frame : List Byte) : BoundsStep s (s.sendNotice l frame) :=
  updLine s l _

theorem startNotice (s : State) (l : LineIx) (c : ClaimIx) (k : NoticeKind) :
    BoundsStep s (s.startNotice l c k) :=
  ((updSession s (s.claim c).session (fun x => { x with noticeCounter := x.noticeCounter + 1#8 })).trans
    (sendNotice _ l _)).trans (of_table (.forgetNotice _ c))

theorem startSessionEnded (s : State) (l : LineIx) (i : SlotIx) :
    BoundsStep s (s.startSessionEnded l i) :=
  ((updSession s i (fun x => { x with noticeCounter := x.noticeCounter + 1#8 })).trans
    (sendNotice _ l _)).trans (updSession _ i (fun x => { x with state := .idle }))

/-! ### The Deadline Unit (R114, R120, R121) -/

/-- The time counter stays at its last value. -/
theorem timeCounterAdvance (s : State) : BoundsStep s
    { s with divider := 0, time := if s.time < Config.maxTime then s.time + 1 else s.time } where
  queues := id
  ordered := fun ⟨hsorted, htime, hlist, hexp⟩ => by
    refine ⟨hsorted, ?_, hlist, hexp⟩
    dsimp only
    split
    · exact Nat.succ_le_of_lt ‹_›
    · exact htime

/-- The head of the deadline list is posted while there is room for it. -/
theorem posting {d : Deadline} {rest : List Deadline} (hd : s.deadlines = d :: rest)
    (hfree : s.expiries.length < Config.expiryDepth) :
    BoundsStep s { s with deadlines := rest, expiries := s.expiries ++ [d] } where
  queues := fun ⟨_, hroom⟩ => by
    refine ⟨?_, hroom⟩
    have hlt : s.expiries.length < 8 := hfree
    simpa using hlt
  ordered := fun ⟨hsorted, htime, hlist, hexp⟩ => by
    rw [hd] at hsorted hlist
    refine ⟨hsorted.of_cons, htime, fun x hx => hlist x (List.mem_cons_of_mem d hx), fun x hx => ?_⟩
    obtain hx | hx := List.mem_append.1 hx
    · exact hexp x hx
    · rw [List.mem_singleton.1 hx]
      exact hlist d List.mem_cons_self

theorem takeExpiry (s : State) : BoundsStep s s.takeExpiry where
  queues := fun ⟨hexp, hroom⟩ => ⟨(List.tail_sublist _).length_le.trans hexp, hroom⟩
  ordered := fun ⟨hsorted, htime, hlist, hexp⟩ =>
    ⟨hsorted, htime, hlist, fun d hd => hexp d (List.mem_of_mem_tail hd)⟩

theorem expireLease (s : State) (i : SlotIx) (time : Nat) : BoundsStep s (s.expireLease i time) :=
  ite (fun _ => (enterEnding s i .leaseExpired).trans (.of_same rfl rfl rfl rfl)) fun _ => refl s

/-! ### Sweeps -/

theorem endingStep (s : State) (i : SlotIx) (c : ClaimIx) : BoundsStep s (s.endingStep i c) :=
  ((updSession s i (fun x => { x with endingSweep := .running })).trans (of_table (.takeBack _ c))).trans
    (foldl _ (fun v d => of_table (.clearThenPass v _ d)) _ _)

theorem settleClose (s : State) (i : SlotIx) : BoundsStep s (s.settleClose i) :=
  ite (fun _ => (fillReply s i _).trans (updSession _ i _)) fun _ => refl s

theorem leaveEnding (s : State) (i : SlotIx) : BoundsStep s (s.leaveEnding i) := by
  have hoff := updSession s i (fun x => { x with endingSweep := .inactive })
  refine hoff.trans (ite (fun _ => ?_) fun _ => ite (fun _ => ?_) fun _ => ?_)
  · exact (settleClose _ i).trans (updSession _ i _)
  · exact (updSession _ i _).trans (updLine _ _ _)
  · exact updSession _ i _

theorem completeRestart (s : State) (l : LineIx) : BoundsStep s (s.completeRestart l) :=
  ite (fun _ => (updLine s l _).trans (complete _ _ _)) fun _ => refl s

theorem completeEvict (s : State) (i : SlotIx) : BoundsStep s (s.completeEvict i) :=
  ite (fun _ => complete s _ _) fun _ => refl s

theorem endingFinal (s : State) (i : SlotIx) : BoundsStep s (s.endingFinal i) :=
  ((leaveEnding s i).trans (completeEvict _ i)).trans (completeRestart _ _)

theorem revokeStep (s : State) (n : NsIx) (e : EntryIx) : BoundsStep s (s.revokeStep n e) :=
  (of_table (.revokeEntry s e (s.entry e).holders (s.entry e).waiters)).trans (updNs _ n (fun x =>
    { x with scanIndex := e.val + 1, sweepEntries := x.sweepEntries + 1,
             sweepClaims := x.sweepClaims + (s.entry e).holders.length + (s.entry e).waiters.length }))

theorem revokeFinal (s : State) (n : NsIx) : BoundsStep s (s.revokeFinal n) :=
  (updNs s n _).trans (complete _ _ _)

theorem clearStep (s : State) (i : SlotIx) : BoundsStep s (s.clearStep i) := by
  have hclose : ∀ v : State, BoundsStep v (v.closeSession i) := fun v =>
    (((dropLease v i).trans (settleClose _ i)).trans (withdrawSessionEnded _ i)).trans (updSession _ i _)
  have hsession : BoundsStep s (s.clearSession i) := by
    rw [State.clearSession_eq]
    exact ((updSession s i _).trans (of_table (.claimsCleared s i))).trans (hclose _)
  exact hsession.trans (.of_same rfl rfl rfl rfl)

/-- The clear sweep empties the expiry queue (R126). -/
theorem clearFinal (s : State) : BoundsStep s s.clearFinal where
  queues := fun ⟨_, hroom⟩ => ⟨Nat.zero_le _, hroom⟩
  ordered := fun ⟨hsorted, htime, hlist, _⟩ => ⟨hsorted, htime, hlist, fun _ hd => by cases hd⟩

/-! ### Management commands -/

theorem loadTokenBase (s : State) (v : Nat) : BoundsStep s (s.loadTokenBase v) :=
  ite (fun _ => .of_same rfl rfl rfl rfl) fun _ => .of_same rfl rfl rfl rfl

theorem setTokenBase (s : State) : BoundsStep s s.setTokenBase :=
  ite (fun _ => (loadTokenBase s _).trans (complete _ _ _)) fun _ => complete s _ _

theorem startService (s : State) : BoundsStep s s.startService := by
  unfold State.startService
  split
  · exact ite (fun _ => .of_same rfl rfl rfl rfl) fun _ => complete s _ _
  all_goals exact .of_same rfl rfl rfl rfl

theorem suspendService (s : State) : BoundsStep s s.suspendService := by
  unfold State.suspendService
  split <;> exact .of_same rfl rfl rfl rfl

theorem clearService (s : State) : BoundsStep s s.clearService := by
  unfold State.clearService
  split <;> exact .of_same rfl rfl rfl rfl

theorem defineNs (s : State) (n : NsIx) : BoundsStep s (s.defineNs n) :=
  ite (fun _ => complete s _ _) fun _ =>
    ite (fun _ => (updNs s n _).trans (complete _ _ _)) fun _ => complete s _ _

theorem changeNs (s : State) (n : NsIx) : BoundsStep s (s.changeNs n) :=
  ite (fun _ => complete s _ _) fun _ => ite (fun _ =>
    ite (fun _ => (updNs s n _).trans (complete _ _ _)) fun _ => complete s _ _) fun _ => complete s _ _

theorem disableNs (s : State) (n : NsIx) : BoundsStep s (s.disableNs n) := by
  unfold State.disableNs
  split
  · exact complete s _ _
  · exact ite (fun _ => complete s _ _) fun _ => complete s _ _
  · refine ite (fun _ => ?_) fun _ => ite (fun _ => .of_same rfl rfl rfl rfl) fun _ => complete s _ _
    exact ((updNs s n (fun x => { x with state := .draining })).trans
      (of_table (.completeDrain _ n))).trans (complete _ _ _)

theorem evict (s : State) (i : SlotIx) : BoundsStep s (s.evict i) := by
  unfold State.evict
  split
  · exact complete s _ _
  · exact complete s _ _
  · exact complete s _ _
  · exact (enterEnding s i .evicted).trans (.of_same rfl rfl rfl rfl)

theorem revokeLock (s : State) : BoundsStep s s.revokeLock := by
  unfold State.revokeLock
  split
  · exact complete s _ _
  refine ite (fun _ => ?_) fun _ => ite (fun _ => ?_) fun _ => complete s _ _
  · split
    · exact complete s _ _
    · exact (of_table ((TableStep.revokeClaims s _).trans (.grantPass _ _))).trans (complete _ _ _)
  · split
    · exact complete s _ _
    · exact (of_table (.revokeEntry s _ _ _)).trans (complete _ _ _)

theorem inspectLock (s : State) : BoundsStep s s.inspectLock := by
  unfold State.inspectLock
  split
  · exact complete s _ _
  refine ite (fun _ => ?_) fun _ => complete s _ _
  split <;> exact complete s _ _

theorem configureLine (s : State) (l : LineIx) : BoundsStep s (s.configureLine l) := by
  refine ite (fun _ => complete s _ _) fun _ => ?_
  split
  · exact (updLine s l _).trans (complete _ _ _)
  · exact complete s _ _

theorem enableLine (s : State) (l : LineIx) : BoundsStep s (s.enableLine l) := by
  unfold State.enableLine
  split
  · exact (updLine s l _).trans (complete _ _ _)
  · exact complete s _ _
  · exact complete s _ _

theorem beginRestart (s : State) (l : LineIx) (fin : RestartEnd) : BoundsStep s (s.beginRestart l fin) := by
  have hlong : ∀ v : State, BoundsStep v { v with longCommand := some (.restartLine l) } := fun _ =>
    .of_same rfl rfl rfl rfl
  have hbegun := ((updLine s l Line.stopped fun ln _ => .stopped ln).trans (emptyNotices _ l)).trans
    (restartSessions _ l .lineRestart true)
  exact ((hbegun.trans (updLine _ l (fun ln => { ln with state := .restarting, restartEnd := fin }))).trans
    (hlong _)).trans (completeRestart _ l)

theorem restartLine (s : State) (l : LineIx) : BoundsStep s (s.restartLine l) := by
  unfold State.restartLine
  split
  · exact beginRestart s l _
  · exact complete s _ _
  · exact complete s _ _

theorem disableLine (s : State) (l : LineIx) : BoundsStep s (s.disableLine l) := by
  unfold State.disableLine
  split
  · exact beginRestart s l _
  · exact complete s _ _
  · exact complete s _ _

theorem setLeaseBounds (s : State) : BoundsStep s s.setLeaseBounds :=
  ite (fun _ => .of_same rfl rfl rfl rfl) fun _ => complete s _ _

theorem setPoolThreshold (s : State) : BoundsStep s s.setPoolThreshold := by
  refine ite (fun _ => ?_) fun _ => complete s _ _
  have hset : BoundsStep s { s with poolThreshold := s.param 0 2 } := .of_same rfl rfl rfl rfl
  exact (hset.trans (ite (fun _ => raise _ _) fun _ => refl _)).trans (complete _ _ _)

theorem readCounters (s : State) : BoundsStep s s.readCounters := by
  unfold State.readCounters
  split
  · exact (updLine s _ _).trans (complete _ _ _)
  · exact ite (fun _ => .of_same rfl rfl rfl rfl) fun _ => complete s _ _

theorem nsCommand {run : State → NsIx → State} (hrun : ∀ s n, BoundsStep s (run s n)) (s : State) :
    BoundsStep s (s.nsCommand run) := by
  unfold State.nsCommand
  split
  · exact complete s _ _
  · exact hrun s _

theorem slotCommand {run : State → SlotIx → State} (hrun : ∀ s i, BoundsStep s (run s i)) (s : State) :
    BoundsStep s (s.slotCommand run) := by
  unfold State.slotCommand
  split
  · exact complete s _ _
  · exact hrun s _

theorem lineCommand {run : State → LineIx → State} (hrun : ∀ s l, BoundsStep s (run s l)) (s : State) :
    BoundsStep s (s.lineCommand run) := by
  unfold State.lineCommand
  split
  · exact complete s _ _
  · exact hrun s _

theorem commandStep {mine : Nat → Bool} {run : State → State} (hrun : ∀ v, BoundsStep v (run v)) :
    BoundsStep s (s.commandStep mine run) := by
  have htake : BoundsStep s s.takeCommand := .of_same rfl rfl rfl rfl
  unfold State.commandStep
  split
  · exact ite (fun _ => htake.trans (hrun _)) fun _ => refl s
  · exact refl s

/-! ### The host's writes (R162, R164, R181) -/

theorem writeLineByte (s : State) (l : LineIx) (data : Byte) : BoundsStep s (s.writeLineByte l data) :=
  updLine s l _

theorem writeCommandCode (s : State) (data : Byte) : BoundsStep s (s.writeCommandCode data) := by
  unfold State.writeCommandCode
  split
  · exact ite (fun _ => raise s _) fun _ => .of_same rfl rfl rfl rfl
  · exact raise s _
  · exact ite (fun _ => .of_same rfl rfl rfl rfl) fun _ => raise s _

theorem writeWindow (s : State) (a : Nat) (data : Byte) : BoundsStep s (s.writeWindow a data) := by
  unfold State.writeWindow
  split
  · exact writeCommandCode s data
  split
  · exact .of_same rfl rfl rfl rfl
  split
  · exact .of_same rfl rfl rfl rfl
  split
  · exact writeLineByte s _ data
  split
  · exact .of_same rfl rfl rfl rfl
  · exact refl s

theorem spiByte {p : SpiPlace} {a : Nat} {write : State → State} (hw : BoundsStep s (write s)) :
    BoundsStep s (s.spiByte p a write) :=
  ite (fun _ => hw.trans (.of_same rfl rfl rfl rfl)) fun _ => refl s

/-! ### The dispatch -/

theorem deviceReset (s : State) : BoundsStep s { State.reset with pending := s.pending } :=
  have ⟨hqueues, _, hordered, _⟩ := resetMeetsTheInvariants
  ⟨fun _ => hqueues, fun _ => hordered⟩

/-- Every command keeps the bounds of the queues and the order of the deadlines. -/
theorem exec (s : State) (c : Instr) : Answers (BoundsStep s) (Machine.exec c s) := by
  have same : BoundsStep s s := .refl s
  have request : ∀ {l c}, RequestRow l c → Answers (BoundsStep s) (Machine.exec c s) := (·.bounds s)
  have line : ∀ {l c}, LineAction l c → Answers (BoundsStep s) (Machine.exec c s) := (·.bounds s)
  have command : ∀ {mine : Nat → Bool} {run : State → State}, (∀ v, BoundsStep v (run v)) →
      Answers (BoundsStep s) (.next (s.commandStep mine run)) := fun hrun => .next (commandStep hrun)
  have arbiter : ∀ p, BoundsStep s (s.served p) := fun p => .of_same rfl rfl rfl rfl
  have source : ∀ p, BoundsStep s (s.servedSweep p) := fun p => .of_same rfl rfl rfl rfl
  cases c with
  | reqOpen l => exact request (l := l) .opens
  | reqClose l => exact request (l := l) .closes
  | reqRenew l => exact request (l := l) .renews
  | reqAcquire l => exact request (l := l) .acquires
  | reqRelease l => exact request (l := l) .releases
  | reqConvert l => exact request (l := l) .converts
  | reqCancel l => exact request (l := l) .cancels
  | reqQuery l => exact request (l := l) .queries
  | reqGroup l => exact request (l := l) .groups
  | reqUnknownKind l => exact request (l := l) .others
  | setTokenBase => exact command setTokenBase
  | startService => exact command startService
  | suspendService => exact command suspendService
  | clearService => exact command clearService
  | defineNamespace => exact command (nsCommand defineNs)
  | changeNamespace => exact command (nsCommand changeNs)
  | disableNamespaceDrain => exact command (nsCommand disableNs)
  | disableNamespaceRevoke => exact command (nsCommand disableNs)
  | evictSession => exact command (slotCommand evict)
  | inspectSession => exact command (slotCommand fun v _ => complete v _ _)
  | revokeLockHolders => exact command revokeLock
  | revokeLockAll => exact command revokeLock
  | inspectLock => exact command inspectLock
  | lineConfig => exact command (lineCommand configureLine)
  | lineEnable => exact command (lineCommand enableLine)
  | lineDisable => exact command (lineCommand disableLine)
  | lineRestart => exact command (lineCommand restartLine)
  | setLeaseBounds => exact command setLeaseBounds
  | setPoolThreshold => exact command setPoolThreshold
  | readCounters => exact command readCounters
  | unknownCommand => exact command fun v => complete v _ _
  | mailboxAck p => exact .next (spiByte (writeCommandCode s _))
  | registerWrite addr data p => exact .next (spiByte (writeWindow s _ data))
  | causeClear target data p =>
    cases target with
    | device => exact .next (spiByte (.of_same rfl rfl rfl rfl))
    | line l => exact .next (spiByte (writeLineByte s l data))
  | maskWrite target data p =>
    cases target with
    | device => exact .next (spiByte (.of_same rfl rfl rfl rfl))
    | line l => exact .next (spiByte (writeLineByte s l data))
  | frameReceived l ch => exact line (.frame l ch)
  | lengthByte l ch => exact line (.length l ch)
  | gapLimitExpiry l idle => exact line (.gap l idle)
  | breakDetected l low => exact line (.brk l low)
  | requestSyncByte l ch => exact line (.hunt l ch)
  | bodyCharacter l ch => exact line (.body l ch)
  | replyFrameStart l idle => exact line (.reply l idle)
  | frameTransmissionEnd l => exact line (.sent l)
  | breakEnd l high => exact line (.brkEnd l high)
  | restartStep l => exact .ite (fun _ => (arbiter _).trans (restartStep _ l)) same
  | noticeFrameStart l idle =>
    change Answers _ (execNoticeFrameStart l idle s)
    unfold execNoticeFrameStart
    split
    · split
      · exact .next (startNotice s l _ _)
      · exact .next same
    · exact .next same
    · exact .next same
  | sessionEndedFrameStart l idle =>
    change Answers _ (execSessionEndedFrameStart l idle s)
    unfold execSessionEndedFrameStart
    split
    · exact .next (startSessionEnded s l _)
    · exact .next same
    · exact .next same
  | timeCounterAdvance => exact .next (timeCounterAdvance s)
  | posting =>
    change Answers _ (execPosting s)
    unfold execPosting
    split
    · exact .ite (fun hdue => posting ‹_› hdue.2) same
    · exact .next same
  | leaseExpiry =>
    change Answers _ (execLeaseExpiry s)
    unfold execLeaseExpiry
    split
    · exact .next ((takeExpiry s).trans (expireLease _ _ _))
    · exact .next same
    · exact .next same
  | waitExpiry =>
    change Answers _ (execWaitExpiry s)
    unfold execWaitExpiry
    split
    · exact .next ((takeExpiry s).trans (of_table (.expireWait _ _ _ _)))
    · exact .next same
    · exact .next same
  | endingSweepStep i =>
    refine .ite (fun _ => ?_) same
    split
    · exact (source _).trans (endingStep _ i _)
    · exact same
  | endingSweepFinalStep i => exact .ite (fun _ => (source _).trans (endingFinal _ i)) same
  | revokeSweepStep n =>
    refine .ite (fun _ => ?_) same
    split
    · exact (source _).trans (revokeStep _ n _)
    · exact same
  | revokeSweepFinalStep n => exact .ite (fun _ => (source _).trans (revokeFinal _ n)) same
  | clearStep =>
    refine .ite (fun _ => ?_) same
    split
    · exact (source _).trans (clearStep _ _)
    · exact same
  | clearSweepFinalStep => exact .ite (fun _ => (source _).trans (clearFinal _)) same
  | deviceReset => exact .next (deviceReset s)

end BoundsStep

end Sys2Proof.Machine

open Sys2Proof Sys2Proof.Machine

/-- Settles O55: a request is queued, a slot reserved and an expiry posted only where there is room. -/
theorem everyStepKeepsQueuesBounded : Obligations.EveryStepKeepsQueuesBounded :=
  fun _ _ => step_keeps (fun _ _ h => h) fun s c h =>
    have ⟨t, ht, hstep⟩ := BoundsStep.exec s c
    ⟨t, ht, hstep.queues h⟩

/-- Settles O57: a deadline is inserted in its place and lies within the counter, and is then at most removed or
posted. -/
theorem everyStepKeepsDeadlinesOrdered : Obligations.EveryStepKeepsDeadlinesOrdered :=
  fun _ _ => step_keeps (fun _ _ h => h) fun s c h =>
    have ⟨t, ht, hstep⟩ := BoundsStep.exec s c
    ⟨t, ht, hstep.ordered h⟩
end

section
/-!
The Deadline Unit: the time counter and posting (R114, R120), the place of an insertion (R118), and what a LEASE
or WAIT expiry does when it is taken (R44, R65, R123 to R125).
-/

namespace Sys2Proof.Machine

variable {s : State} {i : SlotIx} {c : ClaimIx} {use : BitVec 16} {time : Nat}

/-! ### The time counter and the deadline list (R114, R118, R120) -/

theorem exec_timeCounterAdvance (s : State) : exec .timeCounterAdvance s =
    .next { s with divider := 0, time := if s.time < Config.maxTime then s.time + 1 else s.time } := rfl

theorem exec_posting_of_nil (h : s.deadlines = []) : exec .posting s = .next s := by
  change execPosting s = _
  unfold execPosting
  rw [h]

theorem exec_posting_of_cons {d : Deadline} {rest : List Deadline} (h : s.deadlines = d :: rest) :
    exec .posting s = .next (if d.time ≤ s.time ∧ s.expiries.length < Config.expiryDepth then
      { s with deadlines := rest, expiries := s.expiries ++ [d] } else s) := by
  change execPosting s = _
  unfold execPosting
  rw [h]

/-- The new entry stands between the entries that are not later and those that are (R118). -/
theorem insertDeadline_eq_filter (d : Deadline) {ds : List Deadline}
    (h : ds.Pairwise (fun a b => a.time ≤ b.time)) : insertDeadline d ds =
      ds.filter (fun x => decide (x.time ≤ d.time)) ++
        d :: ds.filter (fun x => decide (d.time < x.time)) := by
  induction ds with
  | nil => rfl
  | cons x rest ih =>
    obtain ⟨hx, hrest⟩ := List.pairwise_cons.1 h
    rw [insertDeadline]
    by_cases hle : x.time ≤ d.time
    · rw [if_pos hle, ih hrest, List.filter_cons_of_pos (by simpa using hle),
        List.filter_cons_of_neg (by simpa using hle)]
      rfl
    · have hlater : ∀ y ∈ x :: rest, d.time < y.time := by
        intro y hy
        obtain rfl | hy := List.mem_cons.1 hy
        · exact Nat.lt_of_not_le hle
        · exact (Nat.lt_of_not_le hle).trans_le (hx y hy)
      rw [if_neg hle, List.filter_eq_nil_iff.2 (by simpa using hlater),
        List.filter_eq_self.2 (by simpa using hlater)]
      rfl

/-! ### The judging of an expiry (R123 to R125) -/

/-- Outside HALTED an expiry is judged unless service is CLEARING (R125). -/
theorem State.judgesExpiries_iff (h : s.service ≠ .halted) :
    s.judgesExpiries = true ↔ s.service ≠ .clearing := by
  unfold State.judgesExpiries
  revert h
  cases s.service <;> decide

theorem State.leaseActs_iff (h : s.service ≠ .halted) : s.leaseActs i time = true ↔
    s.service ≠ .clearing ∧ (s.session i).state = .opened ∧
      (s.session i).leaseDeadline = some time := by
  simp only [State.leaseActs, Bool.and_eq_true, beq_iff_eq, judgesExpiries_iff h, and_assoc]

theorem State.waitActs_iff (h : s.service ≠ .halted) : s.waitActs c use time = true ↔
    s.service ≠ .clearing ∧ (s.claim c).useCount = use ∧
      ((s.claim c).state = .waiting ∨ (s.claim c).state = .held ∧ (s.claim c).upgrade = true) ∧
      (s.claim c).waitDeadline = some time := by
  simp only [State.waitActs, Bool.and_eq_true, Bool.or_eq_true, beq_iff_eq, judgesExpiries_iff h, and_assoc]

theorem exec_leaseExpiry (h : ExpiryOffered s ⟨.lease i, time⟩) :
    exec .leaseExpiry s = .next ((expiryTaken s).expireLease i time) := by
  change execLeaseExpiry s = _
  unfold execLeaseExpiry
  rw [State.offeredExpiry_eq h, State.takeExpiry_eq]

theorem exec_waitExpiry (h : ExpiryOffered s ⟨.wait c use, time⟩) :
    exec .waitExpiry s = .next ((expiryTaken s).expireWait c use time) := by
  change execWaitExpiry s = _
  unfold execWaitExpiry
  rw [State.offeredExpiry_eq h, State.takeExpiry_eq]

/-! ### LEASE expiries (R84, R86, R123) -/

theorem State.expireLease_of_acts (h : s.leaseActs i time = true) : s.expireLease i time =
    ((s.enterEnding i .leaseExpired).raise .sessionExpired).countLeaseExpiry := if_pos h

theorem State.expireLease_of_not_acts (h : ¬ s.leaseActs i time = true) : s.expireLease i time = s :=
  if_neg h

/-- The parts of the state that the end of a lease writes (R86, R123). -/
theorem State.leaseEnded_writes (s : State) (i : SlotIx) :
    ((s.enterEnding i .leaseExpired).raise .sessionExpired).countLeaseExpiry =
      { s with
        sessions := (s.enterEnding i .leaseExpired).sessions,
        deadlines := s.deadlines.filter (fun d => !refersToLease i d.ref),
        deviceCauses := s.deviceCauses ||| 0x04#7,
        counters := { s.counters with leaseExpiries := countUp s.counters.leaseExpiries } } := rfl

/-! ### WAIT expiries (R44, R65, R124) -/

theorem State.expireWait_of_waiting (h : s.waitActs c use time = true) (hw : (s.claim c).state = .waiting) :
    s.expireWait c use time = ((s.countWaitExpiry).dropClaim c .waitExpired).grantPass (s.claim c).entry :=
  (if_pos h).trans (if_pos hw)

theorem State.expireWait_of_upgrade (h : s.waitActs c use time = true) (hw : (s.claim c).state ≠ .waiting) :
    s.expireWait c use time = s.expireUpgrade c := (if_pos h).trans (if_neg hw)

theorem State.expireWait_of_not_acts (h : ¬ s.waitActs c use time = true) :
    s.expireWait c use time = s := if_neg h

/-- The session of a claim whose upgrade is cleared is told of it if it is OPEN (R65). -/
theorem State.expireUpgrade_eq (s : State) (c : ClaimIx) : s.expireUpgrade c =
    (if (s.session (s.claim c).session).state = .opened then
      ((s.countWaitExpiry).clearUpgrade (s.claim c).entry c).raiseNotice c .waitExpired
      else (s.countWaitExpiry).clearUpgrade (s.claim c).entry c).grantPass (s.claim c).entry := by
  have hsession : ((s.countWaitExpiry).clearUpgrade (s.claim c).entry c).session
      (((s.countWaitExpiry).clearUpgrade (s.claim c).entry c).claim c).session =
        s.session (s.claim c).session := by
    rw [State.clearUpgrade_claim, if_pos rfl]
    rfl
  unfold State.expireUpgrade
  simp only [hsession]

end Sys2Proof.Machine

open Sys2Proof Sys2Proof.Machine

/-- Settles O17, by the head of the deadline list and whether it is due. -/
theorem timeAdvancesAndDueHeadsArePosted : Obligations.TimeAdvancesAndDueHeadsArePosted := by
  intro s
  refine ⟨exec_timeCounterAdvance s, fun d rest hd hdue hfree => ?_, fun h => ?_⟩
  · rw [exec_posting_of_cons hd, if_pos ⟨hdue, hfree⟩]
  · cases hd : s.deadlines with
    | nil => exact exec_posting_of_nil hd
    | cons d rest =>
      rw [exec_posting_of_cons hd, if_neg]
      rintro ⟨hdue, hfree⟩
      obtain hlater | hfull := h
      · exact absurd hdue (Nat.not_le_of_lt (hlater d (by simp [hd])))
      · exact absurd hfree (Nat.not_lt_of_le hfull)

/-- Settles O18, by induction on the list. -/
theorem deadlineInsertionPlace : Obligations.DeadlineInsertionPlace :=
  fun d _ h => insertDeadline_eq_filter d h

/-- Settles O19: the session enters ENDING where the expiry acts. -/
theorem leaseExpiryActsOrIsDiscarded : Obligations.LeaseExpiryActsOrIsDiscarded := by
  intro s i time h hs
  have hexec := exec_leaseExpiry h
  have hacts := State.leaseActs_iff (s := expiryTaken s) (i := i) (time := time) hs
  refine ⟨fun hclear hopen hlease => ?_, fun hnot => ?_⟩
  · rw [State.expireLease_of_acts (hacts.2 ⟨hclear, hopen, hlease⟩)] at hexec
    refine ⟨_, hexec, State.leaseEnded_writes (expiryTaken s) i, ?_, fun j hj => ?_⟩
    · exact (State.enterEnding_session (expiryTaken s) i .leaseExpired i).trans (if_pos rfl)
    · exact (State.enterEnding_session (expiryTaken s) i .leaseExpired j).trans
        (if_neg (List.ne_of_not_mem_cons hj).symm)
  · rw [hexec, State.expireLease_of_not_acts]
    intro ha
    obtain ⟨hclear, hopen, hlease⟩ := hacts.1 ha
    exact hnot.elim hclear fun hnot => hnot.elim (· hopen) (· hlease)

/-- Settles O20, by the state of the claim where the expiry acts. -/
theorem waitExpiryActsOrIsDiscarded : Obligations.WaitExpiryActsOrIsDiscarded := by
  intro s c use time e counted h hs
  have hexec := exec_waitExpiry h
  have hacts := State.waitActs_iff (s := expiryTaken s) (c := c) (use := use) (time := time) hs
  refine ⟨fun hclear huse hwait hst => ?_, fun hclear huse hwait hst hup => ?_, fun hnot => ?_⟩
  · rw [hexec, State.expireWait_of_waiting (hacts.2 ⟨hclear, huse, .inl hst, hwait⟩) hst]
    rfl
  · have hheld : ((expiryTaken s).claim c).state ≠ .waiting := fun hw => by
      cases hst.symm.trans hw
    rw [State.expireWait_of_upgrade (hacts.2 ⟨hclear, huse, .inr ⟨hst, hup⟩, hwait⟩) hheld,
      State.expireUpgrade_eq] at hexec
    refine ⟨counted.clearUpgrade e c, hexec, State.clearUpgrade_writes counted e c, ?_, fun d hd => ?_, ?_,
      fun f hf => ?_⟩
    · exact (State.clearUpgrade_claim counted e c c).trans (if_pos rfl)
    · exact (State.clearUpgrade_claim counted e c d).trans (if_neg (List.ne_of_not_mem_cons hd).symm)
    · exact (State.clearUpgrade_entry counted e c e).trans (if_pos rfl)
    · exact (State.clearUpgrade_entry counted e c f).trans (if_neg (List.ne_of_not_mem_cons hf).symm)
  · rw [hexec, State.expireWait_of_not_acts]
    intro ha
    obtain ⟨hclear, huse, hst, hwait⟩ := hacts.1 ha
    obtain hn | hn | hn | ⟨hnw, hnu⟩ := hnot
    · exact hclear hn
    · exact hn huse
    · exact hn hwait
    · exact hst.elim hnw hnu
end

section
/-!
The refusals of the service-state check and of the session check (R74, R75, R135 to R137): which status each check
gives, and what a request step leaves when one of them refuses.
-/

namespace Sys2Proof.Machine

variable {s : State} {l : LineIx} {i : SlotIx} {r : Request} {x : Session} {st : Status}

/-! ### The service-state check (R137) -/

theorem refusedInSuspended_iff : refusedInSuspended r = true ↔
    r.kind = 0x01#8 ∨ r.kind = 0x04#8 ∨ r.kind = 0x09#8 ∨
      (r.kind = 0x06#8 ∧ 6 ≤ r.payload.length ∧ r.payload.getD 5 0#8 = 2#8) := by
  simp only [refusedInSuspended, Bool.or_eq_true, Bool.and_eq_true, beq_iff_eq, decide_eq_true_eq, or_assoc,
    and_assoc, BitVec.ofNat_eq_ofNat]

theorem serviceRefusal_of_out_of_service {v : ServiceState} (h : v = .halted ∨ v = .clearing) :
    serviceRefusal v r = some .notInService := by
  obtain rfl | rfl := h <;> rfl

theorem serviceRefusal_suspended (h : refusedInSuspended r = true) :
    serviceRefusal .suspended r = some .suspended := if_pos h

theorem serviceRefusal_of_passes {v : ServiceState}
    (h : v = .running ∨ v = .suspended ∧ ¬ refusedInSuspended r = true) : serviceRefusal v r = none := by
  obtain rfl | ⟨rfl, hadmits⟩ := h
  · rfl
  · exact if_neg hadmits

/-! ### The session check (R74) -/

theorem sessionRefusal_of_idle (h : x.state = .idle) : sessionRefusal x r = some .noSession := if_pos h

theorem sessionRefusal_of_stale (h : x.state ≠ .idle) (hi : r.incarnation ≠ x.incarnation) :
    sessionRefusal x r = some .staleIncarnation := (if_neg h).trans (if_pos hi)

theorem sessionRefusal_of_closing (h : x.state = .ending ∨ x.state = .ended)
    (hi : r.incarnation = x.incarnation) : sessionRefusal x r = some .sessionEnding := by
  unfold sessionRefusal
  obtain h | h := h <;> simp [h, hi]

/-! ### The checks on the path of a request (R75, R136) -/

/-- A refusal with SUSPENDED restarts the lease where R75 says so; the other refusals touch no
session. -/
theorem State.commonChecks_of_serviceRefusal (h : serviceRefusal s.service r = some st) :
    s.commonChecks i r =
      some ((if st = .suspended then s.suspendedLease i r else s).answer i ⟨st, []⟩) := by
  unfold State.commonChecks
  rw [h]
  cases st <;> rfl

theorem State.commonChecks_of_sessionRefusal (hs : serviceRefusal s.service r = none)
    (h : sessionRefusal (s.session i) r = some st) : s.commonChecks i r = some (s.answer i ⟨st, []⟩) := by
  unfold State.commonChecks
  simp only [hs, h]

theorem State.serveOpen_of_serviceRefusal (h : serviceRefusal s.service r = some st) :
    s.serveOpen i r = s.answer i ⟨st, []⟩ := by
  unfold State.serveOpen
  rw [h]

theorem State.suspendedLease_of_open (h : r.kind = 0x01#8) : s.suspendedLease i r = s :=
  if_neg fun ⟨_, hkind, _⟩ => hkind h

/-- The step of a frame other than OPEN that the common checks answer. -/
theorem exec_of_commonChecks {v : State} (h : RequestOffered s l r) (hk : r.kind ≠ 0x01#8)
    (hc : (s.takeFrame l r).commonChecks (slotOf l r.station) r = some v) :
    exec (requestCommand r.kind l) s = .next v := by
  obtain ⟨isKind, serve, hkind, hexec, hother, -⟩ := exec_requestCommand r.kind l s
  rw [hexec, State.requestStep_offered h, hkind r rfl, if_pos rfl, hother hk _ _ _ _ hc]

/-- The step of a frame of any kind that the service-state check refuses. -/
theorem exec_of_serviceRefusal (h : RequestOffered s l r) (hs : serviceRefusal s.service r = some st) :
    exec (requestCommand r.kind l) s =
      .next ((if st = .suspended then (s.takeFrame l r).suspendedLease (slotOf l r.station) r
        else s.takeFrame l r).answer (slotOf l r.station) ⟨st, []⟩) := by
  have hs' : serviceRefusal (s.takeFrame l r).service r = some st := hs
  by_cases hk : r.kind = 0x01#8
  · obtain ⟨isKind, serve, hkind, hexec, -, hopen⟩ := exec_requestCommand r.kind l s
    rw [hexec, State.requestStep_offered h, hkind r rfl, if_pos rfl, hopen hk,
      State.serveOpen_of_serviceRefusal hs', State.suspendedLease_of_open hk, ite_self]
  · exact exec_of_commonChecks h hk (State.commonChecks_of_serviceRefusal hs')

/-- The step of a frame other than OPEN that the session check refuses. -/
theorem exec_of_sessionRefusal (h : RequestOffered s l r) (hk : r.kind ≠ 0x01#8)
    (hs : serviceRefusal s.service r = none)
    (hx : sessionRefusal (s.session (slotOf l r.station)) r = some st) :
    exec (requestCommand r.kind l) s =
      .next ((s.takeFrame l r).answer (slotOf l r.station) ⟨st, []⟩) :=
  exec_of_commonChecks h hk
    (State.commonChecks_of_sessionRefusal hs (by rw [State.takeFrame_session]; exact hx))

end Sys2Proof.Machine

open Sys2Proof Sys2Proof.Machine

/-- Settles O26, by the check that refuses and the status it gives. -/
theorem serviceAndSessionRefusals : Obligations.ServiceAndSessionRefusals := by
  intro s l r h i run refused passes
  have refused_of {st : Status} (hexec : run = .next ((s.takeFrame l r).answer i ⟨st, []⟩)) : refused st :=
    ⟨_, _, hexec, s.takeFrame_spec l r, s.taken_answered l r _⟩
  refine ⟨fun hout => ?_, fun hsusp hnot => ?_, fun hpasses hk => ?_⟩
  · exact refused_of (exec_of_serviceRefusal h (serviceRefusal_of_out_of_service hout))
  · have hkind : refusedInSuspended r = true :=
      refusedInSuspended_iff.2 (by_contra fun hadmits => hnot (.inr ⟨hsusp, hadmits⟩))
    have hexec := exec_of_serviceRefusal h (hsusp ▸ serviceRefusal_suspended hkind)
    rw [if_pos rfl, State.suspendedLease, State.takeFrame_session] at hexec
    refine ⟨fun hlease => ?_, fun hlease => ?_⟩
    · rw [if_pos hlease] at hexec
      exact ⟨_, _, hexec, s.begun_spec l r, State.answer_spec (s.begun_replies l r) _⟩
    · rw [if_neg hlease] at hexec
      exact refused_of hexec
  · have hservice : serviceRefusal s.service r = none :=
      serviceRefusal_of_passes (by rw [refusedInSuspended_iff]; exact hpasses)
    have refused_by {st : Status} (hx : sessionRefusal (s.session i) r = some st) : refused st :=
      refused_of (exec_of_sessionRefusal h hk hservice hx)
    exact ⟨fun hidle => refused_by (sessionRefusal_of_idle hidle),
      fun hopen hstale => refused_by (sessionRefusal_of_stale hopen hstale),
      fun hclosing hown => refused_by (sessionRefusal_of_closing hclosing hown)⟩
end

section
/-!
The receiver of a Line Unit: the effect of a character in each state of the assembler, the four tests of a complete
frame, the gap limit, and a break and its end (R146 to R149, R153, R154, R156).
-/

namespace Sys2Proof.Machine

variable {s : State} {l : LineIx} {ch : RxChar} {ln : Line} {n : Nat} {bytes : List Byte} {bad : Bool}

/-! ### Commands that change one Line Unit -/

theorem OnlyLine.updLine (s : State) (l : LineIx) (f : Line → Line) :
    OnlyLine s (s.updLine l f) l (f (s.line l)) :=
  ⟨rfl, State.updLine_line_same _ _ _,
    fun _ hm => State.updLine_line_other _ _ _ _ (List.ne_of_not_mem_cons hm).symm⟩

theorem exec_changesLine {c : Instr} {f : Line → Line} (hexec : exec c s = .next (s.updLine l f))
    (hf : f (s.line l) = ln) : ∃ t, exec c s = .next t ∧ OnlyLine s t l ln :=
  ⟨_, hexec, hf ▸ OnlyLine.updLine s l f⟩

/-! ### Characters that are heard (R147 to R149) -/

theorem exec_requestSyncByte (hh : (s.line l).hears = true) (ha : (s.line l).assembler = .hunt) :
    exec (.requestSyncByte l ch) s = .next (s.updLine l (fun ln => ln.huntCharacter ch)) :=
  congrArg Host.Outcome.next (if_pos ⟨hh, ha⟩)

theorem exec_lengthByte (hh : (s.line l).hears = true) (ha : (s.line l).assembler = .length) :
    exec (.lengthByte l ch) s = .next (s.updLine l (fun ln => ln.lengthCharacter ch)) :=
  congrArg Host.Outcome.next (if_pos ⟨hh, ha⟩)

/-- A body character is collected, and marks the frame if it has an error mark (R148). -/
def Line.collect (ln : Line) (n : Nat) (bytes : List Byte) (bad : Bool) (ch : RxChar) : Line :=
  { ln with assembler := .body n (bytes ++ [ch.data]) (bad || errorMark ln.config.parity ch) }

theorem exec_bodyCharacter (hh : (s.line l).hears = true) (ha : (s.line l).assembler = .body n bytes bad)
    (hn : bytes.length + 1 < n + 2) :
    exec (.bodyCharacter l ch) s = .next (s.updLine l (fun ln => ln.collect n bytes bad ch)) := by
  show execBodyCharacter l ch s = _
  unfold execBodyCharacter
  simp only [ha]
  exact congrArg Host.Outcome.next (if_pos ⟨hh, hn⟩)

theorem exec_frameReceived (hh : (s.line l).hears = true) (ha : (s.line l).assembler = .body n bytes bad)
    (hn : bytes.length + 1 = n + 2) :
    exec (.frameReceived l ch) s = .next (s.updLine l (fun ln =>
      ln.judgeFrame n (bytes ++ [ch.data]) (bad || errorMark ln.config.parity ch))) := by
  show execFrameReceived l ch s = _
  unfold execFrameReceived
  simp only [ha]
  exact congrArg Host.Outcome.next (if_pos ⟨hh, hn⟩)

theorem exec_gapLimitExpiry {idle : Nat} (hs : (s.line l).state = .active)
    (ha : (s.line l).assembler ≠ .hunt)
    (hi : (s.line l).config.gapLimit * characterTime (s.line l).config < idle) :
    exec (.gapLimitExpiry l idle) s = .next (s.updLine l (fun ln => ln.drop .truncated)) :=
  congrArg Host.Outcome.next (if_pos ⟨hs, ha, hi⟩)

/-! ### Characters that are not heard (R146, R153, R154) -/

theorem exec_character_of_unheard (h : (s.line l).hears = false) (ch : RxChar) :
    exec (.requestSyncByte l ch) s = .next s ∧ exec (.lengthByte l ch) s = .next s ∧
      exec (.bodyCharacter l ch) s = .next s ∧ exec (.frameReceived l ch) s = .next s := by
  have hnot (p : Prop) : ¬ ((s.line l).hears = true ∧ p) := fun hx => Bool.eq_false_iff.1 h hx.1
  refine ⟨congrArg Host.Outcome.next (if_neg (hnot _)), congrArg Host.Outcome.next (if_neg (hnot _)), ?_, ?_⟩
  · show execBodyCharacter l ch s = _
    unfold execBodyCharacter
    split
    · exact congrArg Host.Outcome.next (if_neg (hnot _))
    · rfl
    · rfl
  · show execFrameReceived l ch s = _
    unfold execFrameReceived
    split
    · exact congrArg Host.Outcome.next (if_neg (hnot _))
    · rfl
    · rfl

theorem Line.hears_of_breakHold (h : ln.breakHold ≠ .clear) : ln.hears = false := by
  simp [Line.hears, h]

/-! ### The first two bytes of a frame (R147) -/

theorem Line.huntCharacter_eq (ha : ln.assembler = .hunt) (ch : RxChar) : ln.huntCharacter ch =
    { ln with assembler :=
        if ch.data = 0xA5#8 ∧ errorMark ln.config.parity ch = false then .length else .hunt } := by
  unfold Line.huntCharacter
  split
  · rfl
  · rw [← ha]

theorem Line.lengthCharacter_of_marked (h : errorMark ln.config.parity ch = true) :
    ln.lengthCharacter ch = ln.drop .charError := if_pos h

theorem Line.lengthCharacter_of_outside (h : ¬ errorMark ln.config.parity ch = true)
    (hd : ch.data.toNat < 4 ∨ 44 < ch.data.toNat) : ln.lengthCharacter ch = ln.drop .badLength :=
  (if_neg h).trans (if_pos hd)

theorem Line.lengthCharacter_of_inside (h : ¬ errorMark ln.config.parity ch = true)
    (hd : ¬ (ch.data.toNat < 4 ∨ 44 < ch.data.toNat)) :
    ln.lengthCharacter ch = { ln with assembler := .body ch.data.toNat [] false } :=
  (if_neg h).trans (if_neg hd)

/-! ### The tests of a complete frame (R149) -/

/-- The second test passes: the two bytes after the body are the CRC over the length byte and the body. -/
def FrameIntact (n : Nat) (bytes : List Byte) : Prop :=
  bytes.drop n = crcBytes (byteOf n :: bytes.take n)

/-- The third test passes: the version nibble is 1. -/
def FrameVersionKnown (n : Nat) (bytes : List Byte) : Prop :=
  ((bytes.take n).getD 0 0#8).toNat / 16 = 1

theorem Line.judgeFrame_of_marked : ln.judgeFrame n bytes true = ln.drop .charError := rfl

theorem Line.judgeFrame_of_corrupt (h : ¬ FrameIntact n bytes) :
    ln.judgeFrame n bytes false = ln.drop .crc := if_pos (Ne.symm h)

theorem Line.judgeFrame_of_version (h : FrameIntact n bytes) (hv : ¬ FrameVersionKnown n bytes) :
    ln.judgeFrame n bytes false = ln.drop .badVersion :=
  (if_neg (not_not_intro h.symm)).trans (if_pos hv)

theorem Line.judgeFrame_of_full (h : FrameIntact n bytes) (hv : FrameVersionKnown n bytes)
    (hq : 4 ≤ ln.requests.length) : ln.judgeFrame n bytes false = ln.drop .queueDrop :=
  (if_neg (not_not_intro h.symm)).trans ((if_neg (not_not_intro hv)).trans (if_pos hq))

theorem Line.judgeFrame_of_good (h : FrameIntact n bytes) (hv : FrameVersionKnown n bytes)
    (hq : ¬ 4 ≤ ln.requests.length) : ln.judgeFrame n bytes false =
      { ln.record .good with
        requests := ln.requests ++ [requestOfBytes (bytes.take n)], assembler := .hunt } :=
  (if_neg (not_not_intro h.symm)).trans ((if_neg (not_not_intro hv)).trans (if_neg hq))

/-- GOOD raises no cause (R180). -/
theorem Line.record_good (ln : Line) : ln.record .good =
    { ln with counters := { ln.counters with good := countUp ln.counters.good } } := by
  have hcauses : ln.causes ||| lineCauseBit .good = ln.causes := BitVec.or_zero
  unfold Line.record
  rw [hcauses]
  rfl

/-! ### A break and its end (R154, R156) -/

theorem Line.detectsBreak_iff : ln.detectsBreak = true ↔
    ln.state ≠ .disabled ∧ ln.breakHold ≠ .low ∧
      (ln.config.duplex = .full ∨ ln.driverEnabled = false) := by
  simp [Line.detectsBreak, and_assoc]

theorem exec_breakDetected {low : Nat} (hd : (s.line l).detectsBreak = true)
    (hlow : 2 * characterTime (s.line l).config < low) :
    exec (.breakDetected l low) s = .next (s.updLine l Line.breakDetected) :=
  congrArg Host.Outcome.next (if_pos ⟨hd, hlow⟩)

theorem exec_breakDetected_of_ignored {low : Nat}
    (h : ¬ (s.line l).detectsBreak = true ∨ low ≤ 2 * characterTime (s.line l).config) :
    exec (.breakDetected l low) s = .next s :=
  congrArg Host.Outcome.next (if_neg fun hx => h.elim (fun hd => hd hx.1) (Nat.not_le.2 hx.2))

/-- The line begins its restart at once if it is ACTIVE with break action RESTART. -/
theorem Line.breakDetected_of_restart (h : ln.state = .active ∧ ln.config.breakAction = .restart) :
    ln.breakDetected = { ({ ln.drop .brk with breakHold := .low } : Line).stopped with
      state := .restarting, restartStepPending := true } := if_pos h

theorem Line.breakDetected_of_ignore (h : ¬ (ln.state = .active ∧ ln.config.breakAction = .restart)) :
    ln.breakDetected = { ln.drop .brk with breakHold := .low } := if_neg h

/-- A hold that is clear stays so; another one is over once RXD has been high for a character time. -/
theorem Line.breakEnded_eq (ln : Line) (high : Nat) : ln.breakEnded high =
    { ln with breakHold :=
        if ln.breakHold = .clear ∨ characterTime ln.config ≤ high then .clear else .settling } := by
  unfold Line.breakEnded
  by_cases hc : ln.breakHold = .clear
  · rw [if_pos hc, if_pos (.inl hc), ← hc]
  · rw [if_neg hc]
    simp only [hc, false_or]

end Sys2Proof.Machine

open Sys2Proof Sys2Proof.Machine

/-- Settles O11, by the state of the assembler that the character meets. -/
theorem frameAssembly : Obligations.FrameAssembly := by
  intro s l ch ln marked
  refine ⟨fun hh ha => ?_, fun hh ha => ?_, fun n bytes bad hh ha hn => ?_, fun idle hs ha hi => ?_,
    fun hh => exec_character_of_unheard hh ch⟩
  · exact exec_changesLine (exec_requestSyncByte hh ha) (Line.huntCharacter_eq ha ch)
  · refine exec_changesLine (exec_lengthByte hh ha) ?_
    split
    · exact Line.lengthCharacter_of_marked ‹_›
    · split
      · exact Line.lengthCharacter_of_outside ‹_› ‹_›
      · exact Line.lengthCharacter_of_inside ‹_› ‹_›
  · exact exec_changesLine (exec_bodyCharacter hh ha hn) rfl
  · exact exec_changesLine (exec_gapLimitExpiry hs ha hi) rfl

/-- Settles O12, by the first test that fails, if one does. -/
theorem completeFrameIsJudged : Obligations.CompleteFrameIsJudged := by
  intro s l ch n bytes bad ln all body hh ha hn
  refine exec_changesLine (exec_frameReceived hh ha hn) ?_
  show ln.judgeFrame n all (bad || errorMark ln.config.parity ch) = _
  split
  next hmark =>
    rw [(Bool.or_eq_true _ _).mpr hmark]
    exact Line.judgeFrame_of_marked
  next hmark =>
    rw [Bool.eq_false_iff.2 (mt (Bool.or_eq_true _ _).mp hmark)]
    split
    next hcrc => exact Line.judgeFrame_of_corrupt hcrc
    next hcrc =>
      split
      next hversion => exact Line.judgeFrame_of_version (not_not.1 hcrc) hversion
      next hversion =>
        split
        next hfull => exact Line.judgeFrame_of_full (not_not.1 hcrc) (not_not.1 hversion) hfull
        next hfree =>
          rw [Line.judgeFrame_of_good (not_not.1 hcrc) (not_not.1 hversion) hfree, Line.record_good]
          rfl

/-- Settles O13, by the detector, the break action and the hold of the receiver. -/
theorem breakIsDetectedOnce : Obligations.BreakIsDetectedOnce := by
  intro s l ln
  refine ⟨fun low hs hb hd hlow => ?_, fun low h => ?_, fun high => ?_, fun ch hb => ?_⟩
  · refine exec_changesLine (exec_breakDetected (Line.detectsBreak_iff.2 ⟨hs, hb, hd⟩) hlow) ?_
    split
    · exact Line.breakDetected_of_restart ‹_›
    · exact Line.breakDetected_of_ignore ‹_›
  · have hignored : ¬ ln.detectsBreak = true ∨ low ≤ 2 * characterTime ln.config := by
      rw [Line.detectsBreak_iff]
      obtain h | h | ⟨hhalf, hdriven⟩ | h := h
      · exact .inl fun hx => hx.1 h
      · exact .inl fun hx => hx.2.1 h
      · exact .inl fun hx => by simp [hhalf, hdriven] at hx
      · exact .inr h
    exact exec_breakDetected_of_ignored hignored
  · exact exec_changesLine (f := fun ln => ln.breakEnded high) rfl (Line.breakEnded_eq ln high)
  · exact exec_character_of_unheard (Line.hears_of_breakHold hb) ch
end

section
/-!
The transmitter's reply frames (R151 to R153, R186, R187): the filled slot reserved earliest, and the bytes of its
frame.
-/

namespace Sys2Proof.Machine

variable {s : State} {l : LineIx} {idle : Nat} {x : ReplySlot} {c : ReplyContent}
  {before after : List ReplySlot}

/-! ### The filled slot reserved earliest (R151, R152) -/

theorem firstFilled_of_reserved_before (hb : ∀ y ∈ before, y.content = none) (hc : x.content = some c) :
    firstFilled (before ++ x :: after) = some (x, c) := by
  induction before with
  | nil => simp [firstFilled, hc]
  | cons y before ih =>
    obtain ⟨hy, hbefore⟩ := List.forall_mem_cons.1 hb
    rw [List.cons_append, firstFilled, hy]
    exact ih hbefore

theorem withoutFirstFilled_of_reserved_before (hb : ∀ y ∈ before, y.content = none)
    (hc : x.content = some c) : withoutFirstFilled (before ++ x :: after) = before ++ after := by
  induction before with
  | nil => simp [withoutFirstFilled, hc]
  | cons y before ih =>
    obtain ⟨hy, hbefore⟩ := List.forall_mem_cons.1 hb
    rw [List.cons_append, withoutFirstFilled, hy, ih hbefore]
    rfl

/-- The bytes of a reply frame (Table 11.2). -/
theorem replyFrame_eq (x : ReplySlot) (c : ReplyContent) : replyFrame x c =
    let covered := byteOf (6 + c.payload.length) ::
      [byteOf (16 + x.station.val), c.incarnation, x.tag, x.kind, statusCode c.status,
        c.noticeCounter] ++ c.payload
    0x5A#8 :: covered ++ crcBytes covered := by
  have hlength : ([stationByte x.station, c.incarnation, x.tag, x.kind, statusCode c.status,
      c.noticeCounter] ++ c.payload).length = 6 + c.payload.length := by
    rw [List.length_append]; rfl
  unfold replyFrame sealFrame
  rw [hlength]
  rfl

/-! ### The start of a reply frame -/

/-- The frame of a slot's contents is sent, and the filled slot reserved earliest is free. -/
def Line.sendReply (ln : Line) (x : ReplySlot) (c : ReplyContent) : Line :=
  { ln with replies := withoutFirstFilled ln.replies, transmitting := some (replyFrame x c) }

theorem exec_replyFrameStart (hm : (s.line l).mayStart idle = true)
    (hf : firstFilled (s.line l).replies = some (x, c)) :
    exec (.replyFrameStart l idle) s = .next (s.updLine l (fun ln => ln.sendReply x c)) := by
  show execReplyFrameStart l idle s = _
  unfold execReplyFrameStart
  simp only [hf]
  exact congrArg Host.Outcome.next (if_pos hm)

theorem exec_replyFrameStart_of_not_mayStart (hm : (s.line l).mayStart idle = false) :
    exec (.replyFrameStart l idle) s = .next s := by
  show execReplyFrameStart l idle s = _
  unfold execReplyFrameStart
  split
  · exact congrArg Host.Outcome.next (if_neg (Bool.eq_false_iff.1 hm))
  · rfl

end Sys2Proof.Machine

open Sys2Proof Sys2Proof.Machine

/-- Settles O15, by the slots before the filled one and the bytes of its frame. -/
theorem replyFrameOfTheEarliestFilledSlot : Obligations.ReplyFrameOfTheEarliestFilledSlot := by
  intro s l idle ln
  refine ⟨fun before after x c hm hr hb hc => ?_, exec_replyFrameStart_of_not_mayStart, ?_⟩
  · have hfirst : firstFilled ln.replies = some (x, c) := hr ▸ firstFilled_of_reserved_before hb hc
    have hrest : withoutFirstFilled ln.replies = before ++ after :=
      hr ▸ withoutFirstFilled_of_reserved_before hb hc
    refine exec_changesLine (exec_replyFrameStart hm hfirst) ?_
    show ln.sendReply x c = _
    rw [Line.sendReply, hrest, replyFrame_eq]
  · exact exec_changesLine (f := fun ln => { ln with transmitting := none }) rfl rfl
end

section
/-!
The restart step of a restart that a break began (R50, R86, R93, R95, R119, R156).
-/

namespace Sys2Proof.Machine

variable {s : State} {l : LineIx}

/-- The items of a line are let go, and its sessions end with LINE_BREAK. -/
def State.breakCleared (s : State) (l : LineIx) : State :=
  (s.emptyNotices l).restartSessions l .lineBreak false

theorem RestartWrites.breakCleared (s : State) (l : LineIx) : RestartWrites s (s.breakCleared l) :=
  (emptyNotices s l).trans (restartSessions _ l .lineBreak false)

theorem State.restartStep_eq (s : State) (l : LineIx) : s.restartStep l =
    (s.breakCleared l).updLine l (fun ln => { ln with restartStepPending := false, state := .active }) := rfl

theorem RestartWrites.updLine (s : State) (l : LineIx) (f : Line → Line) :
    RestartWrites s (s.updLine l f) := rfl

theorem RestartWrites.restartStep (s : State) (l : LineIx) : RestartWrites s (s.restartStep l) := by
  rw [State.restartStep_eq]
  exact (breakCleared s l).trans (updLine _ l _)

theorem State.breakCleared_line (s : State) (l m : LineIx) : (s.breakCleared l).line m =
    if l = m then { s.line l with notices := [] } else s.line m := by
  have hlines : (s.breakCleared l).lines = (s.emptyNotices l).lines :=
    State.restartSessions_lines _ l .lineBreak false
  rw [State.line_congr hlines, State.emptyNotices_line]

theorem State.restartStep_line (s : State) (l m : LineIx) : (s.restartStep l).line m =
    if l = m then { s.line l with state := .active, restartStepPending := false, notices := [] }
    else s.line m := by
  rw [State.restartStep_eq, State.updLine_line, State.breakCleared_line, State.breakCleared_line, if_pos rfl]
  split <;> rfl

/-- The arbiter's pointer is no part of what the restart step lets go and restarts. -/
theorem LineRestarted.restartStep (s : State) (l : LineIx) (p : SourceIx) :
    LineRestarted s ((s.served p).restartStep l) l .lineBreak false := by
  have hd := ItemsDiscarded.emptyNotices (s.served p) l
  have hcleared : LineRestarted s ((s.served p).breakCleared l) l .lineBreak false :=
    .of_steps ⟨hd.claim, hd.session, hd.deadlines, hd.free⟩ (.restartSessions _ l _ _)
  rw [State.restartStep_eq]
  generalize (s.served p).breakCleared l = u at hcleared
  exact hcleared

theorem exec_restartStep (hchoice : s.arbiterChoice = some (srcLine l))
    (hs : (s.line l).state = .restarting) (hp : (s.line l).restartStepPending = true) :
    exec (.restartStep l) s = .next ((s.served (srcLine l)).restartStep l) :=
  congrArg Host.Outcome.next (if_pos ⟨hchoice, hs, hp⟩)

end Sys2Proof.Machine

open Sys2Proof Sys2Proof.Machine

/-- Settles O14, by what the step writes and the restart of the line's sessions. -/
theorem restartStepEndsTheSessionsOfItsLine : Obligations.RestartStepEndsTheSessionsOfItsLine := by
  intro s l hchoice hs hp
  have hline := (s.served (srcLine l)).restartStep_line l
  exact ⟨_, exec_restartStep hchoice hs hp, RestartWrites.restartStep _ l, (hline l).trans (if_pos rfl),
    fun m hm => (hline m).trans (if_neg (List.ne_of_not_mem_cons hm).symm), .restartStep s l _⟩
end

section
/-!
LINE CONFIG and LINE ENABLE by the state of the line, and the line commands whose line number is out of range (R144,
R158, R189).
-/

namespace Sys2Proof.Machine

variable {s : State} {l : LineIx}

/-! ### A line number out of range -/

theorem State.lineCommand_of_none {run : State → LineIx → State} (h : s.paramLine = none) :
    s.lineCommand run = s.complete .badValue [] := by
  unfold State.lineCommand
  rw [h]

/-- A line command that is offered without a line completes with BAD_VALUE. -/
theorem exec_lineCommand_of_none {c : Instr} {run : State → LineIx → State}
    (hexec : exec c s = .next ((taken s).lineCommand run)) (hp : s.paramLine = none) :
    ∃ t, exec c s = .next t ∧ Completed (taken s) t .badValue [] :=
  exec_completes (run := fun v => v.lineCommand run) hexec (State.lineCommand_of_none (s := taken s) hp)

/-- A line command that is offered completes with what its work on the line it names gives. -/
theorem exec_lineCommand_of_some {c : Instr} {run : State → LineIx → State} {v : State} {r : ResultCode}
    {bytes : List Byte} (hexec : exec c s = .next ((taken s).lineCommand run)) (hp : s.paramLine = some l)
    (hrun : run (taken s) l = v.complete r bytes) :
    ∃ t, exec c s = .next t ∧ Completed v t r bytes :=
  exec_completes (run := fun v => v.lineCommand run) hexec
    ((State.lineCommand_of_some (s := taken s) hp).trans hrun)

theorem exec_lineConfig (h : CommandOffered s 0x40#8) :
    exec .lineConfig s = .next ((taken s).lineCommand State.configureLine) :=
  congrArg Host.Outcome.next (commandStep_runs _ h rfl)

theorem exec_lineEnable (h : CommandOffered s 0x41#8) :
    exec .lineEnable s = .next ((taken s).lineCommand State.enableLine) :=
  congrArg Host.Outcome.next (commandStep_runs _ h rfl)

theorem exec_lineDisable (h : CommandOffered s 0x42#8) :
    exec .lineDisable s = .next ((taken s).lineCommand State.disableLine) :=
  congrArg Host.Outcome.next (commandStep_runs _ h rfl)

theorem exec_lineRestart (h : CommandOffered s 0x43#8) :
    exec .lineRestart s = .next ((taken s).lineCommand State.restartLine) :=
  congrArg Host.Outcome.next (commandStep_runs _ h rfl)

/-! ### The configuration of the parameter bytes (R144, Table 8.1) -/

theorem parityOfNumber_eq (v : Nat) : parityOfNumber v =
    if v ≤ 2 then some (if v = 0 then .none else if v = 1 then .even else .odd) else none := by
  match v with
  | 0 => rfl
  | 1 => rfl
  | 2 => rfl
  | v + 3 => rw [if_neg (by omega)]; rfl

theorem duplexOfNumber_eq (v : Nat) : duplexOfNumber v =
    if v ≤ 1 then some (if v = 0 then .full else .half) else none := by
  match v with
  | 0 => rfl
  | 1 => rfl
  | v + 2 => rw [if_neg (by omega)]; rfl

theorem breakActionOfNumber_eq (v : Nat) : breakActionOfNumber v =
    if v ≤ 1 then some (if v = 0 then .ignore else .restart) else none := by
  match v with
  | 0 => rfl
  | 1 => rfl
  | v + 2 => rw [if_neg (by omega)]; rfl

/-- Every item of the parameter bytes lies in the range of Table 8.1. The divisor's two bytes hold no number above
65,535. -/
def State.LineConfigFits (s : State) : Prop :=
  1 ≤ s.param 1 2 ∧ s.param 3 1 ≤ 2 ∧ s.param 4 1 ≤ 1 ∧
    1 ≤ s.param 5 1 ∧ s.param 5 1 ≤ 16 ∧ 2 ≤ s.param 6 1 ∧ s.param 6 1 ≤ 32 ∧
    1 ≤ s.param 7 1 ∧ s.param 7 1 ≤ 7 ∧ s.param 8 1 ≤ 1

/-- The configuration that the parameter bytes name if they fit. -/
def State.namedLineConfig (s : State) : LineConfig :=
  { divisor := s.param 1 2,
    parity := if s.param 3 1 = 0 then .none else if s.param 3 1 = 1 then .even else .odd,
    duplex := if s.param 4 1 = 0 then .full else .half,
    turnaround := s.param 5 1, gapLimit := s.param 6 1, ringFloor := s.param 7 1,
    breakAction := if s.param 8 1 = 0 then .ignore else .restart }

/-- The three named items are in range, and so are the numeric ones. -/
theorem State.lineConfigFits_iff (s : State) : s.LineConfigFits ↔
    (s.param 3 1 ≤ 2 ∧ s.param 4 1 ≤ 1 ∧ s.param 8 1 ≤ 1) ∧ s.namedLineConfig.inRange = true := by
  have hdivisor : s.param 1 2 < 65536 := s.param_lt 1 2
  simp only [State.LineConfigFits, LineConfig.inRange_iff, State.namedLineConfig]
  omega

theorem State.paramLineConfig_of_fits (h : s.LineConfigFits) :
    s.paramLineConfig = some s.namedLineConfig := by
  obtain ⟨⟨hp, hd, hb⟩, hrange⟩ := s.lineConfigFits_iff.1 h
  unfold State.paramLineConfig
  rw [parityOfNumber_eq, duplexOfNumber_eq, breakActionOfNumber_eq, if_pos hp, if_pos hd, if_pos hb]
  exact if_pos hrange

theorem State.paramLineConfig_of_unfit (h : ¬ s.LineConfigFits) : s.paramLineConfig = none := by
  unfold State.paramLineConfig
  rw [parityOfNumber_eq, duplexOfNumber_eq, breakActionOfNumber_eq]
  by_cases hp : s.param 3 1 ≤ 2
  · by_cases hd : s.param 4 1 ≤ 1
    · by_cases hb : s.param 8 1 ≤ 1
      · rw [if_pos hp, if_pos hd, if_pos hb]
        exact if_neg fun hrange => h (s.lineConfigFits_iff.2 ⟨⟨hp, hd, hb⟩, hrange⟩)
      · rw [if_pos hp, if_pos hd, if_neg hb]
    · rw [if_pos hp, if_neg hd]
  · rw [if_neg hp]

/-! ### LINE CONFIG and LINE ENABLE on a line (R158) -/

theorem State.configureLine_of_enabled (h : (s.line l).state ≠ .disabled) :
    s.configureLine l = s.complete .badState [lineStateCode (s.line l).state] := if_pos h

theorem State.configureLine_of_unfit (h : (s.line l).state = .disabled) (hf : ¬ s.LineConfigFits) :
    s.configureLine l = s.complete .badValue [0#8] := by
  unfold State.configureLine
  rw [if_neg (not_not_intro h), State.paramLineConfig_of_unfit hf]
  exact State.completeLine_eq h _

theorem State.configureLine_of_fits (h : (s.line l).state = .disabled) (hf : s.LineConfigFits) :
    s.configureLine l =
      (s.updLine l (fun ln => { ln with config := s.namedLineConfig })).complete .ok [0#8] := by
  have hline : ((s.updLine l (fun ln => { ln with config := s.namedLineConfig })).line l).state =
      .disabled := by rw [State.updLine_line_same]; exact h
  unfold State.configureLine
  rw [if_neg (not_not_intro h), State.paramLineConfig_of_fits hf]
  exact State.completeLine_eq hline _

theorem State.enableLine_of_disabled (h : (s.line l).state = .disabled) : s.enableLine l =
    (s.updLine l (fun ln => { ln with state := .active, assembler := .hunt })).complete .ok [1#8] := by
  have hline : ((s.updLine l (fun ln => { ln with state := .active, assembler := .hunt })).line l).state =
      .active := by rw [State.updLine_line_same]
  unfold State.enableLine
  rw [h]
  exact State.completeLine_eq hline _

theorem State.enableLine_of_active (h : (s.line l).state = .active) :
    s.enableLine l = s.complete .ok [1#8] := by
  unfold State.enableLine
  rw [h]
  exact State.completeLine_eq h _

theorem State.enableLine_of_restarting (h : (s.line l).state = .restarting) :
    s.enableLine l = s.complete .badState [2#8] := by
  unfold State.enableLine
  rw [h]
  exact State.completeLine_eq h _

end Sys2Proof.Machine

open Sys2Proof Sys2Proof.Machine

/-- Settles O47, by the line named, its state and the ranges of the parameter bytes. -/
theorem linesAreConfiguredAndEnabled : Obligations.LinesAreConfiguredAndEnabled := by
  refine fun s => ⟨fun c h hp => ?_, fun l hp => ?_⟩
  · obtain ⟨h, rfl⟩ | ⟨h, rfl⟩ | ⟨h, rfl⟩ | ⟨h, rfl⟩ := h
    · exact exec_lineCommand_of_none (exec_lineConfig h) hp
    · exact exec_lineCommand_of_none (exec_lineEnable h) hp
    · exact exec_lineCommand_of_none (exec_lineDisable h) hp
    · exact exec_lineCommand_of_none (exec_lineRestart h) hp
  intro ln code fits config
  refine ⟨fun h => ?_, fun h => ?_⟩
  · have configures {v r bytes} :=
      exec_lineCommand_of_some (v := v) (r := r) (bytes := bytes) (exec_lineConfig h) hp
    refine ⟨fun hs => ?_, fun hs hf => ?_, fun hs hf => ?_⟩
    · have hcode : lineStateCode ((taken s).line l).state = code := by
        show lineStateCode ln.state = code
        cases hst : ln.state <;> simp only [code, hst] <;> rfl
      exact configures (hcode ▸ State.configureLine_of_enabled (s := taken s) hs)
    · exact configures (State.configureLine_of_unfit (s := taken s) hs hf)
    · obtain ⟨t, hexec, hdone⟩ := configures (State.configureLine_of_fits (s := taken s) hs hf)
      exact ⟨_, t, hexec, .updLine (taken s) l _, hdone⟩
  · have enables {v r bytes} :=
      exec_lineCommand_of_some (v := v) (r := r) (bytes := bytes) (exec_lineEnable h) hp
    refine ⟨fun hs => ?_, fun hs => ?_, fun hs => ?_⟩
    · obtain ⟨t, hexec, hdone⟩ := enables (State.enableLine_of_disabled (s := taken s) hs)
      exact ⟨_, t, hexec, .updLine (taken s) l _, hdone⟩
    · exact enables (State.enableLine_of_active (s := taken s) hs)
    · exact enables (State.enableLine_of_restarting (s := taken s) hs)
end

section
/-!
The host port: what a byte of a WRITE does at its window address, the bytes and commands of a SPI transaction, and
what MISO shifts out (R161, R162, R164, R178, R188).
-/

namespace Sys2Proof.Machine

variable {s : State} {p : SpiPlace} {addr data : Byte} {a : Nat} {write : State → State}

/-! ### A data byte of a WRITE (R161) -/

/-- A byte that is taken is written, and the WRITE in progress moves past it. -/
theorem State.spiByte_of_taken (h : ByteTaken s p a) :
    s.spiByte p a write = spiMoved (write s) p a := if_pos h

theorem State.spiByte_of_ignored (hf : p.first = false) (hw : s.spiWrite ≠ some a) :
    s.spiByte p a write = s :=
  if_neg (not_or.2 ⟨Bool.eq_false_iff.1 hf, hw⟩)

theorem exec_registerWrite_of_taken (h : ByteTaken s p (addr.toNat % 64)) :
    exec (.registerWrite addr data p) s =
      .next (spiMoved (s.writeWindow (addr.toNat % 64) data) p (addr.toNat % 64)) :=
  congrArg Host.Outcome.next (State.spiByte_of_taken h)

theorem exec_mailboxAck_of_taken (h : ByteTaken s p 0) :
    exec (.mailboxAck p) s = .next (spiMoved (s.writeCommandCode Config.ackCode) p 0) :=
  congrArg Host.Outcome.next (State.spiByte_of_taken h)

/-! ### The command code byte (R164) -/

theorem State.writeCommandCode_of_idle (hd : data ≠ Config.ackCode) (hm : s.mailbox = .idle) :
    s.writeCommandCode data = { s with commandCode := data, mailbox := .busy false } := by
  unfold State.writeCommandCode
  rw [hm]
  exact if_neg hd

theorem State.writeCommandCode_of_not_idle (hd : data ≠ Config.ackCode) (hm : s.mailbox ≠ .idle) :
    s.writeCommandCode data = s.raise .mailboxCollision := by
  unfold State.writeCommandCode
  split
  next hidle => exact absurd hidle hm
  next => rfl
  next => exact if_neg hd

theorem State.writeCommandCode_ack_of_done (hm : s.mailbox = .done) :
    s.writeCommandCode Config.ackCode = { s with mailbox := .idle } := by
  unfold State.writeCommandCode
  rw [hm]
  exact if_pos rfl

theorem State.writeCommandCode_ack_of_not_done (hm : s.mailbox ≠ .done) :
    s.writeCommandCode Config.ackCode = s.raise .mailboxCollision := by
  unfold State.writeCommandCode
  split
  next => exact if_pos rfl
  next => rfl
  next hdone => exact absurd hdone hm

/-! ### The other bytes of the window (R162, R188) -/

theorem State.writeWindow_param (s : State) (k : Fin 20) (data : Byte) :
    s.writeWindow (0x14 + k.val) data = { s with params := s.params.set k.val data } := by
  unfold State.writeWindow
  rw [if_neg (by omega), if_neg (by omega), if_neg (by omega), dif_neg (by omega), dif_pos (by omega)]
  simp only [Nat.add_sub_cancel_left]

/-- The identification, the settings and counts at 0x0A to 0x13, and the result bytes ignore writes. -/
theorem State.writeWindow_of_ignored (h : a = 0x01 ∨ (0x0A ≤ a ∧ a ≤ 0x13) ∨ 0x28 ≤ a) :
    s.writeWindow a data = s := by
  unfold State.writeWindow
  rw [if_neg (by omega), if_neg (by omega), if_neg (by omega), dif_neg (by omega), dif_neg (by omega)]

theorem State.window_length (s : State) : s.window.length = 64 := by
  simp [State.window, beBytes_length]

/-! ### The byte writes and the commands of a transaction (R161) -/

theorem writesFrom_length (a : Nat) (bytes : List Byte) : (writesFrom a bytes).length = bytes.length := by
  induction bytes generalizing a with
  | nil => rfl
  | cons b rest ih => rw [writesFrom, List.length_cons, ih, List.length_cons]

/-- Data byte `k` goes `k` addresses on, modulo 64. -/
theorem writesFrom_getElem? (ha : a < 64) (bytes : List Byte) (k : Nat) :
    (writesFrom a bytes)[k]? = bytes[k]?.map (fun b => ((a + k) % 64, b)) := by
  induction bytes generalizing a k with
  | nil => rfl
  | cons b rest ih =>
    cases k with
    | zero => simp [writesFrom, Nat.mod_eq_of_lt ha]
    | succ k =>
      have hnext : ((a + 1) % 64 + k) % 64 = (a + (k + 1)) % 64 := by omega
      rw [writesFrom, List.getElem?_cons_succ, List.getElem?_cons_succ, ih (by omega), hnext]

/-- Of the commands that end their transaction only the first stands as given, and only the last ends it. -/
theorem placedCommands_getElem? (first : Bool) (ws : List (Nat × Byte)) (k : Nat) :
    (placedCommands first ws)[k]? = ws[k]?.map (fun w =>
      writeCommand ⟨first && decide (k = 0), decide (k + 1 = ws.length)⟩ w) := by
  induction ws generalizing first k with
  | nil => rfl
  | cons w rest ih =>
    cases rest with
    | nil => cases k <;> simp [placedCommands]
    | cons v rest =>
      rw [placedCommands.eq_3 _ _ _ (List.cons_ne_nil v rest)]
      cases k with
      | zero => simp
      | succ k => simp [ih]

theorem spiWrites_write (addr : Byte) (bytes : List Byte) :
    spiWrites (0x02#8 :: addr :: bytes) = writesFrom (addr.toNat % 64) bytes := rfl

theorem spiWrites_of_no_write {bytes : List Byte} (h : bytes.head? ≠ some 0x02#8 ∨ bytes.length < 2) :
    spiWrites bytes = [] := by
  unfold spiWrites
  split
  next instruction addr rest =>
    refine if_neg fun hx => ?_
    obtain h | h := h
    · exact h (congrArg some hx)
    · exact absurd h (by simp)
  next => rfl

/-! ### MISO (R161) -/

/-- From the third byte of a READ on MISO shifts out the window from the address on, modulo 64. -/
theorem State.miso_read (s : State) (addr : Byte) {bytes : List Byte} {k : Nat} (hk : k < bytes.length) :
    s.miso (some (0x0B#8 :: addr :: bytes)) (k + 2) = s.window[(addr.toNat % 64 + k) % 64]? := by
  have hplace : (addr.toNat % 64 + k) % 64 < s.window.length := by
    rw [State.window_length]
    exact Nat.mod_lt _ (by decide)
  rw [List.getElem?_eq_getElem hplace]
  show some (((List.range bytes.length).map
    (fun j => s.window.getD ((addr.toNat % 64 + j) % 64) 0#8)).getD k 0#8) = _
  rw [List.getD_eq_getElem _ _ (by simpa using hk), List.getElem_map, List.getElem_range,
    List.getD_eq_getElem _ _ hplace]

end Sys2Proof.Machine

open Sys2Proof Sys2Proof.Machine

/-- Settles O8, by the byte that is taken or ignored, the place of each byte of a transaction, and the window. -/
theorem writesReachTheirWindowBytes : Obligations.WritesReachTheirWindowBytes := by
  refine ⟨fun s p addr data htaken => ⟨fun k hk => ?_, fun hignored => ?_⟩, fun s p hf => ?_,
    fun s t hexec a => ?_, fun addr data k => ?_, fun bytes h => ?_,
    fun s k => ⟨rfl, fun addr data hk => s.miso_read addr hk⟩⟩
  · have hexec := exec_registerWrite_of_taken (data := data) htaken
    rw [hk, State.writeWindow_param] at hexec
    refine ⟨_, hexec, by rw [hk]; rfl, ?_, fun j hj => ?_⟩
    · exact Vector.getElem_set_self k.isLt
    · exact Vector.getElem_set_ne k.isLt j.isLt (fun hx => hj (Fin.ext hx.symm))
  · rw [exec_registerWrite_of_taken htaken, State.writeWindow_of_ignored hignored]
  · have ignored {a : Nat} {write : State → State} (hw : s.spiWrite ≠ some a) :
        Host.Outcome.next (s.spiByte p a write) = (.next s : Result) :=
      congrArg Host.Outcome.next (State.spiByte_of_ignored hf hw)
    exact ⟨fun _ _ => ignored, ignored, fun _ => ignored, fun _ => ignored,
      fun _ _ hw => ⟨ignored hw, ignored hw⟩⟩
  · cases hexec
    exact nofun
  · have hwrites := writesFrom_getElem? (Nat.mod_lt addr.toNat (by decide : 64 > 0)) data k
    refine ⟨hwrites, ?_⟩
    rw [spiCommands, placedCommands_getElem?, spiWrites_write, hwrites, writesFrom_length, Option.map_map]
    rfl
  · have hwrites := spiWrites_of_no_write h
    exact ⟨hwrites, by rw [spiCommands, hwrites]; rfl⟩

/-- Settles O7, by the mailbox state in which the command code byte is written. -/
theorem commandCodeWritesMoveTheMailbox : Obligations.CommandCodeWritesMoveTheMailbox := by
  intro s p addr data haddr htaken
  have hwrite : exec (.registerWrite addr data p) s = .next (spiMoved (s.writeCommandCode data) p 0) := by
    have hexec := exec_registerWrite_of_taken (data := data) (haddr.symm ▸ htaken)
    rwa [haddr] at hexec
  have hack := exec_mailboxAck_of_taken htaken
  refine ⟨fun hd hm => ?_, fun hd hm => ?_, fun hm => ?_, fun hm => ?_, rfl⟩
  · rw [hwrite, State.writeCommandCode_of_idle hd hm]; rfl
  · rw [hwrite, State.writeCommandCode_of_not_idle hd hm]; rfl
  · rw [hack, State.writeCommandCode_ack_of_done hm]; rfl
  · rw [hack, State.writeCommandCode_ack_of_not_done hm]; rfl
end

section
/-!
INSPECT SESSION and INSPECT LOCK, SET LEASE BOUNDS, SET POOL THRESHOLD, READ COUNTERS and a code in no row of
the table of commands (R165, R173 to R177, R189).
-/

namespace Sys2Proof.Machine

variable {s : State} {i : SlotIx} {l : LineIx}

/-! ### INSPECT SESSION (R174) -/

/-- The bytes of Table 11.5, with the deadline of the lease as a number, 0 if there is none. -/
theorem State.sessionResult_eq {x : Session} {deadline : Nat} (hx : s.session i = x)
    (hd : x.leaseDeadline.getD 0 = deadline) : s.sessionResult i =
      [sessionStateCode x.state, x.incarnation, byteOf x.ring] ++ beBytes 2 x.lease ++
        beBytes 5 deadline ++ beBytes 2 x.heldCount ++ beBytes 2 x.waitingCount ++
        [x.noticeCounter, endCauseCode x.endCause, flagByte x.noticeSuppressed, flagByte x.closeReply] ++
        beBytes 5 s.time := by
  rw [← hd, ← hx]
  rfl

/-! ### INSPECT LOCK (R173) -/

/-- The bytes of Table 11.5, with the session of the pending upgrade as a byte, 0xFF if there is none. -/
theorem State.lockResult_eq {e : EntryIx} {x : Entry} {asker : Byte} (hx : s.entry e = x)
    (hu : x.upgrade.elim 0xFF#8 (fun c => byteOf (s.claim c).session.val) = asker) (first : Nat) :
    s.lockResult e first =
      let shown := (x.holders.drop first).take 2
      beBytes 2 e.val ++ [modeCode x.mode, byteOf x.holders.length, byteOf x.waiters.length, asker,
        byteOf shown.length] ++ shown.flatMap s.holderResult := by
  unfold State.lockResult
  rw [← hu, hx]
  dsimp only
  cases x.upgrade <;> rfl

theorem State.inspectLock_of_bad_value (h : s.paramNs = none ∨ 15 < s.param 5 1) :
    s.inspectLock = s.complete .badValue [] := by
  unfold State.inspectLock
  split
  next => rfl
  next k hk =>
    have hplace := h.resolve_left fun hn => by
      unfold State.paramKey at hk; rw [hn] at hk; cases hk
    exact if_neg (Nat.not_le_of_lt hplace)

theorem State.inspectLock_absent {k : Key} (hk : s.paramKey = some k) (hp : s.param 5 1 ≤ 15)
    (hl : s.lookup k = none) : s.inspectLock = s.complete .notFound [] := by
  unfold State.inspectLock
  rw [hk]
  simp only [if_pos hp, hl]

theorem State.inspectLock_present {k : Key} {e : EntryIx} (hk : s.paramKey = some k)
    (hp : s.param 5 1 ≤ 15) (hl : s.lookup k = some e) :
    s.inspectLock = s.complete .ok (s.lockResult e (s.param 5 1)) := by
  unfold State.inspectLock
  rw [hk]
  simp only [if_pos hp, hl]

/-! ### SET LEASE BOUNDS and SET POOL THRESHOLD (R26, R175, R176) -/

theorem State.setLeaseBounds_of_fits (h : 50 ≤ s.param 0 2 ∧ s.param 0 2 ≤ s.param 2 2) :
    s.setLeaseBounds = ({ s with leaseMin := s.param 0 2, leaseMax := s.param 2 2 } : State).complete .ok
      (beBytes 2 (s.param 0 2) ++ beBytes 2 (s.param 2 2)) := if_pos h

theorem State.setLeaseBounds_of_unfit (h : ¬ (50 ≤ s.param 0 2 ∧ s.param 0 2 ≤ s.param 2 2)) :
    s.setLeaseBounds = s.complete .badValue (beBytes 2 s.leaseMin ++ beBytes 2 s.leaseMax) := if_neg h

/-- The threshold is written, and POOL_LOW raised if the free claim count is below it. -/
def State.withPoolThreshold (s : State) (n : Nat) : State :=
  { s with poolThreshold := n,
           deviceCauses := s.deviceCauses ||| (if s.freeClaimCount < n then 0x08#7 else 0#7) }

theorem State.setPoolThreshold_of_fits (h : s.param 0 2 ≤ 4096) : s.setPoolThreshold =
    (s.withPoolThreshold (s.param 0 2)).complete .ok
      (beBytes 2 (s.param 0 2) ++ beBytes 2 s.freeClaimCount) := by
  unfold State.setPoolThreshold State.withPoolThreshold
  dsimp only
  rw [if_pos h]
  split
  · rfl
  · rw [BitVec.or_zero]

theorem State.setPoolThreshold_of_unfit (h : 4096 < s.param 0 2) : s.setPoolThreshold =
    s.complete .badValue (beBytes 2 s.poolThreshold ++ beBytes 2 s.freeClaimCount) :=
  if_neg (Nat.not_le_of_lt h)

/-! ### READ COUNTERS (R159, R177) -/

theorem LineCounters.toBytes_eq (k : LineCounters) : k.toBytes =
    beBytes 2 k.good ++ beBytes 2 k.crc ++ beBytes 2 k.truncated ++ beBytes 2 k.badLength ++
      beBytes 2 k.badVersion ++ beBytes 2 k.charError ++ beBytes 2 k.queueDrop ++ beBytes 2 k.brk := by
  simp [LineCounters.toBytes]

theorem DeviceCounters.toBytes_eq (k : DeviceCounters) : k.toBytes =
    beBytes 2 k.grants ++ beBytes 2 k.refusals ++ beBytes 2 k.leaseExpiries ++
      beBytes 2 k.waitExpiries ++ beBytes 2 k.revokes := by
  simp [DeviceCounters.toBytes]

theorem State.paramLine_eq_none_of_le (h : 6 ≤ s.param 0 1) : s.paramLine = none :=
  dif_neg (Nat.not_lt_of_le h)

theorem State.readCounters_of_line (hp : s.paramLine = some l) : s.readCounters =
    (s.updLine l (fun ln => { ln with counters := LineCounters.reset })).complete .ok
      (s.line l).counters.toBytes := by
  unfold State.readCounters
  rw [hp]

theorem State.readCounters_of_device (h : s.param 0 1 = 6) : s.readCounters =
    ({ s with counters := DeviceCounters.reset } : State).complete .ok s.counters.toBytes := by
  unfold State.readCounters
  rw [State.paramLine_eq_none_of_le h.ge]
  exact if_pos h

theorem State.readCounters_of_outside (h : 6 < s.param 0 1) :
    s.readCounters = s.complete .badValue [] := by
  unfold State.readCounters
  rw [State.paramLine_eq_none_of_le h.le]
  exact if_neg h.ne'

/-! ### Unknown commands (R165) -/

theorem isKnownCommand_iff {code : Byte} : isKnownCommand code.toNat = true ↔
    code ∈ [0x01#8, 0x02#8, 0x03#8, 0x04#8, 0x10#8, 0x11#8, 0x12#8, 0x20#8, 0x21#8, 0x30#8, 0x31#8,
      0x40#8, 0x41#8, 0x42#8, 0x43#8, 0x50#8, 0x51#8, 0x60#8] := by
  simp [isKnownCommand, ← BitVec.toNat_inj]

end Sys2Proof.Machine

open Sys2Proof Sys2Proof.Machine

/-- Settles O44, by the record that the parameter bytes name; its bytes are those of `sessionResult` and
`lockResult`, read on the state in which the command is taken. -/
theorem inspectionsReportAndChangeNothing : Obligations.InspectionsReportAndChangeNothing := by
  refine fun s => ⟨fun h => ?_, fun h => ?_⟩
  · have hexec : exec .inspectSession s = .next ((taken s).slotCommand State.inspectSession) :=
      congrArg Host.Outcome.next (commandStep_runs _ h rfl)
    have completes {v r bytes} := exec_completes (v := v) (code := r) (bytes := bytes)
      (run := fun t => t.slotCommand State.inspectSession) hexec
    refine ⟨fun hp => completes (State.slotCommand_of_none (s := taken s) hp), fun i hp => completes
      ((State.slotCommand_of_some (s := taken s) hp).trans (congrArg ((taken s).complete .ok) ?_))⟩
    exact State.sessionResult_eq (s := taken s) (x := s.session i) rfl
      (by cases (s.session i).leaseDeadline <;> rfl)
  · have hexec : exec .inspectLock s = .next (taken s).inspectLock :=
      congrArg Host.Outcome.next (commandStep_runs _ h rfl)
    refine ⟨fun hbad => exec_completes hexec (State.inspectLock_of_bad_value (s := taken s) hbad),
      fun n hn hplace => ?_⟩
    have hkey := State.paramKey_eq (s := taken s) hn
    refine ⟨fun hl => exec_completes hexec (State.inspectLock_absent hkey hplace hl),
      fun e hl => exec_completes hexec ((State.inspectLock_present hkey hplace hl).trans
        (congrArg ((taken s).complete .ok) ?_))⟩
    exact State.lockResult_eq (s := taken s) (x := s.entry e) rfl
      (by cases (s.entry e).upgrade <;> rfl) _

/-- Settles O49, by the ranges of the parameters and the group of counters named. -/
theorem settingsCountersAndUnknownCodes : Obligations.SettingsCountersAndUnknownCodes := by
  refine fun s => ⟨fun h => ?_, fun h => ?_, fun h => ?_, fun hchoice hcode => ?_⟩
  · have hexec : exec .setLeaseBounds s = .next (taken s).setLeaseBounds :=
      congrArg Host.Outcome.next (commandStep_runs _ h rfl)
    exact ⟨fun hfit => exec_completes hexec (State.setLeaseBounds_of_fits (s := taken s) hfit),
      fun hfit => exec_completes hexec (State.setLeaseBounds_of_unfit (s := taken s) hfit)⟩
  · have hexec : exec .setPoolThreshold s = .next (taken s).setPoolThreshold :=
      congrArg Host.Outcome.next (commandStep_runs _ h rfl)
    exact ⟨fun hfit => exec_completes hexec (State.setPoolThreshold_of_fits (s := taken s) hfit),
      fun hfit => exec_completes hexec (State.setPoolThreshold_of_unfit (s := taken s) hfit)⟩
  · have hexec : exec .readCounters s = .next (taken s).readCounters :=
      congrArg Host.Outcome.next (commandStep_runs _ h rfl)
    refine ⟨fun l hp => ?_, fun hp => ?_, fun hp => ?_⟩
    · obtain ⟨t, ht, hdone⟩ := exec_completes hexec (State.readCounters_of_line (s := taken s) hp)
      rw [LineCounters.toBytes_eq] at hdone
      exact ⟨_, t, ht, .updLine (taken s) l _, hdone⟩
    · obtain ⟨t, ht, hdone⟩ := exec_completes hexec (State.readCounters_of_device (s := taken s) hp)
      rw [DeviceCounters.toBytes_eq] at hdone
      exact ⟨t, ht, hdone⟩
    · exact exec_completes hexec (State.readCounters_of_outside (s := taken s) hp)
  · have hexec : exec .unknownCommand s = .next (taken s).rejectCommand := by
      refine congrArg Host.Outcome.next ((State.commandStep_offered hchoice _ _).trans (if_pos ?_))
      rw [Bool.not_eq_true', Bool.eq_false_iff]
      exact mt isKnownCommand_iff.1 hcode
    exact exec_completes hexec rfl
end

section
/-!
Host writes of the cause and mask bytes, bit by bit, and ATTN_N as the sum of the unmasked causes (R181, R182,
R188).
-/

-- One theorem at a time: side by side they would need more memory than the check gives.
set_option Elab.async false

namespace Sys2Proof.Machine

variable {s : State} {p : SpiPlace} {l : LineIx} {data : Byte} {w k : Nat}

/-! ### Cause and mask registers as bits -/

/-- Causes written 1 are cleared, and the bits above the register's width are ignored. -/
theorem getLsbD_cleared (causes : BitVec w) (data : Byte) (hk : k < w) :
    (causes &&& ~~~(data.setWidth w)).getLsbD k = (causes.getLsbD k && !data.getLsbD k) := by
  simp [hk]

/-- Some cause of a register is set and unmasked. -/
theorem unmasked_iff (causes masks : BitVec w) : (causes &&& ~~~masks != 0#w) = true ↔
    ∃ k, k < w ∧ causes.getLsbD k = true ∧ masks.getLsbD k = false := by
  rw [bne_iff_ne, ne_eq, BitVec.eq_of_getLsbD_eq_iff]
  push Not
  exact exists_congr fun k => and_congr_right fun hk => by simp [hk]

/-! ### ATTN_N (R182) -/

theorem State.deviceSummary_iff : s.deviceSummary = true ↔
    ∃ k, k < 7 ∧ s.deviceCauses.getLsbD k = true ∧ s.deviceMask.getLsbD k = false :=
  unmasked_iff _ _

theorem Line.summary_iff {ln : Line} : ln.summary = true ↔
    ∃ k, k < 3 ∧ ln.causes.getLsbD k = true ∧ ln.masks.getLsbD k = false :=
  unmasked_iff _ _

theorem State.attnAsserted_iff : s.attnAsserted = true ↔
    s.deviceSummary = true ∨ ∃ l, (s.line l).summary = true := by
  unfold State.attnAsserted
  rw [Bool.or_eq_true, List.any_eq_true]
  refine or_congr_right ⟨fun ⟨ln, hmem, hln⟩ => ?_, fun ⟨l, hl⟩ => ⟨s.line l, ?_, hl⟩⟩
  · obtain ⟨i, hi, rfl⟩ := Vector.mem_iff_getElem.1 (Vector.mem_toList_iff.1 hmem)
    exact ⟨⟨i, hi⟩, hln⟩
  · exact Vector.mem_toList_iff.2 (Vector.getElem_mem l.isLt)

/-! ### The writes (R181, R182) -/

theorem exec_causeClear_device_of_taken (h : ByteTaken s p 2) :
    exec (.causeClear .device data p) s = .next (spiMoved (s.writeDeviceCauses data) p 2) :=
  congrArg Host.Outcome.next (State.spiByte_of_taken h)

theorem exec_maskWrite_device_of_taken (h : ByteTaken s p 3) :
    exec (.maskWrite .device data p) s = .next (spiMoved (s.writeDeviceMask data) p 3) :=
  congrArg Host.Outcome.next (State.spiByte_of_taken h)

/-- Both rows write a line byte alike. -/
theorem exec_lineByte_of_taken {c : Instr}
    (hc : c = .causeClear (.line l) data p ∨ c = .maskWrite (.line l) data p)
    (h : ByteTaken s p (4 + l.val)) :
    exec c s = .next (spiMoved (s.writeLineByte l data) p (4 + l.val)) := by
  obtain rfl | rfl := hc <;> exact congrArg Host.Outcome.next (State.spiByte_of_taken h)

/-- Nothing but the line's causes and masks is written. -/
theorem OnlyLine.writeLineByte (s : State) (p : SpiPlace) (l : LineIx) (data : Byte) (a : Nat) :
    OnlyLine (spiMoved s p a) (spiMoved (s.writeLineByte l data) p a) l
      { s.line l with causes := (s.line l).causes &&& ~~~(data.setWidth 3),
                      masks := (data >>> 4).setWidth 3 } :=
  .updLine (spiMoved s p a) l (fun ln =>
    { ln with causes := ln.causes &&& ~~~(data.setWidth 3), masks := (data >>> 4).setWidth 3 })

/-- Bits 4 to 6 of a line byte are its masks. -/
theorem getLsbD_lineMasks (data : Byte) (hk : k < 3) :
    ((data >>> 4).setWidth 3).getLsbD k = data.getLsbD (k + 4) := by
  simp [hk, Nat.add_comm]

end Sys2Proof.Machine

open Sys2Proof Sys2Proof.Machine

/-- Settles O9, by the state after each write, read bit by bit. -/
theorem causeAndMaskWrites : Obligations.CauseAndMaskWrites := by
  refine ⟨fun s p data => ⟨fun h => ?_, fun h => ?_⟩, fun s p l data c hc h => ?_, fun s => ?_⟩
  · exact ⟨_, exec_causeClear_device_of_taken h, rfl, fun _ => getLsbD_cleared s.deviceCauses data⟩
  · refine ⟨_, exec_maskWrite_device_of_taken h, rfl, fun k hk => ?_⟩
    exact (BitVec.getLsbD_setWidth 7 data k).trans (by simp [hk])
  · obtain ⟨hframe, hline, hothers⟩ := OnlyLine.writeLineByte s p l data (4 + l.val)
    refine ⟨_, exec_lineByte_of_taken hc h, ?_, fun k hk => ?_⟩
    · rw [hline]; exact ⟨hframe, hline, hothers⟩
    · rw [hline]; exact ⟨getLsbD_cleared (s.line l).causes data hk, getLsbD_lineMasks data hk⟩
  · rw [State.attnAsserted_iff, State.deviceSummary_iff]
    simp only [Line.summary_iff]
end

section
/-!
The relation that every cause that is set stays set (R179, R180): the operations of the table raise causes and
clear none, and so do the requests, the Line Units' own actions, the restarts and the sweeps.
-/

-- One theorem at a time: side by side they would need more memory than the check gives.
set_option Elab.async false

namespace Sys2Proof.Machine

/-- From `s` to `t` every device cause that is set stays set. -/
def DeviceCausesStay (s t : State) : Prop :=
  ∀ k, s.deviceCauses.getLsbD k = true → t.deviceCauses.getLsbD k = true

/-- From `s` to `t` every cause of a line that is set stays set. -/
def LineCausesStay (l : LineIx) (s t : State) : Prop :=
  ∀ k, (s.line l).causes.getLsbD k = true → (t.line l).causes.getLsbD k = true

/-- From `s` to `t` every cause that is set stays set. -/
structure CausesStay (s t : State) : Prop where
  device : DeviceCausesStay s t
  lines : ∀ l, LineCausesStay l s t

/-- A change of a Line Unit that clears none of its causes. -/
def KeepsLineCauses (f : Line → Line) : Prop :=
  ∀ ln k, ln.causes.getLsbD k = true → (f ln).causes.getLsbD k = true

variable {s t u : State} {c : Instr} {i : SlotIx} {l : LineIx} {r : Request}

namespace CausesStay

theorem trans (h : CausesStay s t) (g : CausesStay t u) : CausesStay s u :=
  ⟨fun k => g.device k ∘ h.device k, fun l k => g.lines l k ∘ h.lines l k⟩

/-- A step that writes no cause. -/
theorem of_causes (hd : t.deviceCauses = s.deviceCauses)
    (hl : ∀ l, (t.line l).causes = (s.line l).causes) : CausesStay s t :=
  ⟨fun k hk => by rw [hd]; exact hk, fun l k hk => by rw [hl]; exact hk⟩

/-- A step outside the lines and the device causes. -/
theorem of_same (hd : t.deviceCauses = s.deviceCauses := by rfl) (hl : t.lines = s.lines := by rfl) :
    CausesStay s t :=
  of_causes hd fun l => by rw [State.line_congr hl]

theorem refl (s : State) : CausesStay s s := of_same

theorem ite {a b : State} {p : Prop} [Decidable p] (ha : p → CausesStay s a) (hb : ¬ p → CausesStay s b) :
    CausesStay s (if p then a else b) := by
  split
  · exact ha ‹_›
  · exact hb ‹_›

theorem foldl {α : Type} (f : State → α → State) (hf : ∀ s a, CausesStay s (f s a)) (as : List α)
    (s : State) : CausesStay s (as.foldl f s) := by
  induction as generalizing s with
  | nil => exact refl s
  | cons a as ih => exact (hf s a).trans (ih _)

/-! ### Operations -/

theorem of_table (h : TableStep s t) : CausesStay s t :=
  ⟨h.causes, fun l k hk => by rw [h.lines l]; exact hk⟩

theorem raise (s : State) (c : DeviceCause) : CausesStay s (s.raise c) := of_table (.raise s c)

theorem updLine (s : State) (l : LineIx) (f : Line → Line)
    (hf : KeepsLineCauses f := by exact fun _ _ h => h) : CausesStay s (s.updLine l f) where
  device _ hk := hk
  lines m k hk := by
    rw [State.updLine_line]
    split
    · rename_i hm; subst hm; exact hf _ k hk
    · exact hk

/-- A command completes, and COMMAND_DONE is raised (R165). -/
theorem complete {code : ResultCode} {bytes : List Byte} (h : CausesStay s t) :
    CausesStay s (t.complete code bytes) := (h.trans (raise t .commandDone)).trans of_same

/-- A command completes whose work lies outside the lines and the device causes. -/
theorem completed {code : ResultCode} {bytes : List Byte}
    (hd : t.deviceCauses = s.deviceCauses := by rfl) (hl : t.lines = s.lines := by rfl) :
    CausesStay s (t.complete code bytes) := (of_same hd hl).complete

theorem retireRevoked (s : State) (e : EntryIx) (h w : List ClaimIx) :
    CausesStay s (((s.revokeClaims h).revokeClaims w).retireEntry e) := of_table (.revokeEntry s e h w)

theorem countNotice (s : State) (i : SlotIx) : CausesStay s (s.countNotice i) := of_same

theorem sendNotice (s : State) (l : LineIx) (frame : List Byte) : CausesStay s (s.sendNotice l frame) :=
  updLine s l _

theorem startNotice (s : State) (l : LineIx) (c : ClaimIx) (k : NoticeKind) :
    CausesStay s (s.startNotice l c k) :=
  ((countNotice s (s.claim c).session).trans (sendNotice _ l _)).trans (of_table (.forgetNotice _ c))

theorem startSessionEnded (s : State) (l : LineIx) (i : SlotIx) :
    CausesStay s (s.startSessionEnded l i) :=
  ((countNotice s i).trans (sendNotice _ l _)).trans of_same

theorem expireLease (s : State) (i : SlotIx) (time : Nat) : CausesStay s (s.expireLease i time) :=
  ite (fun _ => ((of_same (t := s.enterEnding i .leaseExpired)).trans (raise _ .sessionExpired)).trans of_same)
    fun _ => refl s

end CausesStay

/-! ### Requests (R7, R58) -/

/-- The checks common to the requests answer without raising a cause. -/
theorem State.commonChecks_deviceCauses (h : s.commonChecks i r = some t) :
    t.deviceCauses = s.deviceCauses := by
  unfold State.commonChecks at h
  split at h
  · cases h
    rw [State.suspendedLease]
    split <;> simp
  · cases h; simp
  · split at h
    · cases h; simp
    · split at h <;> cases h
      simp [State.answerFromCache]

theorem State.openClosed_deviceCauses : (s.openClosed i r).deviceCauses = s.deviceCauses := by
  unfold State.openClosed
  split
  · simp
  split
  · simp
  · unfold State.acceptOpen
    split <;> simp

theorem State.serveOpen_deviceCauses : (s.serveOpen i r).deviceCauses = s.deviceCauses := by
  unfold State.serveOpen
  split
  · simp
  split
  · split <;> simp [State.answerFromCache]
  · simp
  · exact openClosed_deviceCauses
  · exact openClosed_deviceCauses

theorem State.serveClose_deviceCauses : (s.serveClose i r).deviceCauses = s.deviceCauses := by
  unfold State.serveClose
  split
  · exact commonChecks_deviceCauses ‹_›
  · split <;> simp

theorem DeviceCausesStay.of_eq (h : t.deviceCauses = s.deviceCauses) : DeviceCausesStay s t :=
  fun k hk => by rw [h]; exact hk

/-- The kinds other than OPEN and CLOSE raise causes by their work on the table alone. -/
theorem DeviceCausesStay.serveRequest {act : State → SlotIx → Request → State × Reply}
    (hact : ∀ u, TableStep u (act u i r).1) : DeviceCausesStay s (State.serveRequest act s i r) := by
  unfold State.serveRequest
  split
  · exact .of_eq (State.commonChecks_deviceCauses ‹_›)
  · intro k hk
    simpa using (hact (s.setLease i)).causes k (by simpa using hk)

theorem DeviceCausesStay.requestStep {isKind : Byte → Bool} {serve : State → SlotIx → Request → State}
    (hserve : ∀ u i r, DeviceCausesStay u (serve u i r)) :
    DeviceCausesStay s (s.requestStep l isKind serve) := by
  unfold State.requestStep
  split
  next r _ =>
    split
    · exact fun k hk => hserve (s.takeFrame l r) _ _ k hk
    · exact fun _ => id
  next => exact fun _ => id

theorem RequestRow.deviceCausesStay (h : RequestRow l c) (s : State) :
    Answers (DeviceCausesStay s) (exec c s) := by
  cases h with
  | opens => exact .next (.requestStep fun _ _ _ => .of_eq State.serveOpen_deviceCauses)
  | closes => exact .next (.requestStep fun _ _ _ => .of_eq State.serveClose_deviceCauses)
  | renews =>
    exact .next (.requestStep fun _ i r => .serveRequest
      fun u => by rw [State.renew_state]; exact .refl u)
  | acquires => exact .next (.requestStep fun _ i r => .serveRequest fun u => .acquire u i r)
  | releases => exact .next (.requestStep fun _ i r => .serveRequest fun u => .release u i r)
  | converts => exact .next (.requestStep fun _ i r => .serveRequest fun u => .convert u i r)
  | cancels => exact .next (.requestStep fun _ i r => .serveRequest fun u => .cancel u i r)
  | queries =>
    exact .next (.requestStep fun _ i r => .serveRequest
      fun u => by rw [State.query_state]; exact .refl u)
  | groups => exact .next (.requestStep fun _ i r => .serveRequest fun u => .group u i r)
  | others => exact .next (.requestStep fun _ i r => .serveRequest fun u => .refl u)

/-- A request leaves the causes of its own line and of every other. -/
theorem RequestFrame.lineCauses (h : RequestFrame l s t) (m : LineIx) :
    (t.line m).causes = (s.line m).causes := by
  by_cases hm : m = l
  · obtain ⟨-, -, -, hcauses, -⟩ := h.own
    rw [hm, hcauses]
  · rw [h.lines m hm]

theorem RequestRow.causesStay (h : RequestRow l c) (s : State) : Answers (CausesStay s) (exec c s) := by
  obtain ⟨t, ht, hframe⟩ := h.frame s
  obtain ⟨v, hv, hdevice⟩ := h.deviceCausesStay s
  cases ht.symm.trans hv
  exact ⟨t, ht, hdevice, fun m k hk => by rw [hframe.lineCauses]; exact hk⟩

/-! ### The Line Units' own actions (R147 to R154, R180) -/

namespace KeepsLineCauses

/-- An event raises its cause or none. -/
theorem record (ev : LineEvent) : KeepsLineCauses (·.record ev) :=
  fun ln k hk => by simp [Line.record, hk]

theorem drop (ev : LineEvent) : KeepsLineCauses (·.drop ev) := record ev

theorem huntCharacter (ch : RxChar) : KeepsLineCauses (·.huntCharacter ch) := by
  intro ln k hk
  unfold Line.huntCharacter
  dsimp only
  split <;> exact hk

theorem lengthCharacter (ch : RxChar) : KeepsLineCauses (·.lengthCharacter ch) := by
  intro ln k hk
  unfold Line.lengthCharacter
  dsimp only
  split
  · exact drop _ ln k hk
  split
  · exact drop _ ln k hk
  · exact hk

theorem judgeFrame (n : Nat) (bytes : List Byte) (bad : Line → Bool) :
    KeepsLineCauses (fun ln => ln.judgeFrame n bytes (bad ln)) := by
  intro ln k hk
  unfold Line.judgeFrame
  dsimp only
  split
  · exact drop _ ln k hk
  split
  · exact drop _ ln k hk
  split
  · exact drop _ ln k hk
  split
  · exact drop _ ln k hk
  · exact record .good ln k hk

theorem breakDetected : KeepsLineCauses Line.breakDetected := by
  intro ln k hk
  unfold Line.breakDetected
  dsimp only
  split <;> exact drop .brk ln k hk

theorem breakEnded (high : Nat) : KeepsLineCauses (·.breakEnded high) := by
  intro ln k hk
  unfold Line.breakEnded
  dsimp only
  split <;> exact hk

end KeepsLineCauses

theorem LineAction.causesStay (h : LineAction l c) (s : State) : Answers (CausesStay s) (exec c s) := by
  cases h with
  | hunt ch => exact .ite (fun _ => .updLine s l _ (.huntCharacter ch)) (.refl s)
  | length ch => exact .ite (fun _ => .updLine s l _ (.lengthCharacter ch)) (.refl s)
  | body ch =>
    change Answers _ (execBodyCharacter l ch s)
    unfold execBodyCharacter
    split
    · exact .ite (fun _ => .updLine s l _) (.refl s)
    · exact .next (.refl s)
    · exact .next (.refl s)
  | frame ch =>
    change Answers _ (execFrameReceived l ch s)
    unfold execFrameReceived
    split
    · exact .ite (fun _ => .updLine s l _ (.judgeFrame _ _ _)) (.refl s)
    · exact .next (.refl s)
    · exact .next (.refl s)
  | gap idle => exact .ite (fun _ => .updLine s l _ (.drop .truncated)) (.refl s)
  | brk low => exact .ite (fun _ => .updLine s l _ .breakDetected) (.refl s)
  | brkEnd high => exact .next (.updLine s l _ (.breakEnded high))
  | reply idle =>
    change Answers _ (execReplyFrameStart l idle s)
    unfold execReplyFrameStart
    split
    · exact .ite (fun _ => .updLine s l _) (.refl s)
    · exact .next (.refl s)
  | sent => exact .next (.updLine s l _)

namespace CausesStay

/-! ### Restarts and sweeps (R89 to R91, R110, R155, R156, R169) -/

theorem restartStep (s : State) (l : LineIx) : CausesStay s (s.restartStep l) := by
  refine of_causes (by rw [RestartWrites.restartStep s l]) fun m => ?_
  rw [State.restartStep_line]
  split
  · rename_i hm; subst hm; rfl
  · rfl

theorem restartBegun (s : State) (l : LineIx) (fin : RestartEnd) :
    CausesStay s (s.restartBegun l fin) := by
  refine of_causes (by rw [State.restartBegun_writes]) fun m => ?_
  rw [State.restartBegun_line]
  split
  · rename_i hm; subst hm; rfl
  · rfl

theorem completeRestart (s : State) (l : LineIx) : CausesStay s (s.completeRestart l) :=
  ite (fun _ => complete (updLine s l _)) fun _ => refl s

theorem beginRestart (s : State) (l : LineIx) (fin : RestartEnd) : CausesStay s (s.beginRestart l fin) :=
  (restartBegun s l fin).trans (completeRestart _ l)

theorem endingStep (s : State) (i : SlotIx) (c : ClaimIx) : CausesStay s (s.endingStep i c) :=
  ((of_same (t := s.updSession i (fun x => { x with endingSweep := .running }))).trans
    (of_table (.takeBack _ c))).trans (foldl _ (fun v d => of_table (.clearThenPass v _ d)) _ _)

theorem fillReply (s : State) (i : SlotIx) (reply : Reply) : CausesStay s (s.fillReply i reply) :=
  updLine s (lineOf i) _

theorem withdrawSessionEnded (s : State) (i : SlotIx) : CausesStay s (s.withdrawSessionEnded i) :=
  updLine s (lineOf i) _

theorem settleClose (s : State) (i : SlotIx) : CausesStay s (s.settleClose i) :=
  ite (fun _ => (fillReply s i _).trans of_same) fun _ => refl s

theorem leaveEnding (s : State) (i : SlotIx) : CausesStay s (s.leaveEnding i) := by
  refine (of_same (t := s.updSession i (fun x => { x with endingSweep := .inactive }))).trans
    (ite (fun _ => ?_) fun _ => ite (fun _ => ?_) fun _ => of_same)
  · exact (settleClose _ i).trans of_same
  · exact .trans of_same (updLine _ (lineOf i) _)

theorem endingFinal (s : State) (i : SlotIx) : CausesStay s (s.endingFinal i) := by
  have hevict : ∀ v : State, CausesStay v (v.completeEvict i) := fun v =>
    ite (fun _ => completed) fun _ => refl v
  exact ((leaveEnding s i).trans (hevict _)).trans (completeRestart _ _)

theorem revokeStep (s : State) (n : NsIx) (e : EntryIx) : CausesStay s (s.revokeStep n e) :=
  (retireRevoked s e (s.entry e).holders (s.entry e).waiters).trans of_same

theorem revokeFinal (s : State) (n : NsIx) : CausesStay s (s.revokeFinal n) := completed

theorem clearFinal (s : State) : CausesStay s s.clearFinal := completed

theorem closeSession (s : State) (i : SlotIx) : CausesStay s (s.closeSession i) :=
  (((of_same (t := s.dropLease i)).trans (settleClose _ i)).trans (withdrawSessionEnded _ i)).trans
    of_same

theorem clearStep (s : State) (i : SlotIx) : CausesStay s (s.clearStep i) := by
  have hsession : CausesStay s (s.clearSession i) := by
    rw [State.clearSession_eq]
    exact ((of_same (t := s.causeCleared i)).trans (of_table (.claimsCleared s i))).trans (closeSession _ i)
  exact hsession.trans of_same

end CausesStay

end Sys2Proof.Machine
end

section
/-!
The commands of the host, and the dispatch: no well-formed command but device reset clears a cause outside the
window byte that it writes (R179 to R181, R185).
-/

-- One theorem at a time: side by side they would need more memory than the check gives.
set_option Elab.async false

namespace Sys2Proof.Machine

variable {s t : State} {c : Instr} {l : LineIx} {byte : Option CauseByte}

namespace CausesStay

/-! ### Management commands (R55, R103 to R107, R155, R158, R167 to R177) -/

theorem setTokenBase (s : State) : CausesStay s s.setTokenBase := by
  refine ite (fun _ => ?_) fun _ => completed
  have hload : CausesStay s { s with tokenCounter := s.param 0 6, tokenLoaded := true } := of_same
  exact complete (hload.trans (ite (fun _ => raise _ .tokensLow) fun _ => refl _))

theorem startService (s : State) : CausesStay s s.startService := by
  unfold State.startService
  split
  · exact ite (fun _ => completed) fun _ => completed
  all_goals exact completed

theorem suspendService (s : State) : CausesStay s s.suspendService := by
  unfold State.suspendService
  split <;> exact completed

theorem clearService (s : State) : CausesStay s s.clearService := by
  unfold State.clearService
  split
  · exact of_same
  all_goals exact completed

theorem defineNs (s : State) (n : NsIx) : CausesStay s (s.defineNs n) :=
  ite (fun _ => completed) fun _ => ite (fun _ => completed) fun _ => completed

theorem changeNs (s : State) (n : NsIx) : CausesStay s (s.changeNs n) :=
  ite (fun _ => completed) fun _ =>
    ite (fun _ => ite (fun _ => completed) fun _ => completed) fun _ => completed

theorem drainNs (s : State) (n : NsIx) : CausesStay s (s.drainNs n) :=
  complete ((of_same (t := s.updNs n (fun x => { x with state := .draining }))).trans
    (of_table (.completeDrain _ n)))

theorem disableNs (s : State) (n : NsIx) : CausesStay s (s.disableNs n) := by
  unfold State.disableNs
  split
  · exact completed
  · exact ite (fun _ => completed) fun _ => completed
  · exact ite (fun _ => drainNs s n) fun _ => ite (fun _ => of_same) fun _ => completed

theorem evict (s : State) (i : SlotIx) : CausesStay s (s.evict i) := by
  unfold State.evict
  split
  · exact completed
  · exact completed
  · exact completed
  · exact of_same

theorem revokeHolders (s : State) (e : EntryIx) : CausesStay s (s.revokeHolders e) :=
  complete (of_table ((TableStep.revokeClaims s (s.entry e).holders).trans (.grantPass _ e)))

theorem revokeAll (s : State) (e : EntryIx) : CausesStay s (s.revokeAll e) :=
  complete (retireRevoked s e (s.entry e).holders (s.entry e).waiters)

theorem revokeLock (s : State) : CausesStay s s.revokeLock := by
  unfold State.revokeLock
  split
  · exact completed
  refine ite (fun _ => ?_) fun _ => ite (fun _ => ?_) fun _ => completed
  · split
    · exact completed
    · exact revokeHolders s _
  · split
    · exact completed
    · exact revokeAll s _

theorem inspectLock (s : State) : CausesStay s s.inspectLock := by
  unfold State.inspectLock
  split
  · exact completed
  refine ite (fun _ => ?_) fun _ => completed
  split <;> exact completed

theorem configureLine (s : State) (l : LineIx) : CausesStay s (s.configureLine l) := by
  refine ite (fun _ => completed) fun _ => ?_
  split
  · exact complete (updLine s l _)
  · exact completed

theorem enableLine (s : State) (l : LineIx) : CausesStay s (s.enableLine l) := by
  unfold State.enableLine
  split
  · exact complete (updLine s l _)
  · exact completed
  · exact completed

theorem restartLine (s : State) (l : LineIx) : CausesStay s (s.restartLine l) := by
  rw [State.restartLine_eq]
  exact ite (fun _ => beginRestart s l _) fun _ => completed

theorem disableLine (s : State) (l : LineIx) : CausesStay s (s.disableLine l) := by
  rw [State.disableLine_eq]
  exact ite (fun _ => beginRestart s l _) fun _ => completed

theorem setLeaseBounds (s : State) : CausesStay s s.setLeaseBounds :=
  ite (fun _ => completed) fun _ => completed

theorem setPoolThreshold (s : State) : CausesStay s s.setPoolThreshold := by
  refine ite (fun _ => ?_) fun _ => completed
  have hset : CausesStay s { s with poolThreshold := s.param 0 2 } := of_same
  exact complete (hset.trans (ite (fun _ => raise _ .poolLow) fun _ => refl _))

theorem readCounters (s : State) : CausesStay s s.readCounters := by
  unfold State.readCounters
  split
  · exact complete (updLine s _ _)
  · exact ite (fun _ => completed) fun _ => completed

theorem nsCommand {run : State → NsIx → State} (hrun : ∀ s n, CausesStay s (run s n)) (s : State) :
    CausesStay s (s.nsCommand run) := by
  unfold State.nsCommand
  split
  · exact completed
  · exact hrun s _

theorem slotCommand {run : State → SlotIx → State} (hrun : ∀ s i, CausesStay s (run s i)) (s : State) :
    CausesStay s (s.slotCommand run) := by
  unfold State.slotCommand
  split
  · exact completed
  · exact hrun s _

theorem lineCommand {run : State → LineIx → State} (hrun : ∀ s l, CausesStay s (run s l)) (s : State) :
    CausesStay s (s.lineCommand run) := by
  unfold State.lineCommand
  split
  · exact completed
  · exact hrun s _

theorem commandStep {mine : Nat → Bool} {run : State → State} (hrun : ∀ v, CausesStay v (run v)) :
    CausesStay s (s.commandStep mine run) := by
  unfold State.commandStep
  split
  · exact ite (fun _ => (of_same (t := s.takeCommand)).trans (hrun _)) fun _ => refl s
  · exact refl s

/-! ### The host's writes (R162, R164, R181, R188) -/

theorem writeCommandCode (s : State) (data : Byte) : CausesStay s (s.writeCommandCode data) := by
  unfold State.writeCommandCode
  split
  · exact ite (fun _ => raise s _) fun _ => of_same
  · exact raise s _
  · exact ite (fun _ => of_same) fun _ => raise s _

/-- The cause bytes apart, no window byte clears a cause. -/
theorem writeWindow (s : State) {a : Nat} (ha : ¬ (2 ≤ a ∧ a ≤ 9)) (data : Byte) :
    CausesStay s (s.writeWindow a data) := by
  unfold State.writeWindow
  rw [if_neg (show a ≠ 2 by omega), if_neg (show a ≠ 3 by omega),
    dif_neg (show ¬ (4 ≤ a ∧ a ≤ 9) by omega)]
  refine ite (fun _ => writeCommandCode s data) fun _ => ?_
  split
  · exact of_same
  · exact refl s

end CausesStay

/-- REGISTER_WRITE writes no cause byte and no mask byte (R162). -/
theorem selectedAddress_of_wellFormed {addr data : Byte} {p : SpiPlace}
    (h : (Instr.registerWrite addr data p).wellFormed = true) :
    ¬ (2 ≤ selectedAddress addr ∧ selectedAddress addr ≤ 9) := by
  intro ⟨hlo, hhi⟩
  have hrow : hasOwnRow addr data = true :=
    Bool.or_eq_true_iff.2 (.inr (Bool.and_eq_true_iff.2 ⟨decide_eq_true hlo, decide_eq_true hhi⟩))
  rw [Instr.wellFormed, hrow] at h
  cases h

/-- The window byte whose causes a command may clear: the one that CAUSE_CLEAR writes, and a line byte that
MASK_WRITE writes. -/
def clearedByte : Instr → Option CauseByte
  | .causeClear target _ _ => some target
  | .maskWrite (.line l) _ _ => some (.line l)
  | _ => none

theorem eq_causeClear_of_clearedByte_device (h : clearedByte c = some .device) :
    ∃ p data, c = .causeClear .device data p := by
  unfold clearedByte at h
  split at h
  · cases h; exact ⟨_, _, rfl⟩
  · cases h
  · cases h

theorem eq_of_clearedByte_line (h : clearedByte c = some (.line l)) :
    ∃ p data, c = .causeClear (.line l) data p ∨ c = .maskWrite (.line l) data p := by
  unfold clearedByte at h
  split at h
  · cases h; exact ⟨_, _, .inl rfl⟩
  · cases h; exact ⟨_, _, .inr rfl⟩
  · cases h

/-- From `s` to `t` every cause that is set stays set, those of one window byte apart. -/
structure CausesStayBut (byte : Option CauseByte) (s t : State) : Prop where
  device : byte ≠ some .device → DeviceCausesStay s t
  lines : ∀ l, byte ≠ some (.line l) → LineCausesStay l s t

theorem CausesStay.but (h : CausesStay s t) : CausesStayBut byte s t :=
  ⟨fun _ => h.device, fun l _ => h.lines l⟩

theorem CausesStayBut.writeDeviceCauses (s : State) (data : Byte) :
    CausesStayBut (some .device) s (s.writeDeviceCauses data) :=
  ⟨fun h => absurd rfl h, fun _ _ _ => id⟩

theorem CausesStayBut.writeLineByte (s : State) (l : LineIx) (data : Byte) :
    CausesStayBut (some (.line l)) s (s.writeLineByte l data) where
  device _ _ := id
  lines m hm k hk := by
    have hlm : l ≠ m := fun h => hm (by rw [h])
    rw [State.writeLineByte, State.updLine_line_other _ _ _ _ hlm]
    exact hk

/-- A byte that is ignored writes nothing. -/
theorem CausesStayBut.spiByte {p : SpiPlace} {a : Nat} {write : State → State}
    (h : CausesStayBut byte s (write s)) : CausesStayBut byte s (s.spiByte p a write) := by
  unfold State.spiByte
  split
  · exact ⟨h.device, h.lines⟩
  · exact (CausesStay.refl s).but

/-! ### The dispatch -/

/-- A well-formed command but device reset clears no cause but those of the byte it writes. -/
theorem CausesStayBut.exec (s : State) (hwf : c.wellFormed = true) (hc : c ≠ .deviceReset) :
    Answers (CausesStayBut (clearedByte c) s) (Machine.exec c s) := by
  have all : ∀ {b : Option CauseByte} {a : Result},
      Answers (CausesStay s) a → Answers (CausesStayBut b s) a :=
    fun ⟨t, ht, h⟩ => ⟨t, ht, h.but⟩
  have one : ∀ {b : Option CauseByte} {t : State}, CausesStay s t → Answers (CausesStayBut b s) (.next t) :=
    fun h => .next h.but
  have same : CausesStay s s := .refl s
  have request : ∀ {b l c}, RequestRow l c → Answers (CausesStayBut b s) (Machine.exec c s) :=
    fun h => all (h.causesStay s)
  have line : ∀ {b l c}, LineAction l c → Answers (CausesStayBut b s) (Machine.exec c s) :=
    fun h => all (h.causesStay s)
  have command : ∀ {b : Option CauseByte} {mine : Nat → Bool} {run : State → State},
      (∀ v, CausesStay v (run v)) → Answers (CausesStayBut b s) (.next (s.commandStep mine run)) :=
    fun hrun => one (.commandStep hrun)
  have arbiter : ∀ p, CausesStay s (s.served p) := fun p => .of_same
  have source : ∀ p, CausesStay s (s.servedSweep p) := fun p => .of_same
  have expiry : CausesStay s s.takeExpiry := .of_same
  cases c with
  | deviceReset => exact absurd rfl hc
  | reqOpen l => exact request (l := l) .opens
  | reqClose l => exact request (l := l) .closes
  | reqRenew l => exact request (l := l) .renews
  | reqAcquire l => exact request (l := l) .acquires
  | reqRelease l => exact request (l := l) .releases
  | reqConvert l => exact request (l := l) .converts
  | reqCancel l => exact request (l := l) .cancels
  | reqQuery l => exact request (l := l) .queries
  | reqGroup l => exact request (l := l) .groups
  | reqUnknownKind l => exact request (l := l) .others
  | setTokenBase => exact command .setTokenBase
  | startService => exact command .startService
  | suspendService => exact command .suspendService
  | clearService => exact command .clearService
  | defineNamespace => exact command (.nsCommand .defineNs)
  | changeNamespace => exact command (.nsCommand .changeNs)
  | disableNamespaceDrain => exact command (.nsCommand .disableNs)
  | disableNamespaceRevoke => exact command (.nsCommand .disableNs)
  | evictSession => exact command (.slotCommand .evict)
  | inspectSession => exact command (.slotCommand fun _ _ => .completed)
  | revokeLockHolders => exact command .revokeLock
  | revokeLockAll => exact command .revokeLock
  | inspectLock => exact command .inspectLock
  | lineConfig => exact command (.lineCommand .configureLine)
  | lineEnable => exact command (.lineCommand .enableLine)
  | lineDisable => exact command (.lineCommand .disableLine)
  | lineRestart => exact command (.lineCommand .restartLine)
  | setLeaseBounds => exact command .setLeaseBounds
  | setPoolThreshold => exact command .setPoolThreshold
  | readCounters => exact command .readCounters
  | unknownCommand => exact command fun _ => .completed
  | mailboxAck p => exact .next (.spiByte (CausesStay.writeCommandCode s _).but)
  | registerWrite addr data p =>
    exact .next (.spiByte (CausesStay.writeWindow s (selectedAddress_of_wellFormed hwf) data).but)
  | causeClear target data p =>
    cases target with
    | device => exact .next (.spiByte (.writeDeviceCauses s data))
    | line l => exact .next (.spiByte (.writeLineByte s l data))
  | maskWrite target data p =>
    cases target with
    | device => exact .next (.spiByte (CausesStay.of_same (t := s.writeDeviceMask data)).but)
    | line l => exact .next (.spiByte (.writeLineByte s l data))
  | frameReceived l ch => exact line (.frame l ch)
  | lengthByte l ch => exact line (.length l ch)
  | gapLimitExpiry l idle => exact line (.gap l idle)
  | breakDetected l low => exact line (.brk l low)
  | requestSyncByte l ch => exact line (.hunt l ch)
  | bodyCharacter l ch => exact line (.body l ch)
  | replyFrameStart l idle => exact line (.reply l idle)
  | frameTransmissionEnd l => exact line (.sent l)
  | breakEnd l high => exact line (.brkEnd l high)
  | restartStep l => exact all (.ite (fun _ => (arbiter _).trans (.restartStep _ l)) same)
  | noticeFrameStart l idle =>
    change Answers _ (execNoticeFrameStart l idle s)
    unfold execNoticeFrameStart
    split
    · split
      · exact one (.startNotice s l _ _)
      · exact one same
    · exact one same
    · exact one same
  | sessionEndedFrameStart l idle =>
    change Answers _ (execSessionEndedFrameStart l idle s)
    unfold execSessionEndedFrameStart
    split
    · exact one (.startSessionEnded s l _)
    · exact one same
    · exact one same
  | timeCounterAdvance => exact one .of_same
  | posting =>
    change Answers _ (execPosting s)
    unfold execPosting
    split
    · exact all (.ite (fun _ => .of_same) same)
    · exact one same
  | leaseExpiry =>
    change Answers _ (execLeaseExpiry s)
    unfold execLeaseExpiry
    split
    · exact one (expiry.trans (.expireLease _ _ _))
    · exact one same
    · exact one same
  | waitExpiry =>
    change Answers _ (execWaitExpiry s)
    unfold execWaitExpiry
    split
    · exact one (expiry.trans (.of_table (.expireWait _ _ _ _)))
    · exact one same
    · exact one same
  | endingSweepStep i =>
    refine all (.ite (fun _ => ?_) same)
    split
    · exact (source _).trans (.endingStep _ i _)
    · exact same
  | endingSweepFinalStep i => exact all (.ite (fun _ => (source _).trans (.endingFinal _ i)) same)
  | revokeSweepStep n =>
    refine all (.ite (fun _ => ?_) same)
    split
    · exact (source _).trans (.revokeStep _ n _)
    · exact same
  | revokeSweepFinalStep n => exact all (.ite (fun _ => (source _).trans (.revokeFinal _ n)) same)
  | clearStep =>
    refine all (.ite (fun _ => ?_) same)
    split
    · exact (source _).trans (.clearStep _ _)
    · exact same
  | clearSweepFinalStep => exact all (.ite (fun _ => (source _).trans (.clearFinal _)) same)

end Sys2Proof.Machine

open Sys2Proof Sys2Proof.Machine

/-- Settles O10, by the one window byte whose causes a command may clear. -/
theorem causesStaySetUntilTheHostClearsThem : Obligations.CausesStaySetUntilTheHostClearsThem := by
  intro c s t hwf h hc
  obtain ⟨v, hv, hstep⟩ := CausesStayBut.exec s hwf hc
  cases hv.symm.trans h
  refine ⟨fun k hother => hstep.device (fun hb => ?_) k, fun l k hother => hstep.lines l (fun hb => ?_) k⟩
  · obtain ⟨p, data, hwrite⟩ := eq_causeClear_of_clearedByte_device hb
    exact hother p data hwrite
  · obtain ⟨p, data, hwrite⟩ := eq_of_clearedByte_line hb
    obtain ⟨hclear, hmask⟩ := hother p data
    exact hwrite.elim hclear hmask
end

section
/-!
The CRC as a map of its value: a bit step and a byte step lose nothing, and the value's own two bytes take it to
0, so they are the only pair that does (R187).
-/

namespace Sys2Proof.Machine

/-! ### The steps of the CRC as maps of its value -/

theorem crcBit_eq_xor (c : BitVec 16) (b : Bool) :
    crcBit c b = c <<< 1 ^^^ (if b == c.msb then 0#16 else 0x1021#16) := by
  unfold crcBit
  split <;> simp

/-- A bit that equals the value's most significant bit only shifts the value. -/
theorem crcBit_msb (c : BitVec 16) : crcBit c c.msb = c <<< 1 := by simp [crcBit_eq_xor]

/-- The bit shifted in is 0, so the low bit of the result tells whether the polynomial was combined in. -/
theorem crcBit_lsb (c : BitVec 16) (b : Bool) : (crcBit c b).getLsbD 0 = (b != c.msb) := by
  by_cases hb : b = c.msb <;> simp [crcBit_eq_xor, hb]

/-- A value is known from its most significant bit and its shift by one place. -/
theorem eq_of_msb_of_shiftLeft_one {c d : BitVec 16} (hmsb : c.msb = d.msb)
    (hshift : c <<< 1 = d <<< 1) : c = d := by
  ext i hi
  obtain rfl | hlow : i = 15 ∨ i < 15 := by omega
  · exact hmsb
  · have hbit := congrArg (BitVec.getLsbD · (i + 1)) hshift
    simpa [show i + 1 < 16 by omega] using hbit

/-- A bit step loses nothing: the low bit of its result gives back the bit that was shifted out. -/
theorem crcBit_injective (b : Bool) : Function.Injective (crcBit · b) := by
  intro c d (h : crcBit c b = crcBit d b)
  have hmsb : c.msb = d.msb := by
    have hlsb : (b != c.msb) = (b != d.msb) := by rw [← crcBit_lsb, h, crcBit_lsb]
    simpa using hlsb
  rw [crcBit_eq_xor, crcBit_eq_xor, hmsb, BitVec.xor_left_inj] at h
  exact eq_of_msb_of_shiftLeft_one hmsb h

/-- A byte step loses nothing, since none of its bit steps does. -/
theorem crcByte_injective (b : Byte) : Function.Injective (crcByte · b) := by
  have key (is : List Nat) :
      Function.Injective (is.foldl (fun acc i => crcBit acc (b.getLsbD i))) := by
    induction is with
    | nil => exact Function.injective_id
    | cons i is ih => exact ih.comp (crcBit_injective _)
  exact key _

/-- Bits that repeat the value's highest `n` bits shift these out and leave no trace. -/
theorem foldl_crcBit_of_high_bits (b : Byte) (n : Nat) (c : BitVec 16) (hn : n ≤ 16)
    (h : ∀ i < n, b.getLsbD i = c.getLsbD (i + (16 - n))) :
    (List.range n).reverse.foldl (fun acc i => crcBit acc (b.getLsbD i)) c = c <<< n := by
  induction n generalizing c with
  | zero => simp
  | succ n ih =>
    have hmsb : b.getLsbD n = c.msb := by
      rw [h n n.lt_succ_self, BitVec.msb_eq_getLsbD_last]
      congr 1; omega
    have hrest : ∀ i < n, b.getLsbD i = (c <<< 1).getLsbD (i + (16 - n)) := fun i hi => by
      have hplace : i + (16 - n) = i + (15 - n) + 1 := by omega
      have hlow : i + (15 - n) + 1 < 16 := by omega
      simp [h i (by omega), hplace, hlow, Nat.lt_of_succ_lt hlow]
    rw [List.range_succ, List.reverse_concat, List.foldl_cons, hmsb, crcBit_msb,
      ih _ (by omega) hrest, ← BitVec.shiftLeft_add, Nat.add_comm]

/-- A byte that equals the value's high byte takes it out: the low byte moves up over zeros. -/
theorem crcByte_high_byte (hi lo : Byte) : crcByte (hi ++ lo) hi = lo ++ 0#8 := by
  have hhigh : ∀ i < 8, hi.getLsbD i = (hi ++ lo).getLsbD (i + 8) := fun i _ => by
    rw [BitVec.getLsbD_append, if_neg (by omega), Nat.add_sub_cancel]
  calc crcByte (hi ++ lo) hi = (hi ++ lo) <<< 8 := foldl_crcBit_of_high_bits hi 8 _ (by omega) hhigh
    _ = lo ++ 0#8 := by
      refine BitVec.eq_of_getLsbD_eq fun i _ => ?_
      rw [BitVec.getLsbD_shiftLeft, BitVec.getLsbD_append, BitVec.getLsbD_append]
      grind

/-- The CRC run on over the two bytes of its own value ends at 0. -/
theorem crcByte_own_bytes (hi lo : Byte) : crcByte (crcByte (hi ++ lo) hi) lo = 0#16 := by
  rw [crcByte_high_byte, crcByte_high_byte]; rfl

/-- From no other value do these two bytes lead to 0. -/
theorem crcByte_crcByte_eq_zero_iff (c : BitVec 16) (hi lo : Byte) :
    crcByte (crcByte c hi) lo = 0#16 ↔ c = hi ++ lo := by
  rw [← crcByte_own_bytes hi lo]
  exact (crcByte_injective lo).eq_iff.trans (crcByte_injective hi).eq_iff

/-! ### The CRC of a list of bytes -/

theorem crcOf_append_pair (bs : List Byte) (hi lo : Byte) :
    crcOf (bs ++ [hi, lo]) = crcByte (crcByte (crcOf bs) hi) lo := by
  simp [crcOf]

theorem crcBytes_eq_iff (bs : List Byte) (hi lo : Byte) :
    crcBytes bs = [hi, lo] ↔ crcOf bs = hi ++ lo := by
  have hpair : (hi ++ lo).toNat = hi.toNat * 256 + lo.toNat := by
    rw [BitVec.toNat_append, ← Nat.shiftLeft_add_eq_or_of_lt lo.isLt, Nat.shiftLeft_eq]
  have hval : crcOf bs = hi ++ lo ↔ (crcOf bs).toNat = hi.toNat * 256 + lo.toNat :=
    BitVec.toNat_inj.symm.trans (by rw [← hpair])
  have hbytes : crcBytes bs = [hi, lo] ↔
      BitVec.ofNat 8 ((crcOf bs).toNat / 256) = hi ∧ BitVec.ofNat 8 (crcOf bs).toNat = lo := by
    simp [crcBytes, beBytes]
  rw [hbytes, hval]
  bv_omega

end Sys2Proof.Machine

open Sys2Proof Sys2Proof.Machine

/-- Settles O6: the CRC bytes are the only pair that takes the value to 0. -/
theorem crcOfAFrameEndsAtZero : Obligations.CrcOfAFrameEndsAtZero := by
  refine ⟨fun bytes hi lo => ?_, by decide +kernel⟩
  rw [crcOf_append_pair, crcByte_crcByte_eq_zero_iff, crcBytes_eq_iff]
end
